-- ==== Sys2Proof/Word.lean ====
section
/-! DEFINITION. Word types of the HX-740 and the plainest conversions between them. -/

namespace Sys2Proof

/-- One bit of an instruction word. -/
abbrev Bit := BitVec 1
/-- A byte of memory (R4). -/
abbrev Byte := BitVec 8
/-- A 16-bit value. -/
abbrev B16 := BitVec 16
/-- An instruction word, a vector register (R58, R75). -/
abbrev B32 := BitVec 32
/-- A scalar register, a stream word, a command word (R71, R75, R285). -/
abbrev B64 := BitVec 64

/-- Bits [lo+w-1:lo] of a number, as a number (R7). -/
def bits (x lo w : Nat) : Nat := (x >>> lo) % 2 ^ w

/-- Bit `i` of a number. -/
def bitAt (x i : Nat) : Bool := x.testBit i

/-- The two's-complement reading of the low `w` bits of a number. -/
def sext (w x : Nat) : Int :=
  let y := x % 2 ^ w
  if 2 * y < 2 ^ w then (y : Int) else (y : Int) - (2 ^ w : Nat)

/-- The low `w` bits of an exact integer, as a number (R7: a value narrows by keeping its low bits). -/
def wrap (w : Nat) (x : Int) : Nat := (x % ((2 ^ w : Nat) : Int)).toNat

/-- A Bool as one bit. -/
def b2n (b : Bool) : Nat := if b then 1 else 0

/-- The little-endian bytes of a number (R4). -/
def toBytes : Nat → Nat → List Byte
  | 0, _ => []
  | n + 1, x => BitVec.ofNat 8 x :: toBytes n (x >>> 8)

/-- The number that little-endian bytes hold (R4). -/
def ofBytes : List Byte → Nat
  | [] => 0
  | b :: bs => b.toNat + 256 * ofBytes bs

/-- Rounds `x` up to a multiple of `n`. -/
def roundUp (x n : Nat) : Nat := (x + (n - 1)) / n * n

end Sys2Proof
end

