-- ==== Sys2Proof/Machine/Crypto.lean ====
section
/-!
DEFINITION. SHA-384 and the ECDSA P-384 verification that R354 and R355 name: the manual refers to the published functions
(FIPS 180-4 and FIPS 186-5), which are spelled out here.
-/

namespace Sys2Proof.Machine

/-! ### SHA-384 -/

/-- The round constants. -/
def shaK : List Nat :=
  [
    0x428A2F98D728AE22, 0x7137449123EF65CD, 0xB5C0FBCFEC4D3B2F,
    0xE9B5DBA58189DBBC, 0x3956C25BF348B538, 0x59F111F1B605D019,
    0x923F82A4AF194F9B, 0xAB1C5ED5DA6D8118, 0xD807AA98A3030242,
    0x12835B0145706FBE, 0x243185BE4EE4B28C, 0x550C7DC3D5FFB4E2,
    0x72BE5D74F27B896F, 0x80DEB1FE3B1696B1, 0x9BDC06A725C71235]
  ++ [
    0xC19BF174CF692694, 0xE49B69C19EF14AD2, 0xEFBE4786384F25E3,
    0x0FC19DC68B8CD5B5, 0x240CA1CC77AC9C65, 0x2DE92C6F592B0275,
    0x4A7484AA6EA6E483, 0x5CB0A9DCBD41FBD4, 0x76F988DA831153B5,
    0x983E5152EE66DFAB, 0xA831C66D2DB43210, 0xB00327C898FB213F,
    0xBF597FC7BEEF0EE4, 0xC6E00BF33DA88FC2, 0xD5A79147930AA725]
  ++ [
    0x06CA6351E003826F, 0x142929670A0E6E70, 0x27B70A8546D22FFC,
    0x2E1B21385C26C926, 0x4D2C6DFC5AC42AED, 0x53380D139D95B3DF,
    0x650A73548BAF63DE, 0x766A0ABB3C77B2A8, 0x81C2C92E47EDAEE6,
    0x92722C851482353B, 0xA2BFE8A14CF10364, 0xA81A664BBC423001,
    0xC24B8B70D0F89791, 0xC76C51A30654BE30, 0xD192E819D6EF5218]
  ++ [
    0xD69906245565A910, 0xF40E35855771202A, 0x106AA07032BBD1B8,
    0x19A4C116B8D2D0C8, 0x1E376C085141AB53, 0x2748774CDF8EEB99,
    0x34B0BCB5E19B48A8, 0x391C0CB3C5C95A63, 0x4ED8AA4AE3418ACB,
    0x5B9CCA4F7763E373, 0x682E6FF3D6B2B8A3, 0x748F82EE5DEFB2FC,
    0x78A5636F43172F60, 0x84C87814A1F0AB72, 0x8CC702081A6439EC]
  ++ [
    0x90BEFFFA23631E28, 0xA4506CEBDE82BDE9, 0xBEF9A3F7B2C67915,
    0xC67178F2E372532B, 0xCA273ECEEA26619C, 0xD186B8C721C0C207,
    0xEADA7DD6CDE0EB1E, 0xF57D4F7FEE6ED178, 0x06F067AA72176FBA,
    0x0A637DC5A2C898A6, 0x113F9804BEF90DAE, 0x1B710B35131C471B,
    0x28DB77F523047D84, 0x32CAAB7B40C72493, 0x3C9EBE0A15C9BEBC]
  ++ [
    0x431D67C49C100D4C, 0x4CC5D4BECB3E42B6, 0x597F299CFC657E2A,
    0x5FCB6FAB3AD6FAEC, 0x6C44198C4A475817]

/-- The initial hash value. -/
def shaInit : List Nat :=
  [
    0xCBBB9D5DC1059ED8, 0x629A292A367CD507, 0x9159015A3070DD17,
    0x152FECD8F70E5939, 0x67332667FFC00B31, 0x8EB44A8768581511,
    0xDB0C2E0D64F98FA7, 0x47B5481DBEFA4FA4]

/-- A 64-bit rotation to the right. -/
def ror64 (x n : Nat) : Nat := (x / 2 ^ n) ||| (x * 2 ^ (64 - n) % 2 ^ 64)

/-- Big-endian bytes as a number. -/
def ofBytesBe (d : List Byte) : Nat := d.foldl (fun n b => n * 256 + b.toNat) 0

/-- A number as `n` big-endian bytes. -/
def toBytesBe (n x : Nat) : List Byte := (toBytes n x).reverse

/-- The message schedule: the last 16 words, latest first, and the words so far, latest first. -/
def shaSchedule : Nat → List Nat → List Nat
  | 0, w => w
  | n + 1, w =>
    let g (i : Nat) : Nat := w.getD (i - 1) 0
    let s0 := ror64 (g 15) 1 ^^^ ror64 (g 15) 8 ^^^ (g 15 / 2 ^ 7)
    let s1 := ror64 (g 2) 19 ^^^ ror64 (g 2) 61 ^^^ (g 2 / 2 ^ 6)
    shaSchedule n ((g 16 + s0 + g 7 + s1) % 2 ^ 64 :: w)

/-- One round on the eight working variables. -/
def shaRound (v : List Nat) (kw : Nat × Nat) : List Nat :=
  match v with
  | [a, b, c, d, e, f, g, h] =>
    let s1 := ror64 e 14 ^^^ ror64 e 18 ^^^ ror64 e 41
    let ch := (e &&& f) ^^^ ((2 ^ 64 - 1 - e) &&& g)
    let t1 := h + s1 + ch + kw.1 + kw.2
    let s0 := ror64 a 28 ^^^ ror64 a 34 ^^^ ror64 a 39
    let maj := (a &&& b) ^^^ (a &&& c) ^^^ (b &&& c)
    [(t1 + s0 + maj) % 2 ^ 64, a, b, c, (d + t1) % 2 ^ 64, e, f, g]
  | _ => v

/-- The `n` big-endian 8-byte words of a block. -/
def shaWords : Nat → List Byte → List Nat
  | 0, _ => []
  | n + 1, d => ofBytesBe (d.take 8) :: shaWords n (d.drop 8)

/-- The compression of one 128-byte block. -/
def shaBlock (h : List Nat) (d : List Byte) : List Nat :=
  let w := (shaSchedule 64 (shaWords 16 d).reverse).reverse
  let v := (shaK.zip w).foldl shaRound h
  (h.zip v).map fun x => (x.1 + x.2) % 2 ^ 64

/-- The compression of `n` blocks. -/
def shaBlocks : Nat → List Nat → List Byte → List Nat
  | 0, h, _ => h
  | n + 1, h, d => shaBlocks n (shaBlock h (d.take 128)) (d.drop 128)

/-- SHA-384 of bytes. -/
def sha384 (m : List Byte) : List Byte :=
  let k := (m.length + 17 + 127) / 128
  let d := m ++ [0x80] ++ List.replicate (128 * k - m.length - 17) 0 ++ toBytesBe 16 (8 * m.length)
  ((shaBlocks k shaInit d).take 6).flatMap (toBytesBe 8)

/-! ### ECDSA over P-384 -/

/-- The field's prime. -/
def ecP : Nat := 2 ^ 384 - 2 ^ 128 - 2 ^ 96 + 2 ^ 32 - 1
/-- The order of the base point. -/
def ecN : Nat := 0xFFFFFFFFFFFFFFFFFFFFFFFFFFFFFFFFFFFFFFFFFFFFFFFFC7634D81F4372DDF581A0DB248B0A77AECEC196ACCC52973
/-- The curve's coefficient b. -/
def ecB : Nat := 0xB3312FA7E23EE7E4988E056BE3F82D19181D9C6EFE8141120314088F5013875AC656398D8A2ED19D2A85C8EDD3EC2AEF
/-- The base point. -/
def ecG : Nat × Nat := (0xAA87CA22BE8B05378EB1C71EF320AD746E1D3B628BA79B9859F741E082542A385502F25DBF55296C3A545E3872760AB7,
  0x3617DE4A96262C6F5D9E98BF9292DC29F8F41DBD289A147CE9DA3113B5F0B8C00A60B1CE1D7E819D7A431D7C90EA0E5F)

/-- `x ^ e` modulo `m`, by the bits of `e` from bit `k − 1` down. -/
def powMod (m x e : Nat) : Nat → Nat → Nat
  | 0, acc => acc
  | k + 1, acc => powMod m x e k (if e.testBit k then acc * acc % m * x % m else acc * acc % m)

/-- The inverse modulo a prime. -/
def invMod (m x : Nat) : Nat := powMod m (x % m) (m - 2) 384 1

/-- A difference modulo the field's prime. -/
def ecSub (a b : Nat) : Nat := (a + (ecP - b % ecP)) % ecP

/-- A point on the curve; none is the point at infinity. -/
abbrev EcPoint := Option (Nat × Nat)

/-- The sum of two points. -/
def ecAdd (a b : EcPoint) : EcPoint :=
  match a, b with
  | none, _ => b
  | _, none => a
  | some (x, y), some (u, v) =>
    if x = u ∧ (y + v) % ecP = 0 then none
    else
      let l := if x = u then (3 * x * x + (ecP - 3)) * invMod ecP (2 * y) % ecP
        else ecSub v y * invMod ecP (ecSub u x) % ecP
      let w := ecSub (l * l) (x + u)
      some (w, ecSub (l * ecSub x w) y)

/-- A multiple of a point, by the bits of `k` from bit `n − 1` down. -/
def ecMul (k : Nat) (a : EcPoint) : Nat → EcPoint → EcPoint
  | 0, r => r
  | n + 1, r => let d := ecAdd r r; ecMul k a n (if k.testBit n then ecAdd d a else d)

/-- The point lies on the curve. -/
def ecOn (x y : Nat) : Bool :=
  decide (x < ecP ∧ y < ecP) && y * y % ecP == (x * x * x + (ecP - 3) * x + ecB) % ecP

/-- The verification of a signature over a digest by a public key x ‖ y. -/
def ecdsaVerify (key digest r s : List Byte) : Bool :=
  let x := ofBytesBe (key.take 48)
  let y := ofBytesBe ((key.drop 48).take 48)
  let r := ofBytesBe r
  let s := ofBytesBe s
  if !ecOn x y || r == 0 || ecN ≤ r || s == 0 || ecN ≤ s then false
  else
    let w := invMod ecN s
    let u1 := ofBytesBe digest * w % ecN
    let u2 := r * w % ecN
    match ecAdd (ecMul u1 (some ecG) 384 none) (ecMul u2 (some (x, y)) 384 none) with
    | none => false
    | some p => p.1 % ecN == r

end Sys2Proof.Machine
end

