-- ==== Sys2Proof/Syntax.lean ====
section
/-!
DEFINITION. The instructions of the HX-740: one constructor of `Instr` per row of the opcode table. The encoded words
carry the fields of their format (R58, R60, R71); a word whose opcode takes an EXT carries the EXT too (R56). Commands
(R285) carry their payload, and the steps that have no encoding carry what names their party.
-/

namespace Sys2Proof

/-- An EXT word: its own C bit and its payload (R56). -/
structure Ext where
  c : Bit
  p : BitVec 24
deriving DecidableEq, Repr

/-- Operands of no operand (R57, R145). -/
structure FmtC0 where
  c : Bit
deriving DecidableEq, Repr

/-- Operands of format A, two sources (R58). -/
structure FmtA where
  c : Bit
  n : Bit
  d : BitVec 7
  a : Byte
  b : Byte
deriving DecidableEq, Repr

/-- Operands of format A, one source: [7:0] is zero (R58). -/
structure FmtA1 where
  c : Bit
  n : Bit
  d : BitVec 7
  a : Byte
deriving DecidableEq, Repr

/-- Operands of format A that reads its destination: [23] is zero (R79, R124). -/
structure FmtD where
  c : Bit
  d : BitVec 7
  a : Byte
  b : Byte
deriving DecidableEq, Repr

/-- Operands of format A with an optional EXT (R61, R86). -/
structure FmtAx where
  c : Bit
  n : Bit
  d : BitVec 7
  a : Byte
  b : Byte
  x : Option Ext
deriving DecidableEq, Repr

/-- Operands of format A that reads its destination, with an optional EXT (R61). -/
structure FmtDx where
  c : Bit
  d : BitVec 7
  a : Byte
  b : Byte
  x : Option Ext
deriving DecidableEq, Repr

/-- Operands of a 32-bit immediate over FN and a required EXT (R78, R88). -/
structure FmtI where
  n : Bit
  d : BitVec 7
  i : Byte
  x : Ext
deriving DecidableEq, Repr

/-- Operands of a select whose required EXT names the predicate (R78, R88). -/
structure FmtS where
  n : Bit
  d : BitVec 7
  a : Byte
  b : Byte
  x : Ext
deriving DecidableEq, Repr

/-- Operands of format C, a compare (R58, R84). -/
structure FmtC where
  c : Bit
  k : BitVec 4
  p : BitVec 4
  a : Byte
  b : Byte
deriving DecidableEq, Repr

/-- Operands of format M with its required EXT, with a register result (R60). -/
structure FmtM where
  n : Bit
  d : BitVec 7
  g : Byte
  s : BitVec 3
  o : BitVec 2
  e : BitVec 3
  x : Ext
deriving DecidableEq, Repr

/-- Operands of format M with its required EXT, D naming stored data: [23] is zero (R59, R60). -/
structure FmtMs where
  d : BitVec 7
  g : Byte
  s : BitVec 3
  o : BitVec 2
  e : BitVec 3
  x : Ext
deriving DecidableEq, Repr

/-- Operands of LDBK: format M with SIZE and ORD zero (R238). -/
structure FmtLk where
  d : BitVec 7
  g : Byte
  e : BitVec 3
  x : Ext
deriving DecidableEq, Repr

/-- Operands of two predicate sources (R91). -/
structure FmtP where
  c : Bit
  p : BitVec 4
  i : Bit
  q : BitVec 4
  j : Bit
  r : BitVec 4
deriving DecidableEq, Repr

/-- Operands of one predicate source (R91). -/
structure FmtP1 where
  c : Bit
  p : BitVec 4
  i : Bit
  q : BitVec 4
deriving DecidableEq, Repr

/-- Operands of MFS (R92). -/
structure FmtMfs where
  c : Bit
  n : Bit
  d : BitVec 7
  f : Byte
deriving DecidableEq, Repr

/-- Operands of MTS (R92). -/
structure FmtMts where
  c : Bit
  a : Byte
  f : Byte
deriving DecidableEq, Repr

/-- Operands of CLOCK (R96). -/
structure FmtClk where
  c : Bit
  n : Bit
  d : BitVec 7
deriving DecidableEq, Repr

/-- Operands of format F, FN a code (R129, R143). -/
structure FmtF where
  c : Bit
  n : Bit
  d : BitVec 7
  a : Byte
  f : Byte
deriving DecidableEq, Repr

/-- Operands of CVT: format F with an optional EXT (R134). -/
structure FmtFx where
  c : Bit
  n : Bit
  d : BitVec 7
  a : Byte
  t : BitVec 4
  u : BitVec 4
  x : Option Ext
deriving DecidableEq, Repr

/-- Operands of QPK4 and QPK8: [23] is zero (R138). -/
structure FmtQ where
  c : Bit
  d : BitVec 7
  a : Byte
  f : BitVec 2
  m : Bit
deriving DecidableEq, Repr

/-- Operands of VOTE (R142). -/
structure FmtVote where
  c : Bit
  n : Bit
  d : BitVec 7
  i : Bit
  p : BitVec 4
  m : Byte
deriving DecidableEq, Repr

/-- Operands of FENCE (R260). -/
structure FmtFen where
  c : Bit
  s : BitVec 3
  k : BitVec 2
deriving DecidableEq, Repr

/-- Operands of family format without an EXT (R58). -/
structure FmtAb where
  c : Bit
  a : Byte
  b : Byte
deriving DecidableEq, Repr

/-- Operands of family format with a required EXT: [31] is one (R56, R58). -/
structure FmtAbx where
  a : Byte
  b : Byte
  x : Ext
deriving DecidableEq, Repr

/-- Operands of family format with an optional EXT (R56, R58). -/
structure FmtAbo where
  c : Bit
  a : Byte
  b : Byte
  x : Option Ext
deriving DecidableEq, Repr

/-- Operands of format B, a branch (R58). -/
structure FmtB where
  c : Bit
  p : BitVec 4
  s : Bit
  o : BitVec 19
deriving DecidableEq, Repr

/-- The fields of an MMA or MMAC stream word (R71). -/
structure MmFields where
  tile : BitVec 2
  areg : BitVec 4
  wreg : BitVec 4
  m : BitVec 5
  n8 : BitVec 6
  kb : BitVec 10
  wp : BitVec 3
  a16 : Bit
  q : BitVec 10
  sigen : Bit
  nb : BitVec 4
deriving DecidableEq, Repr

/-- The fields of an MCLR stream word (R71). -/
structure MclrFields where
  tile : BitVec 2
  q : BitVec 10
  sigen : Bit
  nb : BitVec 4
deriving DecidableEq, Repr

/-- The fields of an EPI stream word (R71). -/
structure EpiFields where
  tile : BitVec 2
  oreg : BitVec 4
  preg : BitVec 4
  act : BitVec 4
  ofmt : BitVec 4
  clr : Bit
  mul : Bit
  bias : Bit
  m : BitVec 5
  n8 : BitVec 6
  sigen : Bit
  nb : BitVec 4
deriving DecidableEq, Repr

/-- A message of the on-die network, a UCIe module or a link port (R335). -/
structure Msg where
  kind : Byte
  func : BitVec 5
  size : BitVec 3
  tag : B16
  src : BitVec 12
  part : BitVec 6
  ord : BitVec 2
  scope : BitVec 3
  poison : Bool
  addr : B64
  data : List Byte
deriving DecidableEq, Repr

/-- Who asks for a HOME_READ: a partition, and whether it fetches on a wrong path (R241). -/
structure HomeReader where
  part : Nat
  fetch : Bool
deriving DecidableEq, Repr

/-- A response and the home slice that sends it, by which the requester counts the request's tag (R258, R351). -/
structure Response where
  slice : Nat
  msg : Msg
deriving DecidableEq, Repr

/-- What the outside gives a boot stage (R353): whether the stage's own work succeeded, the flash image, and the core
map that firmware wrote. -/
structure BootInput where
  ok : Bool
  image : List Byte
  map : List B16
  count : Nat
deriving DecidableEq, Repr

/-- The instructions, stream words, command records and steps of the HX-740. -/
inductive Instr where
  /-- NOP (R57). Occupies no pipe, writes nothing and is not a cut; the fibre advances. -/
  | nop (f : FmtC0)
  /-- MOV (R78). Copies a 32-bit source into the destination of each fibre. -/
  | mov (f : FmtA1)
  /-- MOVI (R78). Writes a 32-bit immediate, formed from FN and the EXT payload, into each fibre. -/
  | movi (f : FmtI)
  /-- SEL (R78). Selects source A or source B per fibre by a predicate that the EXT payload names. -/
  | sel (f : FmtS)
  /-- IADD (R79). Adds two 32-bit values modulo 2^32 in each fibre. -/
  | iadd (f : FmtA)
  /-- ISUB (R79). Subtracts two 32-bit values modulo 2^32. -/
  | isub (f : FmtA)
  /-- IMUL (R79). Writes the low 32 bits of the product. -/
  | imul (f : FmtA)
  /-- IMULH (R79). Writes the high 32 bits of the signed product. -/
  | imulh (f : FmtA)
  /-- IMAD (R79). Multiplies the sources and adds the destination, modulo 2^32. -/
  | imad (f : FmtD)
  /-- IMIN (R79). Writes the signed minimum. -/
  | imin (f : FmtA)
  /-- IMAX (R79). Writes the signed maximum. -/
  | imax (f : FmtA)
  /-- NMIN (R79). Writes the natural minimum. -/
  | nmin (f : FmtA)
  /-- NMAX (R79). Writes the natural maximum. -/
  | nmax (f : FmtA)
  /-- IABS (R80). Writes the absolute value of a 32-bit signed source. -/
  | iabs (f : FmtA1)
  /-- INEG (R80). Writes the two's-complement negation of the source. -/
  | ineg (f : FmtA1)
  /-- AND (R79). Writes the bitwise AND of the sources. -/
  | and (f : FmtA)
  /-- OR (R79). Writes the bitwise OR of the sources. -/
  | or (f : FmtA)
  /-- XOR (R79). Writes the bitwise XOR of the sources. -/
  | xor (f : FmtA)
  /-- ANDN (R79). Writes A AND NOT B. -/
  | andn (f : FmtA)
  /-- NOT (R80). Writes the bitwise complement of the source. -/
  | not (f : FmtA1)
  /-- SHL (R81). Shifts left by the whole N32 count; counts of 32 or more give 0. -/
  | shl (f : FmtA)
  /-- SHR (R81). Shifts right with zero fill by the whole N32 count. -/
  | shr (f : FmtA)
  /-- SAR (R81). Shifts right with sign fill by the whole N32 count. -/
  | sar (f : FmtA)
  /-- ROT (R81). Rotates left by the count modulo 32. -/
  | rot (f : FmtA)
  /-- POPC (R80). Writes the number of 1 bits of the source. -/
  | popc (f : FmtA1)
  /-- CLZ (R80). Writes the number of leading zero bits of the source. -/
  | clz (f : FmtA1)
  /-- BREV (R80). Writes the source with its bit order reversed. -/
  | brev (f : FmtA1)
  /-- BFX (R83). Extracts a bit field that a control word describes, optionally sign-extended. -/
  | bfx (f : FmtA)
  /-- BFI (R83). Inserts a bit field of A into the destination. -/
  | bfi (f : FmtD)
  /-- ICMP (R84). Compares signed operands and writes a predicate in each fibre. -/
  | icmp (f : FmtC)
  /-- NCMP (R84). Compares natural operands and writes a predicate in each fibre. -/
  | ncmp (f : FmtC)
  /-- IADD64 (R85). Adds 64-bit operands into a register pair. -/
  | iadd64 (f : FmtA)
  /-- ISUB64 (R85). Subtracts 64-bit operands into a register pair. -/
  | isub64 (f : FmtA)
  /-- IMAD64 (R85). Multiplies 64-bit operands and adds the destination pair. -/
  | imad64 (f : FmtD)
  /-- SHL64 (R85). Shifts a 64-bit operand left by an N32 count. -/
  | shl64 (f : FmtA)
  /-- LEA (R86). Forms a 64-bit address from a base plus a scaled, extended index. -/
  | lea (f : FmtAx)
  /-- SADD (R87). Scalar 64-bit add, once per bundle. -/
  | sadd (f : FmtA)
  /-- SSUB (R87). Scalar 64-bit subtract. -/
  | ssub (f : FmtA)
  /-- SMUL (R87). Scalar 64-bit multiply, low half. -/
  | smul (f : FmtA)
  /-- SAND (R87). Scalar bitwise AND. -/
  | sand (f : FmtA)
  /-- SOR (R87). Scalar bitwise OR. -/
  | sor (f : FmtA)
  /-- SXOR (R87). Scalar bitwise XOR. -/
  | sxor (f : FmtA)
  /-- SSHL (R87). Scalar shift left; counts of 64 or more give 0. -/
  | sshl (f : FmtA)
  /-- SSHR (R87). Scalar shift right with zero fill. -/
  | sshr (f : FmtA)
  /-- SMIN (R87). Scalar signed minimum. -/
  | smin (f : FmtA)
  /-- SMAX (R87). Scalar signed maximum. -/
  | smax (f : FmtA)
  /-- SMOV (R88). Copies a 64-bit source into a scalar. -/
  | smov (f : FmtA1)
  /-- SMOVI (R88). Writes a sign-extended 32-bit immediate into a scalar. -/
  | smovi (f : FmtI)
  /-- SCMP (R89). Compares once per bundle and writes the result to a predicate of every fibre where it takes effect. -/
  | scmp (f : FmtC)
  /-- SSEL (R88). Selects a scalar source by a predicate of the lowest-slot fibre. -/
  | ssel (f : FmtS)
  /-- SLD (R90). Loads memory once per bundle for the acting fibre into a scalar. -/
  | sld (f : FmtM)
  /-- SST (R90). Stores the low bytes of a scalar once per bundle for the acting fibre. -/
  | sst (f : FmtMs)
  /-- PAND (R91). ANDs two predicates, each optionally inverted, in each fibre. -/
  | pand (f : FmtP)
  /-- POR (R91). ORs two predicates in each fibre. -/
  | por (f : FmtP)
  /-- PXOR (R91). XORs two predicates in each fibre. -/
  | pxor (f : FmtP)
  /-- PNOT (R91). Writes the complement of a predicate in each fibre. -/
  | pnot (f : FmtP1)
  /-- PMOV (R91). Copies a predicate, optionally inverted, in each fibre. -/
  | pmov (f : FmtP1)
  /-- MFS (R92). Reads a system register into a scalar. -/
  | mfs (f : FmtMfs)
  /-- MTS (R92). Writes the writable fields of a system register from a scalar source. -/
  | mts (f : FmtMts)
  /-- CLOCK (R96). Writes the core's CCLK count into a scalar. -/
  | clock (f : FmtClk)
  /-- FADD (R125). Adds F32 operands with one rounding in the chosen mode. -/
  | fadd (f : FmtAx)
  /-- FSUB (R125). Subtracts F32 operands with one rounding. -/
  | fsub (f : FmtAx)
  /-- FMUL (R125). Multiplies F32 operands with one rounding. -/
  | fmul (f : FmtAx)
  /-- FMA (R125). Fused F32 multiply-add into the destination with one rounding. -/
  | fma (f : FmtDx)
  /-- FMIN (R126). Returns the lesser F32 operand, with −0 below +0. -/
  | fmin (f : FmtA)
  /-- FMAX (R126). Returns the greater F32 operand. -/
  | fmax (f : FmtA)
  /-- FABS (R127). Clears the sign bit of an F32. -/
  | fabs (f : FmtA1)
  /-- FNEG (R127). Inverts the sign bit of an F32. -/
  | fneg (f : FmtA1)
  /-- FCMP (R130). Compares F32 operands and writes a predicate in each fibre. -/
  | fcmp (f : FmtC)
  /-- FCLASS (R128). Writes a one-hot mask that classifies an F32. -/
  | fclass (f : FmtA1)
  /-- FRND (R129). Rounds an F32 to an integral value in the mode that FN gives. -/
  | frnd (f : FmtF)
  /-- FRCP (R131). F32 reciprocal, rounded once. -/
  | frcp (f : FmtA1)
  /-- FRSQ (R131). F32 reciprocal square root. -/
  | frsq (f : FmtA1)
  /-- FSQRT (R131). F32 square root. -/
  | fsqrt (f : FmtA1)
  /-- FEXP2 (R131). F32 base-2 exponential. -/
  | fexp2 (f : FmtA1)
  /-- FLOG2 (R131). F32 base-2 logarithm. -/
  | flog2 (f : FmtA1)
  /-- FSIN (R131). F32 sine, with exact argument reduction. -/
  | fsin (f : FmtA1)
  /-- FCOS (R131). F32 cosine. -/
  | fcos (f : FmtA1)
  /-- FTANH (R131). F32 hyperbolic tangent. -/
  | ftanh (f : FmtA1)
  /-- HADD2 (R132). Adds two packed F16 halves. -/
  | hadd2 (f : FmtAx)
  /-- HMUL2 (R132). Multiplies two packed F16 halves. -/
  | hmul2 (f : FmtAx)
  /-- HFMA2 (R132). Fused multiply-add on packed F16 halves. -/
  | hfma2 (f : FmtDx)
  /-- BADD2 (R132). Adds two packed B16 halves. -/
  | badd2 (f : FmtAx)
  /-- BMUL2 (R132). Multiplies two packed B16 halves. -/
  | bmul2 (f : FmtAx)
  /-- BFMA2 (R132). Fused multiply-add on packed B16 halves. -/
  | bfma2 (f : FmtDx)
  /-- DADD (R133). F64 add into a register pair. -/
  | dadd (f : FmtAx)
  /-- DMUL (R133). F64 multiply into a register pair. -/
  | dmul (f : FmtAx)
  /-- DFMA (R133). F64 fused multiply-add into a register pair. -/
  | dfma (f : FmtDx)
  /-- DCMP (R130). Compares F64 operands and writes a predicate. -/
  | dcmp (f : FmtC)
  /-- CVT (R134). Converts between the formats that FN names, under R105 to R108. -/
  | cvt (f : FmtFx)
  /-- DOT4 (R135). Accumulates the dot product of four signed bytes. -/
  | dot4 (f : FmtD)
  /-- DOT4N (R135). Accumulates the dot product of four natural bytes. -/
  | dot4n (f : FmtD)
  /-- DOT8 (R135). Accumulates the dot product of eight signed nibbles. -/
  | dot8 (f : FmtD)
  /-- DOT84L (R135). Accumulates signed bytes times the low signed nibbles. -/
  | dot84l (f : FmtD)
  /-- DOT84H (R135). Accumulates signed bytes times the high signed nibbles. -/
  | dot84h (f : FmtD)
  /-- BSCL (R136). Converts a block-scaled integer sum to F32 using two scales. -/
  | bscl (f : FmtA)
  /-- QEXP (R137). Computes the quantiser's first scale for a block maximum. -/
  | qexp (f : FmtA)
  /-- QPK4 (R138). Quantises 24 values into a BQ4 block held in registers. -/
  | qpk4 (f : FmtQ)
  /-- QPK8 (R138). Quantises 24 values into a BQ8 block held in registers. -/
  | qpk8 (f : FmtQ)
  /-- QSWX (R139). Swaps values horizontally within a quad. -/
  | qswx (f : FmtA1)
  /-- QSWY (R139). Swaps values vertically within a quad. -/
  | qswy (f : FmtA1)
  /-- QSWD (R139). Swaps values diagonally within a quad. -/
  | qswd (f : FmtA1)
  /-- QBC (R139). Broadcasts position 0 of the quad. -/
  | qbc (f : FmtA1)
  /-- QDDX (R139). Writes the horizontal F32 difference within a quad. -/
  | qddx (f : FmtA1)
  /-- QDDY (R139). Writes the vertical F32 difference within a quad. -/
  | qddy (f : FmtA1)
  /-- SHFL (R141). Each receiver reads a source from the lane slot that B names. -/
  | shfl (f : FmtA)
  /-- SHFLX (R141). Each receiver reads a source from its own slot XOR B. -/
  | shflx (f : FmtA)
  /-- BCAST (R141). Broadcasts one slot's value to every receiver. -/
  | bcast (f : FmtA)
  /-- VOTE (R142). Writes a ballot, an any or an all of a predicate over the contributors. -/
  | vote (f : FmtVote)
  /-- WRED (R143). Reduces a value over the contributors with a fixed tree and writes it to every receiver. -/
  | wred (f : FmtF)
  /-- WSCAN (R143). Writes the inclusive prefix combination in slot order. -/
  | wscan (f : FmtF)
  /-- LD (R255). Loads global memory per fibre, relaxed or acquiring. -/
  | ld (f : FmtM)
  /-- ST (R255). Stores to global memory per fibre: held until commit, or released and written. -/
  | st (f : FmtMs)
  /-- LDBK (R238). Loads one block of a formatted page, with its scale, into registers. -/
  | ldbk (f : FmtLk)
  /-- ATOM (R257). Performs a read-modify-write or XA operation at the home per fibre, in slot order. -/
  | atom (f : FmtM)
  /-- RED (R257). Performs a reduction or exact add at the home with no return. -/
  | red (f : FmtMs)
  /-- LDS (R170). Loads from the block's S-space per fibre. -/
  | lds (f : FmtM)
  /-- STS (R170). Stores to S-space at once, shadowing the sector on the first plain store of a region. -/
  | sts (f : FmtMs)
  /-- LDA (R170). Loads from the block's A-space per fibre. -/
  | lda (f : FmtM)
  /-- STA (R170). Stores to A-space at once, with shadowing. -/
  | sta (f : FmtMs)
  /-- ATOMS (R173). Applies S-space atomics per fibre in slot order after committing the region. -/
  | atoms (f : FmtM)
  /-- FENCE (R260). Performs a release, an acquire or both at the named scope. -/
  | fence (f : FmtFen)
  /-- CFLUSH (R261). Writes dirty LOCAL sectors of a range back and then releases at .dev. -/
  | cflush (f : FmtAb)
  /-- CINV (R261). Writes back and drops the L1 copies of a range and then acquires at .dev. -/
  | cinv (f : FmtAb)
  /-- PREF (R242). Prefetches an address per fibre without faulting. -/
  | pref (f : FmtAb)
  /-- ARV (R259). Releases, adds 1 to an N32 counter at its home, acquires, and returns the old value. -/
  | arv (f : FmtAb)
  /-- DRAIN (R194). Waits until every earlier copy of the block that writes the named space is done or faulted. -/
  | drain (f : FmtAb)
  /-- SEAL (R193). Closes the open batch of a class. -/
  | seal (f : FmtAb)
  /-- WAITB (R194). Waits until at most n sealed batches of a class are unfinished. -/
  | waitb (f : FmtAb)
  /-- LALLOC (R175). Pins n lines in a space at the lowest free run of indices and reports the result. -/
  | lalloc (f : FmtAbx)
  /-- LFREE (R176). Waits until no copy or operation may touch a range, then unpins it. -/
  | lfree (f : FmtAb)
  /-- LQRY (R177). Reports the free and pinned lines of a space. -/
  | lqry (f : FmtAb)
  /-- TLBQ (R243). Reports the translation of a VA without faulting or filling. -/
  | tlbq (f : FmtAb)
  /-- CPY (R183). Starts a copy of a global window into a space, raw or quantising. -/
  | cpy (f : FmtAbx)
  /-- CPYO (R183). Starts a copy of a space window out to global memory. -/
  | cpyo (f : FmtAbx)
  /-- CPYM (R183). Starts a multicast copy into every block of the gang. -/
  | cpym (f : FmtAbx)
  /-- CPYT (R185). Starts a copy that writes weight plane blocks into W-space. -/
  | cpyt (f : FmtAbx)
  /-- CPYG (R183). Starts a gather of indexed global rows into a space. -/
  | cpyg (f : FmtAbx)
  /-- CPYBIN (R186). Starts a scatter of rows into bins of a bin table. -/
  | cpybin (f : FmtAbx)
  /-- CPYCH (R187). Starts a walk of a chain of transfer records. -/
  | cpych (f : FmtAbx)
  /-- CPYL (R183). Starts a copy from one space window to another. -/
  | cpyl (f : FmtAbx)
  /-- CPYQ (R188). Reports the status of the copy that a handle names. -/
  | cpyq (f : FmtAb)
  /-- BINIT (R201). Initialises a transaction barrier with its expected arrivals. -/
  | binit (f : FmtAb)
  /-- BEXP (R201). Adds expected bytes to a barrier's PENDING. -/
  | bexp (f : FmtAb)
  /-- BARV (R201). Arrives n times on a barrier and tests for phase completion. -/
  | barv (f : FmtAb)
  /-- BWAIT (R201). Waits for the barrier phase of a parity to end, then writes the predicate. -/
  | bwait (f : FmtAbx)
  /-- BTRY (R201). Tests the barrier phase without waiting. -/
  | btry (f : FmtAbx)
  /-- BINV (R201). Invalidates a barrier, waking waiters false and detaching its copies. -/
  | binv (f : FmtAb)
  /-- NBARV (R202). Arrives once on a numbered barrier. -/
  | nbarv (f : FmtAb)
  /-- NBWAIT (R202). Waits on a numbered barrier's phase and flips the wave's parity. -/
  | nbwait (f : FmtAb)
  /-- RACQ (R205). Acquires the next empty home slot or a lent pool slot of a ring. -/
  | racq (f : FmtAb)
  /-- RPUB (R205). Publishes a HELD slot as FULL, or binds it to a barrier phase. -/
  | rpub (f : FmtAbo)
  /-- RTAKE (R205). Waits until the oldest queued slot is FULL and takes it. -/
  | rtake (f : FmtAb)
  /-- RREL (R205). Releases a TAKEN slot back to EMPTY or to the pool. -/
  | rrel (f : FmtAb)
  /-- RQRY (R206). Reports a ring's state. -/
  | rqry (f : FmtAb)
  /-- MSTART (R215). Starts the block's matrix sequencer at a stream address. -/
  | mstart (f : FmtAb)
  /-- MQRY (R216). Reports the sequencer's state. -/
  | mqry (f : FmtAb)
  /-- GSIG (R327). Releases, and if a token is free adds n to a gate's COUNT and publishes its timestamp. -/
  | gsig (f : FmtAbx)
  /-- GWAIT (R328). Waits until a gate's COUNT reaches a target, then acquires. -/
  | gwait (f : FmtAbx)
  /-- GTRY (R328). Tests a gate's COUNT against a target without waiting. -/
  | gtry (f : FmtAbx)
  /-- GQRY (R328). Reads a gate's status word, COUNT or timestamp. -/
  | gqry (f : FmtAbo)
  /-- COLL (R346). Starts this member's part of a collective over a group. -/
  | coll (f : FmtAbx)
  /-- RATOM (R342). Sends an atomic to a peer partition's memory through a remote window. -/
  | ratom (f : FmtAbx)
  /-- LAUNCH (R294). Launches a child from a launch record on the device. -/
  | launch (f : FmtAbx)
  /-- WAITCH (R296). Waits for a child launch to complete. -/
  | waitch (f : FmtAbx)
  /-- EVSIG (R296). Releases and adds a value to an event's COUNT. -/
  | evsig (f : FmtAb)
  /-- EVWAIT (R296). Waits until an event's COUNT reaches a target, then acquires. -/
  | evwait (f : FmtAbx)
  /-- BRA (R146). Branches to a relative packet where the predicate test holds. -/
  | bra (f : FmtB)
  /-- BRX (R146). Jumps to a packet index held in a register. -/
  | brx (f : FmtAb)
  /-- CALLX (R146). Jumps to a computed target and links into a register. -/
  | callx (f : FmtAb)
  /-- RET (R146). Returns to a packet index held in a register. -/
  | ret (f : FmtAb)
  /-- FORK (R147). Creates a fibre in the lowest EMPTY slot of the wave. -/
  | fork (f : FmtAb)
  /-- EXIT (R148). Ends the fibre, making it HELPER or EMPTY, and ends the wave when no LIVE slot remains. -/
  | exit (f : FmtAb)
  /-- YIELD (R152). Gives the wave a new age, or passes the DET baton. -/
  | yield (f : FmtAb)
  /-- BAR (R151). Commits the region and waits at the block barrier that ends the phase. -/
  | bar (f : FmtAb)
  /-- CUT (R158). Commits the wave's region. -/
  | cut (f : FmtAb)
  /-- PRE (R158). Records the wave's liveness map and, when a pre-emption is pending, commits and stops. -/
  | pre (f : FmtAbo)
  /-- GRD (R67). Guards the words chained after it by a predicate. -/
  | grd (f : FmtAb)
  /-- ASSERT (R159). Stops the partition context with an ASSERT record when the predicate fails in a LIVE fibre. -/
  | assert (f : FmtAb)
  /-- TRAP (R159). Commits, stops the wave and delivers a TRAP record to the handler. -/
  | trap (f : FmtAb)
  /-- BKPT (R159). Commits, stops the wave and delivers a BKPT record to the handler or debug monitor. -/
  | bkpt (f : FmtAb)
  /-- RFE (R160). Restarts the handler's target wave and ends the handler run. -/
  | rfe (f : FmtAb)
  /-- HALT (R159). Stops every wave of the block and writes a HALT record to the mailbox. -/
  | halt (f : FmtAb)
  /-- ROLEQ (R150). Writes a predicate telling whether the wave's role matches, or whether it is FLEX. -/
  | roleq (f : FmtAb)
  /-- CALL (R146). Branches relatively and links into v(W−1). -/
  | call (f : FmtB)
  /-- MNOP (R222). Sequencer word with no effect. -/
  | mnop 
  /-- MMA (R217). Begins a plane-array multiply that accumulates into a tile at its existing binary point. -/
  | mma (f : MmFields)
  /-- MMAC (R217). Clears a tile, sets its binary point and begins a plane-array multiply into it. -/
  | mmac (f : MmFields)
  /-- MCLR (R217). Clears a tile and sets its binary point. -/
  | mclr (f : MclrFields)
  /-- EPI (R220). Begins the epilogue that converts a tile and writes it to S-space or A-space. -/
  | epi (f : EpiFields)
  /-- MSET (R222). Sets all or the top 16 bits of a sequencer register. -/
  | mset (reg : BitVec 4) (sel : BitVec 2) (imm : BitVec 48)
  /-- MADD (R222). Adds a shifted immediate to a sequencer register. -/
  | madd (dreg areg : BitVec 4) (shift : BitVec 6) (imm : B32)
  /-- MLOOP (R222). Decrements a register and branches while it is nonzero. -/
  | mloop (reg : BitVec 4) (off : BitVec 20)
  /-- MJMP (R222). Jumps relatively in the stream. -/
  | mjmp (off : BitVec 20)
  /-- MWAIT (R223). Waits on a numbered barrier phase and flips the sequencer parity. -/
  | mwait (nb : BitVec 4)
  /-- MSIG (R223). Arrives on a numbered barrier once every earlier operation is complete and visible. -/
  | msig (nb : BitVec 4)
  /-- MHALT (R222). Waits for operations under way, delivers flags, and sets the sequencer IDLE. -/
  | mhalt 
  /-- ARRAY_OP_COMPLETE (R223). An MMA, MMAC, MCLR or EPI completes; its writes become visible and SIGEN arrives. -/
  | arrayOpComplete (blk : Nat) (isEpi : Bool)
  /-- NOPC (R285). Command record whose payload words are skipped. -/
  | nopc (len : Nat)
  /-- LAUNCH_COMMAND (R289). Command record that checks a launch record and starts the launch. -/
  | launchCommand (ptr : Bool) (queue : B32) (words : List B64)
  /-- FLAUNCH (R305). Command record that starts a frontier launch from a launch record and a frontier record. -/
  | flaunch (ptr : Bool) (queue : B32) (words : List B64)
  /-- COPYC (R285). Command record that copies bytes at .part before the next record. -/
  | copyc (src dst count : B64)
  /-- WRITEC (R285). Command record that stores data words and then releases at .part. -/
  | writec (va : B64) (data : List B64)
  /-- EVSIGC (R285). Command record that adds a value to an event, optionally after earlier launches complete. -/
  | evsigc (after : Bool) (value : B32) (va : B64)
  /-- EVWAITC (R285). Command record that holds the queue until an event's COUNT reaches a target. -/
  | evwaitc (va target : B64)
  /-- IBCALL (R285). Command record that executes an indirect buffer and returns. -/
  | ibcall (va bytes : B64)
  /-- PREDC (R285). Command record that skips the next k records by a memory word. -/
  | predc (sense : Bool) (k : B32) (va : B64)
  /-- LOOPC (R285). Command record that runs the next k records n times. -/
  | loopc (n : B32) (k : B64)
  /-- FFENCE (R287). Command record that discards fetched records, optionally after draining earlier launches. -/
  | ffence (drain : Bool)
  /-- TSC (R285). Command record that writes the hub's NCLK count and the launch count. -/
  | tsc (va : B64)
  /-- SAVEC (R315). Command record that stops a frontier launch and saves its progress to its record. -/
  | savec (launch : B32)
  /-- EVWAITC_WAKE (R285). A waiting EVWAITC finds its target met, acquires, and the queue resumes. -/
  | evwaitcWake (part q : Nat)
  /-- QTAIL_WRITE (R283). Publishes records to a queue by moving TAIL, unless the write is ignored. -/
  | qtailWrite (part q : Nat) (v : B32)
  /-- QUEUE_RESUME (R286). A write of RUN = 1 clears FAULT and resumes the queue at HEAD. -/
  | queueResume (part q : Nat)
  /-- QRES_WRITE (R284). Sets a queue's bandwidth shares unless a sum would exceed 224. -/
  | qresWrite (part q : Nat) (v : B64)
  /-- GANG_DEAL (R291). The launch engine tries to place the next gang on a cluster that admits it. -/
  | gangDeal (part launch : Nat)
  /-- BLOCK_END (R31). A block whose waves, copies and sequencer are finished ends and frees its resources. -/
  | blockEnd (blk : Nat)
  /-- LAUNCH_COMPLETE (R290). A launch whose blocks and copies are finished signals its event and frees its pool entry. -/
  | launchComplete (part launch : Nat)
  /-- WAVE_RESCHEDULE (R34). A descheduled wave gets an allotment again and resumes after its BAR. -/
  | waveReschedule (blk wave : Nat)
  /-- FLEX_MARK (R43). A watched ring stays below T or above T2 for Wn CCLK and a FLEX wave is marked for conversion. -/
  | flexMark (blk : Nat) (toLoad : Bool)
  /-- PACKET_COUNT_CUT (R153). A wave completes 4,096 packets in a region and takes an implicit cut. -/
  | packetCountCut (blk wave : Nat)
  /-- LOW_RESOURCE_CUT (R153). Hold buffer, rename headroom or shadow pool falls low and the wave takes an implicit cut. -/
  | lowResourceCut (blk wave : Nat)
  /-- HOLD_QUOTA_CUT (R153). A P2 wave's held bytes reach 12 KiB and it takes an implicit cut. -/
  | holdQuotaCut (blk wave : Nat)
  /-- SHADOW_DEADLOCK_ROLLBACK (R368). Every shadow-holding wave waits for a sector, so the youngest rolls back and
  re-runs in the slow gear. -/
  | shadowDeadlockRollback (core : Nat)
  /-- SCOUT_END (R264). The scout ends, the wave rolls back, and a batch or the slow gear is chosen. -/
  | scoutEnd (blk wave : Nat)
  /-- SLOW_GEAR_STEP (R269). The chosen fibre executes one chain group alone in the slow gear. -/
  | slowGearStep (blk wave : Nat)
  /-- NO_CONVERGE (R270). 2^20 slow-gear steps pass with no end; the wave rolls back and the block is killed. -/
  | noConverge (blk wave : Nat)
  /-- HANDLER_RUN_START (R274). A handler run starts in wave slot 63 for a stopped wave, with its presets. -/
  | handlerRunStart (core : Nat)
  /-- FAULT_RECORD_WRITE (R267). A waiting record is written to the fault queue once FULL is clear, and TAIL advances. -/
  | faultRecordWrite (part : Nat)
  /-- FQ_ANSWER_WRITE (R268). The driver answers a batch, waking its waves, copies and sequencer with the recorded HOSTTS. -/
  | fqAnswerWrite (part : Nat) (v : B64)
  /-- CONTEXT_RESET (R275). A CTX.RESET write kills the partition's blocks, completes its launches with ERR and empties
  its queues. -/
  | contextReset (part : Nat)
  /-- DOORBELL (R276). A host write of MBOX.DOOR starts a monitor handler run with CODE 0xFFFE. -/
  | doorbell (part : Nat)
  /-- MBOX_HALT (R276). Mailbox command that stops every wave of a launch at its next cut. -/
  | mboxHalt (part : Nat) (launch : B64)
  /-- MBOX_RESUME (R276). Mailbox command that resumes a wave with RFE. -/
  | mboxResume (part core wave : Nat)
  /-- MBOX_READREG (R276). Mailbox command that returns a register of a stopped wave. -/
  | mboxReadreg (part core wave sel reg fibre : Nat)
  /-- MBOX_WRITEREG (R276). Mailbox command that writes a register of a stopped wave. -/
  | mboxWritereg (part core wave sel reg fibre : Nat) (data : B64)
  /-- MBOX_READMEM (R276). Mailbox command that returns memory bytes. -/
  | mboxReadmem (part : Nat) (va : B64) (len : Nat)
  /-- MBOX_WRITEMEM (R276). Mailbox command that writes memory bytes and releases at .part. -/
  | mboxWritemem (part : Nat) (va : B64) (data : List Byte)
  /-- MBOX_STEP (R276). Mailbox command that runs a wave for one slow-gear step. -/
  | mboxStep (part core wave : Nat)
  /-- MBOX_SETBKPT (R276). Mailbox command that sets a monitor breakpoint. -/
  | mboxSetbkpt (part : Nat) (va : B64)
  /-- MBOX_CLRBKPT (R276). Mailbox command that removes a monitor breakpoint. -/
  | mboxClrbkpt (part : Nat) (va : B64)
  /-- MBOX_QUERY (R276). Mailbox command that returns CTX, FQ_TAIL and the stopped waves. -/
  | mboxQuery (part : Nat)
  /-- COUNT (R198). The copy engine counts a landed sector's bytes off its barrier and tests for completion. -/
  | count (core slot : Nat)
  /-- COPY_DESCRIPTOR_READ (R181). The copy engine reads a copy's descriptor once after its start. -/
  | copyDescriptorRead (core slot : Nat)
  /-- COPY_DONE (R193). A copy completes, frees its slot, and finishes any batch that has become complete. -/
  | copyDone (core slot : Nat)
  /-- COPY_FAULT (R189). A copy ends faulted, accounts its unwritten bytes and stops or kills its block. -/
  | copyFault (core slot : Nat)
  /-- COPY_BATCH_WAIT (R280). A copy with only NOT-PRESENT sectors owed enters STATE 6 and writes its BATCH record. -/
  | copyBatchWait (core slot : Nat)
  /-- TRANSFER_RECORD (R187). The copy engine processes one owned transfer record of a chain and hands it back. -/
  | transferRecord (core slot : Nat)
  /-- BLOCK_SAVE (R310). Once every wave of a pending block has stopped, the save engine writes its image and frees it. -/
  | blockSave (blk : Nat)
  /-- BLOCK_RESTORE (R314). A saved block image is restored on a core that admits it. -/
  | blockRestore (part image : Nat)
  /-- GRACE_EXPIRY (R309). The grace window expires and the remaining waves stop as FORCED. -/
  | graceExpiry (blk : Nat)
  /-- PREEMPT_GO (R307). A PREEMPT write requests pre-emption of every resident block of a launch. -/
  | preemptGo (part : Nat) (v : B64)
  /-- SLICE_EXPIRY (R321). A time slice ends on a shared cluster, pre-empting the outgoing partition's blocks. -/
  | sliceExpiry (cluster : Nat)
  /-- CLUSTER_ASSIGN_WRITE (R321). A write to CLA or CLM changes admission and pre-empts blocks no longer allowed. -/
  | clusterAssignWrite (cluster : Nat) (mask : Bool) (v : B64)
  /-- CORE_BUDGET_WRITE (R39). A write of CORE_BUDGET governs later admissions and retries waiting launches. -/
  | coreBudgetWrite (core : Nat) (v : B32)
  /-- LAUNCH_STARVED (R295). The launch pool stays full for 2^20 CCLK and the oldest waiting LAUNCH and WAITCH give up. -/
  | launchStarved (part : Nat)
  /-- POOL_ENTRY_FREED (R295). A freed launch-pool entry goes to the longest waiter, restoring its block. -/
  | poolEntryFreed (part : Nat)
  /-- BWAIT_WAKE (R201). A waiting BWAIT returns when the phase ends or the barrier is invalidated. -/
  | bwaitWake (blk wave : Nat)
  /-- NBWAIT_WAKE (R202). A waiting NBWAIT returns when the numbered barrier flips phase. -/
  | nbwaitWake (blk wave : Nat)
  /-- MWAIT_WAKE (R223). A waiting MWAIT returns and the sequencer goes on. -/
  | mwaitWake (blk : Nat)
  /-- RTAKE_WAKE (R205). A waiting RTAKE takes the oldest slot once it is FULL. -/
  | rtakeWake (blk wave : Nat)
  /-- RACQ_WAKE (R205). A waiting RACQ takes a slot that has become free. -/
  | racqWake (blk wave : Nat)
  /-- WAITB_WAKE (R194). A waiting WAITB or DRAIN returns and acquires at .block. -/
  | waitbWake (blk wave : Nat)
  /-- GWAIT_WAKE (R328). A waiting GWAIT returns when its target is met or the gate is freed. -/
  | gwaitWake (blk wave : Nat)
  /-- EVWAIT_WAKE (R296). A waiting EVWAIT returns once COUNT reaches its target. -/
  | evwaitWake (blk wave : Nat)
  /-- WAITCH_WAKE (R296). A waiting WAITCH returns when its child completes. -/
  | waitchWake (blk wave : Nat)
  /-- PTS_TICK (R251). Every 64 CCLK each core adds 1 to pts for each partition with a resident block. -/
  | ptsTick (core : Nat)
  /-- PTS_REBASE (R251). A pts reaching 2^47 makes the partition quiesce and subtract 2^46 from its logical times. -/
  | ptsRebase (part : Nat)
  /-- HOME_READ (R249). A home slice serves a READ fill or renewal and extends the line's lease. -/
  | homeRead (core : Nat) (who : HomeReader) (va pa : Nat)
  /-- HOME_WRITE (R249). A home slice applies a store or copy write as one WRITE step and acknowledges it with ts. -/
  | homeWrite (core : Nat)
  /-- HOME_ATOM (R350). A home slice applies an ATOM, RED or ARV request once and answers with RSP. -/
  | homeAtom (m : Msg)
  /-- RSP (R351). A requester completes a request at its first response and discards later ones. -/
  | rsp (r : Response)
  /-- REQUEST_RESEND (R258). An unacknowledged request is resent with the same tag after 2^16 NCLK. -/
  | requestResend (src slice : Nat) (tag : B16)
  /-- REC (R343). An abacus unit merges a partial sum and forwards or rounds the cell. -/
  | recMerge (abacus : Nat) (m : Msg)
  /-- REMOTE_REQUEST (R340). A peer's link port translates a remote request and applies it at the home. -/
  | remoteRequest (port : Nat) (m : Msg)
  /-- DATA_FLIT (R337). A receiver accepts, discards as a duplicate, or NAKs an arriving DATA flit. -/
  | dataFlit (e : Nat) (flit : List Byte)
  /-- IDLE_FLIT (R337). A receiver applies the ACK of an IDLE flit. -/
  | idleFlit (e : Nat) (flit : List Byte)
  /-- NAK_FLIT (R337). A sender receiving a NAK resends every held flit from ACK + 1. -/
  | nakFlit (e : Nat) (flit : List Byte)
  /-- RETRAIN (R338). A third CRC failure within 1 ms stops traffic and retrains the module or port. -/
  | retrain (link : Nat)
  /-- RETRAIN_ATTEMPT_END (R338). A retraining attempt ends with the module up, at half width, or failed. -/
  | retrainAttemptEnd (link : Nat) (lowBad highBad : Bool)
  /-- CXL_MEM_READ (R253). A host CXL.mem read is applied at the line's home without extending a lease. -/
  | cxlMemRead (pa len : Nat)
  /-- CXL_MEM_WRITE (R253). A host CXL.mem write is applied after every lease of the line and raises HOSTTS. -/
  | cxlMemWrite (pa : Nat) (data : List Byte)
  /-- TLB_INV_GO (R240). A TLB_INV write starts an invalidation of a page or of every translation. -/
  | tlbInvGo (part : Nat) (v : B64)
  /-- TLB_INV_COMPLETE (R240). An invalidation completes and GO returns to 0. -/
  | tlbInvComplete (part : Nat)
  /-- GATE_CREATE (R323). Partition 0 makes a gate VALID. -/
  | gateCreate (g : Nat) (v : B64)
  /-- GATE_FREE (R323). Partition 0 frees a gate, ending its waits and queued signals false. -/
  | gateFree (g : Nat) (v : B64)
  /-- TOKEN_REFILL (R324). Every 1,600 NCLK a gate gains RATE tokens up to DEPTH. -/
  | tokenRefill (g : Nat)
  /-- GATE_EXPORT (R333). A gate is put in TRANSIT and its migration record written. -/
  | gateExport 
  /-- GATE_IMPORT (R333). A migration record is checked and loaded into a FREE gate, which becomes VALID. -/
  | gateImport 
  /-- REGISTER_WRITE (R6). A write to a register that has no behaviour of its own replaces its writable fields. -/
  | registerWrite (fn bar off size : Nat) (v : B64)
  /-- COLD_RESET (R352). Package power becomes good and every register resets. -/
  | coldReset 
  /-- WARM_RESET (R352). A CXL conventional reset, a sideband RESET or an FLR of function 0 resets the device. -/
  | warmReset 
  /-- FUNCTION_LEVEL_RESET (R352). An FLR of a virtual function resets that partition's context. -/
  | functionLevelReset (fn : Nat)
  /-- BOOT_STAGE (R353). A boot stage completes or fails and BOOT_STAT moves on. -/
  | bootStage (x : BootInput)
  /-- ATTESTATION_REPORT (R355). An SPDM request produces a signed report of the measurements. -/
  | attestationReport (nonce : List Byte)
  /-- POWER_WINDOW (R358). At the end of each 1 ms window the controller moves die clock steps by power and temperature. -/
  | powerWindow (watts : Nat) (temps : List Nat)
  /-- FATAL_ERROR (R277). A fatal error records FATAL and puts the device in the viral state. -/
  | fatalError (cause unitNo : Byte)
  /-- SIDEBAND_READ (R360). Sideband command that returns a management register. -/
  | sidebandRead (off : Nat)
  /-- SIDEBAND_RESET (R360). Sideband command that acknowledges and then warm-resets the device. -/
  | sidebandReset 
  /-- FLIT_SLOT (R337). At each flit slot a module or port sender sends a new DATA flit holding the messages that are
  ready, or an IDLE flit carrying its ACK. -/
  | flitSlot (e : Nat)
  /-- LINK_TRAINING (R339). A link port trains with its peer, learns the peer's DEVNUM into LP_STAT.PEER and comes up. -/
  | linkTraining (port : Nat) (peer : Byte) (ok : Bool)
  /-- CXL_CACHE_SNOOP (R253). The host sends a CXL.cache request for a SYS line whose host-side coherence state the port
  on HD0 holds under an open lease. -/
  | cxlCacheSnoop (pa : Nat) (data : Option (List Byte))
  /-- IDE_KEY_SETUP (R334). The host's security software sets the IDE link keys through SPDM over CXL.io. -/
  | ideKeySetup (stream : Nat) (key : List Byte)
  /-- SVN_FLOOR_RAISE (R354). A firmware request raises the fused SVN floor to the running image's SVN. -/
  | svnFloorRaise (svn : Nat)
deriving DecidableEq, Repr

end Sys2Proof
end

