-- ==== Sys2Proof/WellFormed.lean ====
section
/-!
DEFINITION. The well-formed instructions: the field, code and reserved-bit rules whose breach raises
ILLEGAL-INSTRUCTION (R5, R58, R59, R60, R61, R70 and each instruction's own rule), and the field rules of stream words
(R72). Rules that need the wave's window raise ILLEGAL-OPERAND and are checked when the group issues.
-/

namespace Sys2Proof

/-- N = 1 requires D = 0 (R59). -/
def nOk (n : Bit) (d : BitVec 7) : Bool := n == 0 || d == 0

/-- A word with an EXT has C = 1 (R56). -/
def extChained (c : Bit) : Option Ext → Bool
  | none => true
  | some _ => c == 1

/-- The payload of an optional EXT, zero when none follows (R56). -/
def payload : Option Ext → Nat
  | none => 0
  | some x => x.p.toNat

/-- A rounding-mode payload: codes 0 to 4, other bits zero (R61). -/
def roundOk (c : Bit) (x : Option Ext) : Bool := extChained c x && payload x ≤ 4

/-- SCOPE of an M-format EXT (R60). -/
def Ext.scope (x : Ext) : Nat := bits x.p.toNat 21 3
/-- FUNC of an M-format EXT (R60). -/
def Ext.func (x : Ext) : Nat := bits x.p.toNat 16 5
/-- OFFHI of an M-format EXT (R60). -/
def Ext.offhi (x : Ext) : Nat := bits x.p.toNat 0 16

/-- A scope code is 0 to 5 (R60), and 0 with .rlx (R90, R169, R255). -/
def plainScopeOk (o : BitVec 2) (x : Ext) : Bool := x.scope ≤ 5 && (o != 0 || x.scope == 0)

/-- Loads take .rlx, .acq and .sc (R90, R169, R255). -/
def loadOrd (o : BitVec 2) : Bool := o == 0 || o == 1 || o == 3
/-- Stores take .rlx, .rel and .sc (R90, R169, R255). -/
def storeOrd (o : BitVec 2) : Bool := o == 0 || o == 2 || o == 3

/-- The common rules of a load: ORD, SCOPE, FUNC and N (R59, R60). -/
def loadOk (f : FmtM) : Bool :=
  f.s.toNat ≤ 4 && loadOrd f.o && plainScopeOk f.o f.x && f.x.func == 0 && nOk f.n f.d && (f.n == 0 || f.s.toNat ≤ 3)

/-- The common rules of a store (R59, R60). -/
def storeOk (f : FmtMs) : Bool :=
  f.s.toNat ≤ 4 && storeOrd f.o && plainScopeOk f.o f.x && f.x.func == 0

/-- The functions and sizes of ATOMS, and of ATOM codes 0x00 to 0x0C (R172, R256). -/
def rmwSizeOk (func size : Nat) : Bool :=
  func ≤ 0x0C && (size == 2 || (size == 3 && func ≤ 0x09))

/-- The functions, sizes and N of ATOM (R256). -/
def atomOk (func size n : Nat) : Bool :=
  (rmwSizeOk func size && (func != 1 || n == 0)) ||
  (func == 0x10 && size == 2 && n == 0) || (func == 0x11 && size == 1 && n == 0) ||
  (func == 0x12 && size == 1 && n == 0) || (func == 0x13 && size == 2 && n == 1)

/-- The functions and sizes of RED (R256). -/
def redOk (func size : Nat) : Bool :=
  (2 ≤ func && rmwSizeOk func size) || (func == 0x18 && size == 2) ||
  ((func == 0x19 || func == 0x1A) && size == 1) || ((func == 0x1B || func == 0x1C) && size == 0)

/-- A copy start's payload: [23:21] zero, MODE accepted, NOB = 1 with TBAR 0 (R179, check 1). -/
def copyExtOk (x : Ext) (modes : Nat) : Bool :=
  let p := x.p.toNat
  bits p 21 3 == 0 && bits p 18 2 ≤ modes && (bits p 20 1 == 0 || bits p 0 16 == 0)

/-- A payload that holds only PD (R199, R293, R325). -/
def pdExtOk (x : Ext) : Bool := bits x.p.toNat 4 20 == 0

/-- A select payload: predicate and sense, [23:5] zero (R78, R88). -/
def selExtOk (x : Ext) : Bool := bits x.p.toNat 5 19 == 0

/-- A system-register selector that R92 lists. -/
def sysSelOk (f : Byte) : Bool :=
  f.toNat ≤ 0x12 || (0x18 ≤ f.toNat && f.toNat ≤ 0x23)

/-- M, N8 of an array operation (R72). -/
def mnOk (m : BitVec 5) (n8 : BitVec 6) : Bool := m.toNat ≤ 16 && n8.toNat ≤ 48

/-- An encoded word without an EXT that has no field to check but zero bytes. -/
def abZero (f : FmtAb) : Bool := f.a == 0 && f.b == 0

/-- The instruction breaks no field rule. -/
def Instr.wf : Instr → Bool
  | .iadd f | .isub f | .imul f | .imulh f | .imin f | .imax f | .nmin f | .nmax f | .and f | .or f | .xor f | .andn f
  | .shl f | .shr f | .sar f | .rot f | .bfx f | .iadd64 f | .isub64 f | .shl64 f | .sadd f | .ssub f | .smul f
  | .sand f | .sor f | .sxor f | .sshl f | .sshr f | .smin f | .smax f | .fmin f | .fmax f | .bscl f | .qexp f
  | .shfl f | .shflx f | .bcast f => nOk f.n f.d
  | .mov f | .iabs f | .ineg f | .not f | .popc f | .clz f | .brev f | .smov f | .fabs f | .fneg f | .fclass f
  | .frcp f | .frsq f | .fsqrt f | .fexp2 f | .flog2 f | .fsin f | .fcos f | .ftanh f | .qswx f | .qswy f | .qswd f
  | .qbc f | .qddx f | .qddy f => nOk f.n f.d
  | .movi f | .smovi f => nOk f.n f.d
  | .sel f | .ssel f => nOk f.n f.d && selExtOk f.x
  | .lea f => nOk f.n f.d && extChained f.c f.x && bits (payload f.x) 4 20 == 0 && bits (payload f.x) 0 3 ≤ 4
  | .fadd f | .fsub f | .fmul f | .hadd2 f | .hmul2 f | .badd2 f | .bmul2 f | .dadd f | .dmul f =>
      nOk f.n f.d && roundOk f.c f.x
  | .fma f | .hfma2 f | .bfma2 f | .dfma f => roundOk f.c f.x
  | .fcmp f | .dcmp f => f.k.toNat < 8
  | .sld f => loadOk f && f.s.toNat ≤ 3
  | .sst f => storeOk f && f.s.toNat ≤ 3
  | .mfs f => nOk f.n f.d && sysSelOk f.f
  | .mts f => sysSelOk f.f
  | .clock f => nOk f.n f.d
  | .frnd f => nOk f.n f.d && f.f.toNat ≤ 4
  | .cvt f => nOk f.n f.d && f.t.toNat ≤ 13 && f.u.toNat ≤ 13 && roundOk f.c f.x
  | .qpk4 f | .qpk8 f => f.f.toNat ≤ 2
  | .vote f => nOk f.n f.d && f.m.toNat ≤ 2
  | .wred f | .wscan f => nOk f.n f.d && f.f.toNat ≤ 11
  | .ld f => loadOk f
  | .st f => storeOk f
  | .ldbk f => f.x.scope == 0 && f.x.func == 0
  | .atom f => nOk f.n f.d && f.x.scope ≤ 5 && atomOk f.x.func f.s.toNat f.n.toNat
  | .red f => (f.o == 0 || f.o == 2) && f.x.scope ≤ 5 && redOk f.x.func f.s.toNat
  | .lds f | .lda f => loadOk f && f.x.scope ≤ 1
  | .sts f | .sta f => storeOk f && f.x.scope ≤ 1
  | .atoms f =>
      nOk f.n f.d && f.x.scope ≤ 1 && rmwSizeOk f.x.func f.s.toNat && (f.x.func != 1 || f.n == 0)
  | .fence f => f.k.toNat ≤ 2 && f.s.toNat ≤ 5
  | .pref f => f.b.toNat ≤ 1
  | .drain f | .seal f => f.a == 0 && f.b.toNat ≤ 3
  | .waitb f => f.a.toNat ≤ 63 && f.b.toNat ≤ 3
  | .lalloc f => bits f.x.p.toNat 6 18 == 0 && bits f.x.p.toNat 4 2 ≤ 2
  | .lfree f | .binv f | .brx f | .ret f => f.b == 0
  | .cpy f | .cpym f | .cpyg f => copyExtOk f.x 2
  | .cpyo f | .cpyt f | .cpybin f | .cpych f | .cpyl f => copyExtOk f.x 0
  | .bwait f | .btry f | .gsig f | .gwait f | .gtry f | .evwait f => pdExtOk f.x
  | .nbarv f | .nbwait f => f.a == 0 && f.b.toNat ≤ 15
  | .rpub f =>
      let p := payload f.x
      extChained f.c f.x && bits p 17 7 == 0 && (bits p 16 1 == 1 || bits p 0 16 == 0)
  | .mqry f => f.a == 0
  | .gqry f => extChained f.c f.x && bits (payload f.x) 2 22 == 0 && bits (payload f.x) 0 2 ≤ 2
  | .coll f =>
      let p := f.x.p.toNat
      f.b == 0 && bits p 23 1 == 0 && bits p 20 3 ≤ 3 && bits p 17 3 == 0 && (bits p 16 1 == 0 || bits p 0 16 == 0)
  | .ratom f =>
      let p := f.x.p.toNat
      bits p 4 8 == 0 && rmwSizeOk (bits p 15 5) (bits p 13 2) && (bits p 15 5 != 1 || bits p 12 1 == 1)
  | .launch f => bits f.x.p.toNat 9 15 == 0
  | .waitch f => f.b == 0 && pdExtOk f.x
  | .exit f | .yield f | .cut f | .rfe f | .halt f => abZero f
  | .pre f =>
      let p := payload f.x
      extChained f.c f.x && bits p 7 17 == 0 && (bits p 6 1 == 1 || bits p 0 6 == 0)
  | .grd f => f.a == 0 && f.b.toNat < 32
  | .assert f => f.b.toNat < 32
  | .roleq f =>
      let b := f.b.toNat
      f.a == 0 && bits b 2 1 == 0 && (bits b 3 1 == 0 || bits b 0 2 == 0)
  | .nop _ | .imad _ | .bfi _ | .icmp _ | .ncmp _ | .imad64 _ | .scmp _ | .pand _ | .por _ | .pxor _ | .pnot _ | .pmov _
  | .dot4 _ | .dot4n _ | .dot8 _ | .dot84l _ | .dot84h _ | .cflush _ | .cinv _ | .arv _ | .lqry _ | .tlbq _ | .cpyq _
  | .binit _ | .bexp _ | .barv _ | .racq _ | .rtake _ | .rrel _ | .rqry _ | .mstart _ | .evsig _ | .bra _ | .callx _
  | .fork _ | .bar _ | .trap _ | .bkpt _ | .call _ => true
  | .mma f => mnOk f.m f.n8 && f.q == 0
  | .mmac f => mnOk f.m f.n8
  | .epi f => mnOk f.m f.n8 && f.act.toNat ≤ 2 && f.ofmt.toNat ≤ 5
  | .mset _ z _ => z.toNat ≤ 1
  | .mnop | .mclr _ | .madd _ _ _ _ | .mloop _ _ | .mjmp _ | .mwait _ | .msig _ | .mhalt => true
  | .arrayOpComplete _ _ => true
  | .nopc len => 1 ≤ len
  | .launchCommand ptr q ws => q.toNat ≤ 15 && ws.length == (if ptr then 1 else 16)
  | .flaunch ptr q ws => q.toNat ≤ 15 && ws.length == (if ptr then 2 else 17)
  | .writec va data => va.toNat % 8 == 0 && 1 ≤ data.length
  | .predc _ k _ => k.toNat ≤ 255
  | .loopc _ k => 1 ≤ k.toNat && k.toNat ≤ 255
  | .ibcall va bytes => va.toNat % 8 == 0 && bytes.toNat % 8 == 0
  | .tsc va => va.toNat % 16 == 0
  | .copyc _ _ _ | .evsigc _ _ _ | .evwaitc _ _ | .ffence _ | .savec _ => true
  | .evwaitcWake p q | .qtailWrite p q _ | .queueResume p q | .qresWrite p q _ => p ≤ 63 && q ≤ 15
  | .gangDeal _ _ | .blockEnd _ | .launchComplete _ _ | .waveReschedule _ _ | .flexMark _ _ | .packetCountCut _ _
  | .lowResourceCut _ _ | .holdQuotaCut _ _ | .shadowDeadlockRollback _ | .scoutEnd _ _ | .slowGearStep _ _
  | .noConverge _ _ | .handlerRunStart _ | .faultRecordWrite _ | .fqAnswerWrite _ _ | .contextReset _ | .doorbell _
  | .mboxHalt _ _ | .mboxResume _ _ _ | .mboxReadreg _ _ _ _ _ _ | .mboxWritereg _ _ _ _ _ _ _ | .mboxReadmem _ _ _
  | .mboxWritemem _ _ _ | .mboxStep _ _ _ | .mboxSetbkpt _ _ | .mboxClrbkpt _ _ | .mboxQuery _ | .count _ _
  | .copyDescriptorRead _ _ | .copyDone _ _ | .copyFault _ _ | .copyBatchWait _ _ | .transferRecord _ _
  | .blockSave _ | .blockRestore _ _ | .graceExpiry _ | .preemptGo _ _ | .sliceExpiry _ | .clusterAssignWrite _ _ _
  | .coreBudgetWrite _ _ | .launchStarved _ | .poolEntryFreed _ | .bwaitWake _ _ | .nbwaitWake _ _ | .mwaitWake _
  | .rtakeWake _ _ | .racqWake _ _ | .waitbWake _ _ | .gwaitWake _ _ | .evwaitWake _ _ | .waitchWake _ _ | .ptsTick _
  | .ptsRebase _ | .homeRead _ _ _ _ | .homeWrite _ | .homeAtom _ | .rsp _ | .requestResend _ _ _ | .recMerge _ _
  | .remoteRequest _ _ | .dataFlit _ _ | .idleFlit _ _ | .nakFlit _ _ | .retrain _ | .retrainAttemptEnd _ _ _
  | .cxlMemRead _ _ | .cxlMemWrite _ _ | .tlbInvGo _ _ | .tlbInvComplete _ | .gateCreate _ _ | .gateFree _ _
  | .tokenRefill _ | .gateExport | .gateImport | .registerWrite _ _ _ _ _ | .coldReset | .warmReset
  | .functionLevelReset _ | .bootStage _ | .attestationReport _ | .powerWindow _ _ | .fatalError _ _ | .sidebandRead _
  | .sidebandReset | .flitSlot _ | .linkTraining _ _ _ | .cxlCacheSnoop _ _ | .ideKeySetup _ _
  | .svnFloorRaise _ => true

end Sys2Proof
end

