-- ==== Sys2Proof/Decode.lean ====
section
/-!
DEFINITION. Decoding and encoding of instruction words (R56 to R69), of matrix stream words (R71, R72) and of command
records (R285, R286), and what a word's fields name: its pipes, sources and destinations (R53, R59, R62).
-/

namespace Sys2Proof

/-- The number that fields of given widths make, the first field lowest. -/
def pack : List (Nat × Nat) → Nat
  | [] => 0
  | (w, v) :: r => v % 2 ^ w + 2 ^ w * pack r

/-- Bits [lo+n-1:lo] of a word. -/
def fld {m : Nat} (w : BitVec m) (lo n : Nat) : BitVec n := BitVec.ofNat n (bits w.toNat lo n)

/-- The EXT word (R56). -/
def Ext.word (x : Ext) : B32 := BitVec.ofNat 32 (pack [(24, x.p.toNat), (7, 0x7F), (1, x.c.toNat)])

/-- Reads an EXT word (R56). -/
def Ext.of (w : B32) : Option Ext := if bits w.toNat 24 7 = 0x7F then some ⟨fld w 31 1, fld w 0 24⟩ else none

/-- The word of no operand. -/
def FmtC0.word (op : Nat) (f : FmtC0) : B32 :=
  BitVec.ofNat 32 (pack [(24, 0), (7, op), (1, f.c.toNat)])

/-- The fields of no operand. -/
def FmtC0.of (w : B32) : FmtC0 where
  c := fld w 31 1

/-- The word of format A, two sources. -/
def FmtA.word (op : Nat) (f : FmtA) : B32 :=
  BitVec.ofNat 32 (pack [(8, f.b.toNat), (8, f.a.toNat), (7, f.d.toNat), (1, f.n.toNat), (7, op), (1, f.c.toNat)])

/-- The fields of format A, two sources. -/
def FmtA.of (w : B32) : FmtA where
  c := fld w 31 1
  n := fld w 23 1
  d := fld w 16 7
  a := fld w 8 8
  b := fld w 0 8

/-- The word of format A, one source: [7:0] is zero. -/
def FmtA1.word (op : Nat) (f : FmtA1) : B32 :=
  BitVec.ofNat 32 (pack [(8, 0), (8, f.a.toNat), (7, f.d.toNat), (1, f.n.toNat), (7, op), (1, f.c.toNat)])

/-- The fields of format A, one source: [7:0] is zero. -/
def FmtA1.of (w : B32) : FmtA1 where
  c := fld w 31 1
  n := fld w 23 1
  d := fld w 16 7
  a := fld w 8 8

/-- The word of format A that reads its destination: [23] is zero. -/
def FmtD.word (op : Nat) (f : FmtD) : B32 :=
  BitVec.ofNat 32 (pack [(8, f.b.toNat), (8, f.a.toNat), (7, f.d.toNat), (1, 0), (7, op), (1, f.c.toNat)])

/-- The fields of format A that reads its destination: [23] is zero. -/
def FmtD.of (w : B32) : FmtD where
  c := fld w 31 1
  d := fld w 16 7
  a := fld w 8 8
  b := fld w 0 8

/-- The word of format A with an optional EXT. -/
def FmtAx.word (op : Nat) (f : FmtAx) : B32 :=
  BitVec.ofNat 32 (pack [(8, f.b.toNat), (8, f.a.toNat), (7, f.d.toNat), (1, f.n.toNat), (7, op), (1, f.c.toNat)])

/-- The fields of format A with an optional EXT. -/
def FmtAx.of (w : B32) (x : Option Ext) : FmtAx where
  c := fld w 31 1
  n := fld w 23 1
  d := fld w 16 7
  a := fld w 8 8
  b := fld w 0 8
  x := x

/-- The word of format A that reads its destination, with an optional EXT. -/
def FmtDx.word (op : Nat) (f : FmtDx) : B32 :=
  BitVec.ofNat 32 (pack [(8, f.b.toNat), (8, f.a.toNat), (7, f.d.toNat), (1, 0), (7, op), (1, f.c.toNat)])

/-- The fields of format A that reads its destination, with an optional EXT. -/
def FmtDx.of (w : B32) (x : Option Ext) : FmtDx where
  c := fld w 31 1
  d := fld w 16 7
  a := fld w 8 8
  b := fld w 0 8
  x := x

/-- The word of a 32-bit immediate over FN and a required EXT. -/
def FmtI.word (op : Nat) (f : FmtI) : B32 :=
  BitVec.ofNat 32 (pack [(8, f.i.toNat), (8, 0), (7, f.d.toNat), (1, f.n.toNat), (7, op), (1, 1)])

/-- The fields of a 32-bit immediate over FN and a required EXT. -/
def FmtI.of (w : B32) (x : Ext) : FmtI where
  n := fld w 23 1
  d := fld w 16 7
  i := fld w 0 8
  x := x

/-- The word of a select whose required EXT names the predicate. -/
def FmtS.word (op : Nat) (f : FmtS) : B32 :=
  BitVec.ofNat 32 (pack [(8, f.b.toNat), (8, f.a.toNat), (7, f.d.toNat), (1, f.n.toNat), (7, op), (1, 1)])

/-- The fields of a select whose required EXT names the predicate. -/
def FmtS.of (w : B32) (x : Ext) : FmtS where
  n := fld w 23 1
  d := fld w 16 7
  a := fld w 8 8
  b := fld w 0 8
  x := x

/-- The word of format C, a compare. -/
def FmtC.word (op : Nat) (f : FmtC) : B32 :=
  BitVec.ofNat 32 (pack [(8, f.b.toNat), (8, f.a.toNat), (4, f.p.toNat), (4, f.k.toNat), (7, op), (1, f.c.toNat)])

/-- The fields of format C, a compare. -/
def FmtC.of (w : B32) : FmtC where
  c := fld w 31 1
  k := fld w 20 4
  p := fld w 16 4
  a := fld w 8 8
  b := fld w 0 8

/-- The word of format M with its required EXT, with a register result. -/
def FmtM.word (op : Nat) (f : FmtM) : B32 :=
  BitVec.ofNat 32 (pack [(3, f.e.toNat), (2, f.o.toNat), (3, f.s.toNat), (8, f.g.toNat), (7, f.d.toNat), (1, f.n.toNat), (7, op), (1, 1)])

/-- The fields of format M with its required EXT, with a register result. -/
def FmtM.of (w : B32) (x : Ext) : FmtM where
  n := fld w 23 1
  d := fld w 16 7
  g := fld w 8 8
  s := fld w 5 3
  o := fld w 3 2
  e := fld w 0 3
  x := x

/-- The word of format M with its required EXT, D naming stored data: [23] is zero. -/
def FmtMs.word (op : Nat) (f : FmtMs) : B32 :=
  BitVec.ofNat 32 (pack [(3, f.e.toNat), (2, f.o.toNat), (3, f.s.toNat), (8, f.g.toNat), (7, f.d.toNat), (1, 0), (7, op), (1, 1)])

/-- The fields of format M with its required EXT, D naming stored data: [23] is zero. -/
def FmtMs.of (w : B32) (x : Ext) : FmtMs where
  d := fld w 16 7
  g := fld w 8 8
  s := fld w 5 3
  o := fld w 3 2
  e := fld w 0 3
  x := x

/-- The word of LDBK: format M with SIZE and ORD zero. -/
def FmtLk.word (op : Nat) (f : FmtLk) : B32 :=
  BitVec.ofNat 32 (pack [(3, f.e.toNat), (5, 0), (8, f.g.toNat), (7, f.d.toNat), (1, 0), (7, op), (1, 1)])

/-- The fields of LDBK: format M with SIZE and ORD zero. -/
def FmtLk.of (w : B32) (x : Ext) : FmtLk where
  d := fld w 16 7
  g := fld w 8 8
  e := fld w 0 3
  x := x

/-- The word of two predicate sources. -/
def FmtP.word (op : Nat) (f : FmtP) : B32 :=
  BitVec.ofNat 32 (pack [(4, f.r.toNat), (1, f.j.toNat), (3, 0), (4, f.q.toNat), (1, f.i.toNat), (3, 0), (4, f.p.toNat), (4, 0), (7, op), (1, f.c.toNat)])

/-- The fields of two predicate sources. -/
def FmtP.of (w : B32) : FmtP where
  c := fld w 31 1
  p := fld w 16 4
  i := fld w 12 1
  q := fld w 8 4
  j := fld w 4 1
  r := fld w 0 4

/-- The word of one predicate source. -/
def FmtP1.word (op : Nat) (f : FmtP1) : B32 :=
  BitVec.ofNat 32 (pack [(8, 0), (4, f.q.toNat), (1, f.i.toNat), (3, 0), (4, f.p.toNat), (4, 0), (7, op), (1, f.c.toNat)])

/-- The fields of one predicate source. -/
def FmtP1.of (w : B32) : FmtP1 where
  c := fld w 31 1
  p := fld w 16 4
  i := fld w 12 1
  q := fld w 8 4

/-- The word of MFS. -/
def FmtMfs.word (op : Nat) (f : FmtMfs) : B32 :=
  BitVec.ofNat 32 (pack [(8, f.f.toNat), (8, 0), (7, f.d.toNat), (1, f.n.toNat), (7, op), (1, f.c.toNat)])

/-- The fields of MFS. -/
def FmtMfs.of (w : B32) : FmtMfs where
  c := fld w 31 1
  n := fld w 23 1
  d := fld w 16 7
  f := fld w 0 8

/-- The word of MTS. -/
def FmtMts.word (op : Nat) (f : FmtMts) : B32 :=
  BitVec.ofNat 32 (pack [(8, f.f.toNat), (8, f.a.toNat), (8, 0), (7, op), (1, f.c.toNat)])

/-- The fields of MTS. -/
def FmtMts.of (w : B32) : FmtMts where
  c := fld w 31 1
  a := fld w 8 8
  f := fld w 0 8

/-- The word of CLOCK. -/
def FmtClk.word (op : Nat) (f : FmtClk) : B32 :=
  BitVec.ofNat 32 (pack [(16, 0), (7, f.d.toNat), (1, f.n.toNat), (7, op), (1, f.c.toNat)])

/-- The fields of CLOCK. -/
def FmtClk.of (w : B32) : FmtClk where
  c := fld w 31 1
  n := fld w 23 1
  d := fld w 16 7

/-- The word of format F, FN a code. -/
def FmtF.word (op : Nat) (f : FmtF) : B32 :=
  BitVec.ofNat 32 (pack [(8, f.f.toNat), (8, f.a.toNat), (7, f.d.toNat), (1, f.n.toNat), (7, op), (1, f.c.toNat)])

/-- The fields of format F, FN a code. -/
def FmtF.of (w : B32) : FmtF where
  c := fld w 31 1
  n := fld w 23 1
  d := fld w 16 7
  a := fld w 8 8
  f := fld w 0 8

/-- The word of CVT: format F with an optional EXT. -/
def FmtFx.word (op : Nat) (f : FmtFx) : B32 :=
  BitVec.ofNat 32 (pack [(4, f.u.toNat), (4, f.t.toNat), (8, f.a.toNat), (7, f.d.toNat), (1, f.n.toNat), (7, op), (1, f.c.toNat)])

/-- The fields of CVT: format F with an optional EXT. -/
def FmtFx.of (w : B32) (x : Option Ext) : FmtFx where
  c := fld w 31 1
  n := fld w 23 1
  d := fld w 16 7
  a := fld w 8 8
  t := fld w 4 4
  u := fld w 0 4
  x := x

/-- The word of QPK4 and QPK8: [23] is zero. -/
def FmtQ.word (op : Nat) (f : FmtQ) : B32 :=
  BitVec.ofNat 32 (pack [(1, f.m.toNat), (2, f.f.toNat), (5, 0), (8, f.a.toNat), (7, f.d.toNat), (1, 0), (7, op), (1, f.c.toNat)])

/-- The fields of QPK4 and QPK8: [23] is zero. -/
def FmtQ.of (w : B32) : FmtQ where
  c := fld w 31 1
  d := fld w 16 7
  a := fld w 8 8
  f := fld w 1 2
  m := fld w 0 1

/-- The word of VOTE. -/
def FmtVote.word (op : Nat) (f : FmtVote) : B32 :=
  BitVec.ofNat 32 (pack [(8, f.m.toNat), (4, f.p.toNat), (1, 0), (1, f.i.toNat), (2, 0), (7, f.d.toNat), (1, f.n.toNat), (7, op), (1, f.c.toNat)])

/-- The fields of VOTE. -/
def FmtVote.of (w : B32) : FmtVote where
  c := fld w 31 1
  n := fld w 23 1
  d := fld w 16 7
  i := fld w 13 1
  p := fld w 8 4
  m := fld w 0 8

/-- The word of FENCE. -/
def FmtFen.word (op fn : Nat) (f : FmtFen) : B32 :=
  BitVec.ofNat 32 (pack [(2, f.k.toNat), (6, 0), (3, f.s.toNat), (5, 0), (7, fn), (1, 0), (7, op), (1, f.c.toNat)])

/-- The fields of FENCE. -/
def FmtFen.of (w : B32) : FmtFen where
  c := fld w 31 1
  s := fld w 8 3
  k := fld w 0 2

/-- The word of family format without an EXT. -/
def FmtAb.word (op fn : Nat) (f : FmtAb) : B32 :=
  BitVec.ofNat 32 (pack [(8, f.b.toNat), (8, f.a.toNat), (7, fn), (1, 0), (7, op), (1, f.c.toNat)])

/-- The fields of family format without an EXT. -/
def FmtAb.of (w : B32) : FmtAb where
  c := fld w 31 1
  a := fld w 8 8
  b := fld w 0 8

/-- The word of family format with a required EXT: [31] is one. -/
def FmtAbx.word (op fn : Nat) (f : FmtAbx) : B32 :=
  BitVec.ofNat 32 (pack [(8, f.b.toNat), (8, f.a.toNat), (7, fn), (1, 0), (7, op), (1, 1)])

/-- The fields of family format with a required EXT: [31] is one. -/
def FmtAbx.of (w : B32) (x : Ext) : FmtAbx where
  a := fld w 8 8
  b := fld w 0 8
  x := x

/-- The word of family format with an optional EXT. -/
def FmtAbo.word (op fn : Nat) (f : FmtAbo) : B32 :=
  BitVec.ofNat 32 (pack [(8, f.b.toNat), (8, f.a.toNat), (7, fn), (1, 0), (7, op), (1, f.c.toNat)])

/-- The fields of family format with an optional EXT. -/
def FmtAbo.of (w : B32) (x : Option Ext) : FmtAbo where
  c := fld w 31 1
  a := fld w 8 8
  b := fld w 0 8
  x := x

/-- The word of format B, a branch. -/
def FmtB.word (op : Nat) (f : FmtB) : B32 :=
  BitVec.ofNat 32 (pack [(19, f.o.toNat), (1, f.s.toNat), (4, f.p.toNat), (7, op), (1, f.c.toNat)])

/-- The fields of format B, a branch. -/
def FmtB.of (w : B32) : FmtB where
  c := fld w 31 1
  p := fld w 20 4
  s := fld w 19 1
  o := fld w 0 19

/-- The first word of an instruction, from the opcode map and the family codes (R68, R69); zero for the constructors
that have no instruction word. -/
def Instr.word : Instr → B32
  | .nop f => f.word 0x00
  | .mov f => f.word 0x01
  | .movi f => f.word 0x02
  | .sel f => f.word 0x03
  | .iadd f => f.word 0x04
  | .isub f => f.word 0x05
  | .imul f => f.word 0x06
  | .imulh f => f.word 0x07
  | .imad f => f.word 0x08
  | .imin f => f.word 0x09
  | .imax f => f.word 0x0A
  | .nmin f => f.word 0x0B
  | .nmax f => f.word 0x0C
  | .iabs f => f.word 0x0D
  | .ineg f => f.word 0x0E
  | .and f => f.word 0x0F
  | .or f => f.word 0x10
  | .xor f => f.word 0x11
  | .andn f => f.word 0x12
  | .not f => f.word 0x13
  | .shl f => f.word 0x14
  | .shr f => f.word 0x15
  | .sar f => f.word 0x16
  | .rot f => f.word 0x17
  | .popc f => f.word 0x18
  | .clz f => f.word 0x19
  | .brev f => f.word 0x1A
  | .bfx f => f.word 0x1B
  | .bfi f => f.word 0x1C
  | .icmp f => f.word 0x1D
  | .ncmp f => f.word 0x1E
  | .iadd64 f => f.word 0x1F
  | .isub64 f => f.word 0x20
  | .imad64 f => f.word 0x21
  | .shl64 f => f.word 0x22
  | .lea f => f.word 0x23
  | .sadd f => f.word 0x24
  | .ssub f => f.word 0x25
  | .smul f => f.word 0x26
  | .sand f => f.word 0x27
  | .sor f => f.word 0x28
  | .sxor f => f.word 0x29
  | .sshl f => f.word 0x2A
  | .sshr f => f.word 0x2B
  | .smin f => f.word 0x2C
  | .smax f => f.word 0x2D
  | .smov f => f.word 0x2E
  | .smovi f => f.word 0x2F
  | .scmp f => f.word 0x30
  | .ssel f => f.word 0x31
  | .sld f => f.word 0x32
  | .sst f => f.word 0x33
  | .pand f => f.word 0x34
  | .por f => f.word 0x35
  | .pxor f => f.word 0x36
  | .pnot f => f.word 0x37
  | .pmov f => f.word 0x38
  | .mfs f => f.word 0x39
  | .mts f => f.word 0x3A
  | .clock f => f.word 0x3B
  | .fadd f => f.word 0x3C
  | .fsub f => f.word 0x3D
  | .fmul f => f.word 0x3E
  | .fma f => f.word 0x3F
  | .fmin f => f.word 0x40
  | .fmax f => f.word 0x41
  | .fabs f => f.word 0x42
  | .fneg f => f.word 0x43
  | .fcmp f => f.word 0x44
  | .fclass f => f.word 0x45
  | .frnd f => f.word 0x46
  | .frcp f => f.word 0x47
  | .frsq f => f.word 0x48
  | .fsqrt f => f.word 0x49
  | .fexp2 f => f.word 0x4A
  | .flog2 f => f.word 0x4B
  | .fsin f => f.word 0x4C
  | .fcos f => f.word 0x4D
  | .ftanh f => f.word 0x4E
  | .hadd2 f => f.word 0x4F
  | .hmul2 f => f.word 0x50
  | .hfma2 f => f.word 0x51
  | .badd2 f => f.word 0x52
  | .bmul2 f => f.word 0x53
  | .bfma2 f => f.word 0x54
  | .dadd f => f.word 0x55
  | .dmul f => f.word 0x56
  | .dfma f => f.word 0x57
  | .dcmp f => f.word 0x58
  | .cvt f => f.word 0x59
  | .dot4 f => f.word 0x5A
  | .dot4n f => f.word 0x5B
  | .dot8 f => f.word 0x5C
  | .dot84l f => f.word 0x5D
  | .dot84h f => f.word 0x5E
  | .bscl f => f.word 0x5F
  | .qexp f => f.word 0x60
  | .qpk4 f => f.word 0x61
  | .qpk8 f => f.word 0x62
  | .qswx f => f.word 0x63
  | .qswy f => f.word 0x64
  | .qswd f => f.word 0x65
  | .qbc f => f.word 0x66
  | .qddx f => f.word 0x67
  | .qddy f => f.word 0x68
  | .shfl f => f.word 0x69
  | .shflx f => f.word 0x6A
  | .bcast f => f.word 0x6B
  | .vote f => f.word 0x6C
  | .wred f => f.word 0x6D
  | .wscan f => f.word 0x6E
  | .ld f => f.word 0x6F
  | .st f => f.word 0x70
  | .ldbk f => f.word 0x71
  | .atom f => f.word 0x72
  | .red f => f.word 0x73
  | .lds f => f.word 0x74
  | .sts f => f.word 0x75
  | .lda f => f.word 0x76
  | .sta f => f.word 0x77
  | .atoms f => f.word 0x78
  | .fence f => f.word 0x79 0x00
  | .cflush f => f.word 0x79 0x01
  | .cinv f => f.word 0x79 0x02
  | .pref f => f.word 0x79 0x03
  | .arv f => f.word 0x79 0x04
  | .drain f => f.word 0x79 0x05
  | .seal f => f.word 0x79 0x06
  | .waitb f => f.word 0x79 0x07
  | .lalloc f => f.word 0x79 0x08
  | .lfree f => f.word 0x79 0x09
  | .lqry f => f.word 0x79 0x0A
  | .tlbq f => f.word 0x79 0x0B
  | .cpy f => f.word 0x7A 0x00
  | .cpyo f => f.word 0x7A 0x01
  | .cpym f => f.word 0x7A 0x02
  | .cpyt f => f.word 0x7A 0x03
  | .cpyg f => f.word 0x7A 0x04
  | .cpybin f => f.word 0x7A 0x05
  | .cpych f => f.word 0x7A 0x06
  | .cpyl f => f.word 0x7A 0x07
  | .cpyq f => f.word 0x7A 0x08
  | .binit f => f.word 0x7B 0x00
  | .bexp f => f.word 0x7B 0x01
  | .barv f => f.word 0x7B 0x02
  | .bwait f => f.word 0x7B 0x03
  | .btry f => f.word 0x7B 0x04
  | .binv f => f.word 0x7B 0x05
  | .nbarv f => f.word 0x7B 0x06
  | .nbwait f => f.word 0x7B 0x07
  | .racq f => f.word 0x7B 0x08
  | .rpub f => f.word 0x7B 0x09
  | .rtake f => f.word 0x7B 0x0A
  | .rrel f => f.word 0x7B 0x0B
  | .rqry f => f.word 0x7B 0x0C
  | .mstart f => f.word 0x7B 0x0D
  | .mqry f => f.word 0x7B 0x0E
  | .gsig f => f.word 0x7B 0x10
  | .gwait f => f.word 0x7B 0x11
  | .gtry f => f.word 0x7B 0x12
  | .gqry f => f.word 0x7B 0x13
  | .coll f => f.word 0x7B 0x18
  | .ratom f => f.word 0x7B 0x19
  | .launch f => f.word 0x7B 0x1C
  | .waitch f => f.word 0x7B 0x1D
  | .evsig f => f.word 0x7B 0x1E
  | .evwait f => f.word 0x7B 0x1F
  | .bra f => f.word 0x7C
  | .brx f => f.word 0x7D 0x00
  | .callx f => f.word 0x7D 0x01
  | .ret f => f.word 0x7D 0x02
  | .fork f => f.word 0x7D 0x03
  | .exit f => f.word 0x7D 0x04
  | .yield f => f.word 0x7D 0x05
  | .bar f => f.word 0x7D 0x06
  | .cut f => f.word 0x7D 0x07
  | .pre f => f.word 0x7D 0x08
  | .grd f => f.word 0x7D 0x09
  | .assert f => f.word 0x7D 0x0A
  | .trap f => f.word 0x7D 0x0B
  | .bkpt f => f.word 0x7D 0x0C
  | .rfe f => f.word 0x7D 0x0D
  | .halt f => f.word 0x7D 0x0E
  | .roleq f => f.word 0x7D 0x0F
  | .call f => f.word 0x7E
  | .mnop | .mma _ | .mmac _ | .mclr _ | .epi _
  | .mset _ _ _ | .madd _ _ _ _ | .mloop _ _ | .mjmp _ | .mwait _
  | .msig _ | .mhalt | .arrayOpComplete _ _ | .nopc _ | .launchCommand _ _ _
  | .flaunch _ _ _ | .copyc _ _ _ | .writec _ _ | .evsigc _ _ _ | .evwaitc _ _
  | .ibcall _ _ | .predc _ _ _ | .loopc _ _ | .ffence _ | .tsc _
  | .savec _ | .evwaitcWake _ _ | .qtailWrite _ _ _ | .queueResume _ _ | .qresWrite _ _ _
  | .gangDeal _ _ | .blockEnd _ | .launchComplete _ _ | .waveReschedule _ _ | .flexMark _ _
  | .packetCountCut _ _ | .lowResourceCut _ _ | .holdQuotaCut _ _ | .shadowDeadlockRollback _ | .scoutEnd _ _
  | .slowGearStep _ _ | .noConverge _ _ | .handlerRunStart _ | .faultRecordWrite _ | .fqAnswerWrite _ _
  | .contextReset _ | .doorbell _ | .mboxHalt _ _ | .mboxResume _ _ _ | .mboxReadreg _ _ _ _ _ _
  | .mboxWritereg _ _ _ _ _ _ _ | .mboxReadmem _ _ _ | .mboxWritemem _ _ _ | .mboxStep _ _ _ | .mboxSetbkpt _ _
  | .mboxClrbkpt _ _ | .mboxQuery _ | .count _ _ | .copyDescriptorRead _ _ | .copyDone _ _
  | .copyFault _ _ | .copyBatchWait _ _ | .transferRecord _ _ | .blockSave _ | .blockRestore _ _
  | .graceExpiry _ | .preemptGo _ _ | .sliceExpiry _ | .clusterAssignWrite _ _ _ | .coreBudgetWrite _ _
  | .launchStarved _ | .poolEntryFreed _ | .bwaitWake _ _ | .nbwaitWake _ _ | .mwaitWake _
  | .rtakeWake _ _ | .racqWake _ _ | .waitbWake _ _ | .gwaitWake _ _ | .evwaitWake _ _
  | .waitchWake _ _ | .ptsTick _ | .ptsRebase _ | .homeRead _ _ _ _ | .homeWrite _
  | .homeAtom _ | .rsp _ | .requestResend _ _ _ | .recMerge _ _ | .remoteRequest _ _
  | .dataFlit _ _ | .idleFlit _ _ | .nakFlit _ _ | .retrain _ | .retrainAttemptEnd _ _ _
  | .cxlMemRead _ _ | .cxlMemWrite _ _ | .tlbInvGo _ _ | .tlbInvComplete _ | .gateCreate _ _
  | .gateFree _ _ | .tokenRefill _ | .gateExport | .gateImport | .registerWrite _ _ _ _ _
  | .coldReset | .warmReset | .functionLevelReset _ | .bootStage _ | .attestationReport _
  | .powerWindow _ _ | .fatalError _ _ | .sidebandRead _ | .sidebandReset | .flitSlot _
  | .linkTraining _ _ _ | .cxlCacheSnoop _ _ | .ideKeySetup _ _ | .svnFloorRaise _ => 0

/-- The EXT word that belongs to an instruction, if any. -/
def Instr.ext : Instr → Option Ext
  | .nop _ => none
  | .mov _ => none
  | .movi f => some f.x
  | .sel f => some f.x
  | .iadd _ => none
  | .isub _ => none
  | .imul _ => none
  | .imulh _ => none
  | .imad _ => none
  | .imin _ => none
  | .imax _ => none
  | .nmin _ => none
  | .nmax _ => none
  | .iabs _ => none
  | .ineg _ => none
  | .and _ => none
  | .or _ => none
  | .xor _ => none
  | .andn _ => none
  | .not _ => none
  | .shl _ => none
  | .shr _ => none
  | .sar _ => none
  | .rot _ => none
  | .popc _ => none
  | .clz _ => none
  | .brev _ => none
  | .bfx _ => none
  | .bfi _ => none
  | .icmp _ => none
  | .ncmp _ => none
  | .iadd64 _ => none
  | .isub64 _ => none
  | .imad64 _ => none
  | .shl64 _ => none
  | .lea f => f.x
  | .sadd _ => none
  | .ssub _ => none
  | .smul _ => none
  | .sand _ => none
  | .sor _ => none
  | .sxor _ => none
  | .sshl _ => none
  | .sshr _ => none
  | .smin _ => none
  | .smax _ => none
  | .smov _ => none
  | .smovi f => some f.x
  | .scmp _ => none
  | .ssel f => some f.x
  | .sld f => some f.x
  | .sst f => some f.x
  | .pand _ => none
  | .por _ => none
  | .pxor _ => none
  | .pnot _ => none
  | .pmov _ => none
  | .mfs _ => none
  | .mts _ => none
  | .clock _ => none
  | .fadd f => f.x
  | .fsub f => f.x
  | .fmul f => f.x
  | .fma f => f.x
  | .fmin _ => none
  | .fmax _ => none
  | .fabs _ => none
  | .fneg _ => none
  | .fcmp _ => none
  | .fclass _ => none
  | .frnd _ => none
  | .frcp _ => none
  | .frsq _ => none
  | .fsqrt _ => none
  | .fexp2 _ => none
  | .flog2 _ => none
  | .fsin _ => none
  | .fcos _ => none
  | .ftanh _ => none
  | .hadd2 f => f.x
  | .hmul2 f => f.x
  | .hfma2 f => f.x
  | .badd2 f => f.x
  | .bmul2 f => f.x
  | .bfma2 f => f.x
  | .dadd f => f.x
  | .dmul f => f.x
  | .dfma f => f.x
  | .dcmp _ => none
  | .cvt f => f.x
  | .dot4 _ => none
  | .dot4n _ => none
  | .dot8 _ => none
  | .dot84l _ => none
  | .dot84h _ => none
  | .bscl _ => none
  | .qexp _ => none
  | .qpk4 _ => none
  | .qpk8 _ => none
  | .qswx _ => none
  | .qswy _ => none
  | .qswd _ => none
  | .qbc _ => none
  | .qddx _ => none
  | .qddy _ => none
  | .shfl _ => none
  | .shflx _ => none
  | .bcast _ => none
  | .vote _ => none
  | .wred _ => none
  | .wscan _ => none
  | .ld f => some f.x
  | .st f => some f.x
  | .ldbk f => some f.x
  | .atom f => some f.x
  | .red f => some f.x
  | .lds f => some f.x
  | .sts f => some f.x
  | .lda f => some f.x
  | .sta f => some f.x
  | .atoms f => some f.x
  | .fence _ => none
  | .cflush _ => none
  | .cinv _ => none
  | .pref _ => none
  | .arv _ => none
  | .drain _ => none
  | .seal _ => none
  | .waitb _ => none
  | .lalloc f => some f.x
  | .lfree _ => none
  | .lqry _ => none
  | .tlbq _ => none
  | .cpy f => some f.x
  | .cpyo f => some f.x
  | .cpym f => some f.x
  | .cpyt f => some f.x
  | .cpyg f => some f.x
  | .cpybin f => some f.x
  | .cpych f => some f.x
  | .cpyl f => some f.x
  | .cpyq _ => none
  | .binit _ => none
  | .bexp _ => none
  | .barv _ => none
  | .bwait f => some f.x
  | .btry f => some f.x
  | .binv _ => none
  | .nbarv _ => none
  | .nbwait _ => none
  | .racq _ => none
  | .rpub f => f.x
  | .rtake _ => none
  | .rrel _ => none
  | .rqry _ => none
  | .mstart _ => none
  | .mqry _ => none
  | .gsig f => some f.x
  | .gwait f => some f.x
  | .gtry f => some f.x
  | .gqry f => f.x
  | .coll f => some f.x
  | .ratom f => some f.x
  | .launch f => some f.x
  | .waitch f => some f.x
  | .evsig _ => none
  | .evwait f => some f.x
  | .bra _ => none
  | .brx _ => none
  | .callx _ => none
  | .ret _ => none
  | .fork _ => none
  | .exit _ => none
  | .yield _ => none
  | .bar _ => none
  | .cut _ => none
  | .pre f => f.x
  | .grd _ => none
  | .assert _ => none
  | .trap _ => none
  | .bkpt _ => none
  | .rfe _ => none
  | .halt _ => none
  | .roleq _ => none
  | .call _ => none
  | .mnop | .mma _ | .mmac _ | .mclr _ | .epi _
  | .mset _ _ _ | .madd _ _ _ _ | .mloop _ _ | .mjmp _ | .mwait _
  | .msig _ | .mhalt | .arrayOpComplete _ _ | .nopc _ | .launchCommand _ _ _
  | .flaunch _ _ _ | .copyc _ _ _ | .writec _ _ | .evsigc _ _ _ | .evwaitc _ _
  | .ibcall _ _ | .predc _ _ _ | .loopc _ _ | .ffence _ | .tsc _
  | .savec _ | .evwaitcWake _ _ | .qtailWrite _ _ _ | .queueResume _ _ | .qresWrite _ _ _
  | .gangDeal _ _ | .blockEnd _ | .launchComplete _ _ | .waveReschedule _ _ | .flexMark _ _
  | .packetCountCut _ _ | .lowResourceCut _ _ | .holdQuotaCut _ _ | .shadowDeadlockRollback _ | .scoutEnd _ _
  | .slowGearStep _ _ | .noConverge _ _ | .handlerRunStart _ | .faultRecordWrite _ | .fqAnswerWrite _ _
  | .contextReset _ | .doorbell _ | .mboxHalt _ _ | .mboxResume _ _ _ | .mboxReadreg _ _ _ _ _ _
  | .mboxWritereg _ _ _ _ _ _ _ | .mboxReadmem _ _ _ | .mboxWritemem _ _ _ | .mboxStep _ _ _ | .mboxSetbkpt _ _
  | .mboxClrbkpt _ _ | .mboxQuery _ | .count _ _ | .copyDescriptorRead _ _ | .copyDone _ _
  | .copyFault _ _ | .copyBatchWait _ _ | .transferRecord _ _ | .blockSave _ | .blockRestore _ _
  | .graceExpiry _ | .preemptGo _ _ | .sliceExpiry _ | .clusterAssignWrite _ _ _ | .coreBudgetWrite _ _
  | .launchStarved _ | .poolEntryFreed _ | .bwaitWake _ _ | .nbwaitWake _ _ | .mwaitWake _
  | .rtakeWake _ _ | .racqWake _ _ | .waitbWake _ _ | .gwaitWake _ _ | .evwaitWake _ _
  | .waitchWake _ _ | .ptsTick _ | .ptsRebase _ | .homeRead _ _ _ _ | .homeWrite _
  | .homeAtom _ | .rsp _ | .requestResend _ _ _ | .recMerge _ _ | .remoteRequest _ _
  | .dataFlit _ _ | .idleFlit _ _ | .nakFlit _ _ | .retrain _ | .retrainAttemptEnd _ _ _
  | .cxlMemRead _ _ | .cxlMemWrite _ _ | .tlbInvGo _ _ | .tlbInvComplete _ | .gateCreate _ _
  | .gateFree _ _ | .tokenRefill _ | .gateExport | .gateImport | .registerWrite _ _ _ _ _
  | .coldReset | .warmReset | .functionLevelReset _ | .bootStage _ | .attestationReport _
  | .powerWindow _ _ | .fatalError _ _ | .sidebandRead _ | .sidebandReset | .flitSlot _
  | .linkTraining _ _ _ | .cxlCacheSnoop _ _ | .ideKeySetup _ _ | .svnFloorRaise _ => none

/-- The constructor is one of the 185 instruction forms of R68 and R69. -/
def Instr.isWord : Instr → Bool
  | .nop _ | .mov _ | .movi _ | .sel _ | .iadd _ | .isub _ | .imul _ | .imulh _
  | .imad _ | .imin _ | .imax _ | .nmin _ | .nmax _ | .iabs _ | .ineg _ | .and _
  | .or _ | .xor _ | .andn _ | .not _ | .shl _ | .shr _ | .sar _ | .rot _
  | .popc _ | .clz _ | .brev _ | .bfx _ | .bfi _ | .icmp _ | .ncmp _ | .iadd64 _
  | .isub64 _ | .imad64 _ | .shl64 _ | .lea _ | .sadd _ | .ssub _ | .smul _ | .sand _
  | .sor _ | .sxor _ | .sshl _ | .sshr _ | .smin _ | .smax _ | .smov _ | .smovi _
  | .scmp _ | .ssel _ | .sld _ | .sst _ | .pand _ | .por _ | .pxor _ | .pnot _
  | .pmov _ | .mfs _ | .mts _ | .clock _ | .fadd _ | .fsub _ | .fmul _ | .fma _
  | .fmin _ | .fmax _ | .fabs _ | .fneg _ | .fcmp _ | .fclass _ | .frnd _ | .frcp _
  | .frsq _ | .fsqrt _ | .fexp2 _ | .flog2 _ | .fsin _ | .fcos _ | .ftanh _ | .hadd2 _
  | .hmul2 _ | .hfma2 _ | .badd2 _ | .bmul2 _ | .bfma2 _ | .dadd _ | .dmul _ | .dfma _
  | .dcmp _ | .cvt _ | .dot4 _ | .dot4n _ | .dot8 _ | .dot84l _ | .dot84h _ | .bscl _
  | .qexp _ | .qpk4 _ | .qpk8 _ | .qswx _ | .qswy _ | .qswd _ | .qbc _ | .qddx _
  | .qddy _ | .shfl _ | .shflx _ | .bcast _ | .vote _ | .wred _ | .wscan _ | .ld _
  | .st _ | .ldbk _ | .atom _ | .red _ | .lds _ | .sts _ | .lda _ | .sta _
  | .atoms _ | .fence _ | .cflush _ | .cinv _ | .pref _ | .arv _ | .drain _ | .seal _
  | .waitb _ | .lalloc _ | .lfree _ | .lqry _ | .tlbq _ | .cpy _ | .cpyo _ | .cpym _
  | .cpyt _ | .cpyg _ | .cpybin _ | .cpych _ | .cpyl _ | .cpyq _ | .binit _ | .bexp _
  | .barv _ | .bwait _ | .btry _ | .binv _ | .nbarv _ | .nbwait _ | .racq _ | .rpub _
  | .rtake _ | .rrel _ | .rqry _ | .mstart _ | .mqry _ | .gsig _ | .gwait _ | .gtry _
  | .gqry _ | .coll _ | .ratom _ | .launch _ | .waitch _ | .evsig _ | .evwait _ | .bra _
  | .brx _ | .callx _ | .ret _ | .fork _ | .exit _ | .yield _ | .bar _ | .cut _
  | .pre _ | .grd _ | .assert _ | .trap _ | .bkpt _ | .rfe _ | .halt _ | .roleq _
  | .call _ => true
  | .mnop | .mma _ | .mmac _ | .mclr _ | .epi _
  | .mset _ _ _ | .madd _ _ _ _ | .mloop _ _ | .mjmp _ | .mwait _
  | .msig _ | .mhalt | .arrayOpComplete _ _ | .nopc _ | .launchCommand _ _ _
  | .flaunch _ _ _ | .copyc _ _ _ | .writec _ _ | .evsigc _ _ _ | .evwaitc _ _
  | .ibcall _ _ | .predc _ _ _ | .loopc _ _ | .ffence _ | .tsc _
  | .savec _ | .evwaitcWake _ _ | .qtailWrite _ _ _ | .queueResume _ _ | .qresWrite _ _ _
  | .gangDeal _ _ | .blockEnd _ | .launchComplete _ _ | .waveReschedule _ _ | .flexMark _ _
  | .packetCountCut _ _ | .lowResourceCut _ _ | .holdQuotaCut _ _ | .shadowDeadlockRollback _ | .scoutEnd _ _
  | .slowGearStep _ _ | .noConverge _ _ | .handlerRunStart _ | .faultRecordWrite _ | .fqAnswerWrite _ _
  | .contextReset _ | .doorbell _ | .mboxHalt _ _ | .mboxResume _ _ _ | .mboxReadreg _ _ _ _ _ _
  | .mboxWritereg _ _ _ _ _ _ _ | .mboxReadmem _ _ _ | .mboxWritemem _ _ _ | .mboxStep _ _ _ | .mboxSetbkpt _ _
  | .mboxClrbkpt _ _ | .mboxQuery _ | .count _ _ | .copyDescriptorRead _ _ | .copyDone _ _
  | .copyFault _ _ | .copyBatchWait _ _ | .transferRecord _ _ | .blockSave _ | .blockRestore _ _
  | .graceExpiry _ | .preemptGo _ _ | .sliceExpiry _ | .clusterAssignWrite _ _ _ | .coreBudgetWrite _ _
  | .launchStarved _ | .poolEntryFreed _ | .bwaitWake _ _ | .nbwaitWake _ _ | .mwaitWake _
  | .rtakeWake _ _ | .racqWake _ _ | .waitbWake _ _ | .gwaitWake _ _ | .evwaitWake _ _
  | .waitchWake _ _ | .ptsTick _ | .ptsRebase _ | .homeRead _ _ _ _ | .homeWrite _
  | .homeAtom _ | .rsp _ | .requestResend _ _ _ | .recMerge _ _ | .remoteRequest _ _
  | .dataFlit _ _ | .idleFlit _ _ | .nakFlit _ _ | .retrain _ | .retrainAttemptEnd _ _ _
  | .cxlMemRead _ _ | .cxlMemWrite _ _ | .tlbInvGo _ _ | .tlbInvComplete _ | .gateCreate _ _
  | .gateFree _ _ | .tokenRefill _ | .gateExport | .gateImport | .registerWrite _ _ _ _ _
  | .coldReset | .warmReset | .functionLevelReset _ | .bootStage _ | .attestationReport _
  | .powerWindow _ _ | .fatalError _ _ | .sidebandRead _ | .sidebandReset | .flitSlot _
  | .linkTraining _ _ _ | .cxlCacheSnoop _ _ | .ideKeySetup _ _ | .svnFloorRaise _ => false

/-- The words of an instruction (R56): its own and its EXT. -/
def encode (i : Instr) : List B32 :=
  if i.isWord then
    match i.ext with
    | none => [i.word]
    | some x => [i.word, x.word]
  else []

/-- Whether an opcode takes an EXT: 0 none, 1 optional, 2 required (R68 and each family member's own rule). -/
def extKind (op fn : Nat) : Nat :=
  match op with
  | 0x23 | 0x3C | 0x3D | 0x3E | 0x3F | 0x4F | 0x50 | 0x51 | 0x52 | 0x53 | 0x54 | 0x55
  | 0x56 | 0x57 | 0x59 => 1
  | 0x02 | 0x03 | 0x2F | 0x31 | 0x32 | 0x33 | 0x6F | 0x70 | 0x71 | 0x72 | 0x73 | 0x74
  | 0x75 | 0x76 | 0x77 | 0x78 => 2
  | 0x79 =>
    match fn with
    | 0x08 => 2
    | _ => 0
  | 0x7A =>
    match fn with
    | 0x00 | 0x01 | 0x02 | 0x03 | 0x04 | 0x05 | 0x06 | 0x07 => 2
    | _ => 0
  | 0x7B =>
    match fn with
    | 0x09 | 0x13 => 1
    | 0x03 | 0x04 | 0x10 | 0x11 | 0x12 | 0x18 | 0x19 | 0x1C | 0x1D | 0x1F => 2
    | _ => 0
  | 0x7D =>
    match fn with
    | 0x08 => 1
    | _ => 0
  | _ => 0

/-- The MEMF members by function code (R69). `x` is the EXT that follows, `e` the same for a member that requires one. -/
def readMemf (fn : Nat) (w : B32) (x : Option Ext) (e : Ext) : Option Instr :=
  match fn with
  | 0x00 => some (.fence (FmtFen.of w))
  | 0x01 => some (.cflush (FmtAb.of w))
  | 0x02 => some (.cinv (FmtAb.of w))
  | 0x03 => some (.pref (FmtAb.of w))
  | 0x04 => some (.arv (FmtAb.of w))
  | 0x05 => some (.drain (FmtAb.of w))
  | 0x06 => some (.seal (FmtAb.of w))
  | 0x07 => some (.waitb (FmtAb.of w))
  | 0x08 => some (.lalloc (FmtAbx.of w e))
  | 0x09 => some (.lfree (FmtAb.of w))
  | 0x0A => some (.lqry (FmtAb.of w))
  | 0x0B => some (.tlbq (FmtAb.of w))
  | _ => none

/-- The CPYF members by function code (R69). `x` is the EXT that follows, `e` the same for a member that requires one. -/
def readCpyf (fn : Nat) (w : B32) (x : Option Ext) (e : Ext) : Option Instr :=
  match fn with
  | 0x00 => some (.cpy (FmtAbx.of w e))
  | 0x01 => some (.cpyo (FmtAbx.of w e))
  | 0x02 => some (.cpym (FmtAbx.of w e))
  | 0x03 => some (.cpyt (FmtAbx.of w e))
  | 0x04 => some (.cpyg (FmtAbx.of w e))
  | 0x05 => some (.cpybin (FmtAbx.of w e))
  | 0x06 => some (.cpych (FmtAbx.of w e))
  | 0x07 => some (.cpyl (FmtAbx.of w e))
  | 0x08 => some (.cpyq (FmtAb.of w))
  | _ => none

/-- The SYNF members by function code (R69). `x` is the EXT that follows, `e` the same for a member that requires one. -/
def readSynf (fn : Nat) (w : B32) (x : Option Ext) (e : Ext) : Option Instr :=
  match fn with
  | 0x00 => some (.binit (FmtAb.of w))
  | 0x01 => some (.bexp (FmtAb.of w))
  | 0x02 => some (.barv (FmtAb.of w))
  | 0x03 => some (.bwait (FmtAbx.of w e))
  | 0x04 => some (.btry (FmtAbx.of w e))
  | 0x05 => some (.binv (FmtAb.of w))
  | 0x06 => some (.nbarv (FmtAb.of w))
  | 0x07 => some (.nbwait (FmtAb.of w))
  | 0x08 => some (.racq (FmtAb.of w))
  | 0x09 => some (.rpub (FmtAbo.of w x))
  | 0x0A => some (.rtake (FmtAb.of w))
  | 0x0B => some (.rrel (FmtAb.of w))
  | 0x0C => some (.rqry (FmtAb.of w))
  | 0x0D => some (.mstart (FmtAb.of w))
  | 0x0E => some (.mqry (FmtAb.of w))
  | 0x10 => some (.gsig (FmtAbx.of w e))
  | 0x11 => some (.gwait (FmtAbx.of w e))
  | 0x12 => some (.gtry (FmtAbx.of w e))
  | 0x13 => some (.gqry (FmtAbo.of w x))
  | 0x18 => some (.coll (FmtAbx.of w e))
  | 0x19 => some (.ratom (FmtAbx.of w e))
  | 0x1C => some (.launch (FmtAbx.of w e))
  | 0x1D => some (.waitch (FmtAbx.of w e))
  | 0x1E => some (.evsig (FmtAb.of w))
  | 0x1F => some (.evwait (FmtAbx.of w e))
  | _ => none

/-- The CTLF members by function code (R69). `x` is the EXT that follows, `e` the same for a member that requires one. -/
def readCtlf (fn : Nat) (w : B32) (x : Option Ext) (e : Ext) : Option Instr :=
  match fn with
  | 0x00 => some (.brx (FmtAb.of w))
  | 0x01 => some (.callx (FmtAb.of w))
  | 0x02 => some (.ret (FmtAb.of w))
  | 0x03 => some (.fork (FmtAb.of w))
  | 0x04 => some (.exit (FmtAb.of w))
  | 0x05 => some (.yield (FmtAb.of w))
  | 0x06 => some (.bar (FmtAb.of w))
  | 0x07 => some (.cut (FmtAb.of w))
  | 0x08 => some (.pre (FmtAbo.of w x))
  | 0x09 => some (.grd (FmtAb.of w))
  | 0x0A => some (.assert (FmtAb.of w))
  | 0x0B => some (.trap (FmtAb.of w))
  | 0x0C => some (.bkpt (FmtAb.of w))
  | 0x0D => some (.rfe (FmtAb.of w))
  | 0x0E => some (.halt (FmtAb.of w))
  | 0x0F => some (.roleq (FmtAb.of w))
  | _ => none

/-- The instruction that a word's opcode names, with its fields read (R68). Reserved bits are checked by `decode`. -/
def readWord (w : B32) (x : Option Ext) : Option Instr :=
  let e := x.getD ⟨0, 0⟩
  let fn := bits w.toNat 16 7
  match bits w.toNat 24 7 with
  | 0x00 => some (.nop (FmtC0.of w))
  | 0x01 => some (.mov (FmtA1.of w))
  | 0x02 => some (.movi (FmtI.of w e))
  | 0x03 => some (.sel (FmtS.of w e))
  | 0x04 => some (.iadd (FmtA.of w))
  | 0x05 => some (.isub (FmtA.of w))
  | 0x06 => some (.imul (FmtA.of w))
  | 0x07 => some (.imulh (FmtA.of w))
  | 0x08 => some (.imad (FmtD.of w))
  | 0x09 => some (.imin (FmtA.of w))
  | 0x0A => some (.imax (FmtA.of w))
  | 0x0B => some (.nmin (FmtA.of w))
  | 0x0C => some (.nmax (FmtA.of w))
  | 0x0D => some (.iabs (FmtA1.of w))
  | 0x0E => some (.ineg (FmtA1.of w))
  | 0x0F => some (.and (FmtA.of w))
  | 0x10 => some (.or (FmtA.of w))
  | 0x11 => some (.xor (FmtA.of w))
  | 0x12 => some (.andn (FmtA.of w))
  | 0x13 => some (.not (FmtA1.of w))
  | 0x14 => some (.shl (FmtA.of w))
  | 0x15 => some (.shr (FmtA.of w))
  | 0x16 => some (.sar (FmtA.of w))
  | 0x17 => some (.rot (FmtA.of w))
  | 0x18 => some (.popc (FmtA1.of w))
  | 0x19 => some (.clz (FmtA1.of w))
  | 0x1A => some (.brev (FmtA1.of w))
  | 0x1B => some (.bfx (FmtA.of w))
  | 0x1C => some (.bfi (FmtD.of w))
  | 0x1D => some (.icmp (FmtC.of w))
  | 0x1E => some (.ncmp (FmtC.of w))
  | 0x1F => some (.iadd64 (FmtA.of w))
  | 0x20 => some (.isub64 (FmtA.of w))
  | 0x21 => some (.imad64 (FmtD.of w))
  | 0x22 => some (.shl64 (FmtA.of w))
  | 0x23 => some (.lea (FmtAx.of w x))
  | 0x24 => some (.sadd (FmtA.of w))
  | 0x25 => some (.ssub (FmtA.of w))
  | 0x26 => some (.smul (FmtA.of w))
  | 0x27 => some (.sand (FmtA.of w))
  | 0x28 => some (.sor (FmtA.of w))
  | 0x29 => some (.sxor (FmtA.of w))
  | 0x2A => some (.sshl (FmtA.of w))
  | 0x2B => some (.sshr (FmtA.of w))
  | 0x2C => some (.smin (FmtA.of w))
  | 0x2D => some (.smax (FmtA.of w))
  | 0x2E => some (.smov (FmtA1.of w))
  | 0x2F => some (.smovi (FmtI.of w e))
  | 0x30 => some (.scmp (FmtC.of w))
  | 0x31 => some (.ssel (FmtS.of w e))
  | 0x32 => some (.sld (FmtM.of w e))
  | 0x33 => some (.sst (FmtMs.of w e))
  | 0x34 => some (.pand (FmtP.of w))
  | 0x35 => some (.por (FmtP.of w))
  | 0x36 => some (.pxor (FmtP.of w))
  | 0x37 => some (.pnot (FmtP1.of w))
  | 0x38 => some (.pmov (FmtP1.of w))
  | 0x39 => some (.mfs (FmtMfs.of w))
  | 0x3A => some (.mts (FmtMts.of w))
  | 0x3B => some (.clock (FmtClk.of w))
  | 0x3C => some (.fadd (FmtAx.of w x))
  | 0x3D => some (.fsub (FmtAx.of w x))
  | 0x3E => some (.fmul (FmtAx.of w x))
  | 0x3F => some (.fma (FmtDx.of w x))
  | 0x40 => some (.fmin (FmtA.of w))
  | 0x41 => some (.fmax (FmtA.of w))
  | 0x42 => some (.fabs (FmtA1.of w))
  | 0x43 => some (.fneg (FmtA1.of w))
  | 0x44 => some (.fcmp (FmtC.of w))
  | 0x45 => some (.fclass (FmtA1.of w))
  | 0x46 => some (.frnd (FmtF.of w))
  | 0x47 => some (.frcp (FmtA1.of w))
  | 0x48 => some (.frsq (FmtA1.of w))
  | 0x49 => some (.fsqrt (FmtA1.of w))
  | 0x4A => some (.fexp2 (FmtA1.of w))
  | 0x4B => some (.flog2 (FmtA1.of w))
  | 0x4C => some (.fsin (FmtA1.of w))
  | 0x4D => some (.fcos (FmtA1.of w))
  | 0x4E => some (.ftanh (FmtA1.of w))
  | 0x4F => some (.hadd2 (FmtAx.of w x))
  | 0x50 => some (.hmul2 (FmtAx.of w x))
  | 0x51 => some (.hfma2 (FmtDx.of w x))
  | 0x52 => some (.badd2 (FmtAx.of w x))
  | 0x53 => some (.bmul2 (FmtAx.of w x))
  | 0x54 => some (.bfma2 (FmtDx.of w x))
  | 0x55 => some (.dadd (FmtAx.of w x))
  | 0x56 => some (.dmul (FmtAx.of w x))
  | 0x57 => some (.dfma (FmtDx.of w x))
  | 0x58 => some (.dcmp (FmtC.of w))
  | 0x59 => some (.cvt (FmtFx.of w x))
  | 0x5A => some (.dot4 (FmtD.of w))
  | 0x5B => some (.dot4n (FmtD.of w))
  | 0x5C => some (.dot8 (FmtD.of w))
  | 0x5D => some (.dot84l (FmtD.of w))
  | 0x5E => some (.dot84h (FmtD.of w))
  | 0x5F => some (.bscl (FmtA.of w))
  | 0x60 => some (.qexp (FmtA.of w))
  | 0x61 => some (.qpk4 (FmtQ.of w))
  | 0x62 => some (.qpk8 (FmtQ.of w))
  | 0x63 => some (.qswx (FmtA1.of w))
  | 0x64 => some (.qswy (FmtA1.of w))
  | 0x65 => some (.qswd (FmtA1.of w))
  | 0x66 => some (.qbc (FmtA1.of w))
  | 0x67 => some (.qddx (FmtA1.of w))
  | 0x68 => some (.qddy (FmtA1.of w))
  | 0x69 => some (.shfl (FmtA.of w))
  | 0x6A => some (.shflx (FmtA.of w))
  | 0x6B => some (.bcast (FmtA.of w))
  | 0x6C => some (.vote (FmtVote.of w))
  | 0x6D => some (.wred (FmtF.of w))
  | 0x6E => some (.wscan (FmtF.of w))
  | 0x6F => some (.ld (FmtM.of w e))
  | 0x70 => some (.st (FmtMs.of w e))
  | 0x71 => some (.ldbk (FmtLk.of w e))
  | 0x72 => some (.atom (FmtM.of w e))
  | 0x73 => some (.red (FmtMs.of w e))
  | 0x74 => some (.lds (FmtM.of w e))
  | 0x75 => some (.sts (FmtMs.of w e))
  | 0x76 => some (.lda (FmtM.of w e))
  | 0x77 => some (.sta (FmtMs.of w e))
  | 0x78 => some (.atoms (FmtM.of w e))
  | 0x7C => some (.bra (FmtB.of w))
  | 0x7E => some (.call (FmtB.of w))
  | 0x79 => readMemf fn w x e
  | 0x7A => readCpyf fn w x e
  | 0x7B => readSynf fn w x e
  | 0x7D => readCtlf fn w x e
  | _ => none

/-- Why a word is no instruction (R70). -/
inductive DecodeError where
  | noWord        -- no word is left in the packet
  | unassigned    -- an unlisted family code, or an EXT standing alone
  | extMissing    -- a required EXT is missing (R56)
  | reservedBits  -- a nonzero reserved or unused bit
  | badField      -- a code or value that the instruction does not accept
deriving DecidableEq, Repr

/-- The EXT chained to word `w`, when the opcode takes one (R56). -/
def extAfter (w : B32) (rest : List B32) : Option Ext :=
  match rest with
  | [] => none
  | y :: _ =>
    if bits w.toNat 31 1 = 1 && extKind (bits w.toNat 24 7) (bits w.toNat 16 7) != 0 then Ext.of y else none

/-- Decodes the first instruction of a list of words: the instruction and the words after it. A word whose reserved bits
are not zero is no instruction; re-encoding the fields that were read shows it. -/
def decode : List B32 → Except DecodeError (Instr × List B32)
  | [] => .error .noWord
  | w :: rest =>
    let x := extAfter w rest
    let k := extKind (bits w.toNat 24 7) (bits w.toNat 16 7)
    match readWord w x with
    | none => .error .unassigned
    | some i =>
      if k = 2 && x.isNone then .error .extMissing
      else if i.word ≠ w then .error .reservedBits
      else if i.wf then .ok (i, if x.isSome then rest.drop 1 else rest)
      else .error .badField

/-- The instruction of an opcode-table word: the word, then, where its opcode requires an EXT, an EXT word whose payload
bits are zero (the operand word of zeros), then zero words. -/
def tableWords (w : Nat) : List B32 :=
  let v : B32 := BitVec.ofNat 32 w
  if extKind (bits w 24 7) (bits w 16 7) = 2 && bits w 31 1 = 1 then [v, (Ext.mk 0 0).word, 0] else [v, 0, 0]

/-- The instruction that the decoder reads from a word of the opcode table. -/
def decodeTableWord (nbits w : Nat) : Option Instr :=
  if nbits ≤ 32 then
    match decode (tableWords w) with
    | .ok (i, _) => some i
    | .error _ => none
  else none


/-- The stream word of an instruction (R71); zero for the others. -/
def Instr.streamWord : Instr → B64
  | .mnop => 0
  | .mma f => BitVec.ofNat 64 (mmWord 0x01 f)
  | .mmac f => BitVec.ofNat 64 (mmWord 0x02 f)
  | .mclr f => BitVec.ofNat 64 (pack [(6, 0), (4, f.nb.toNat), (1, f.sigen.toNat), (10, f.q.toNat), (33, 0), (2, f.tile.toNat), (8, 0x03)])
  | .epi f => BitVec.ofNat 64 (pack [(19, 0), (4, f.nb.toNat), (1, f.sigen.toNat), (6, f.n8.toNat), (5, f.m.toNat),
      (1, f.bias.toNat), (1, f.mul.toNat), (1, f.clr.toNat), (4, f.ofmt.toNat), (4, f.act.toNat), (4, f.preg.toNat),
      (4, f.oreg.toNat), (2, f.tile.toNat), (8, 0x04)])
  | .mset r s i => BitVec.ofNat 64 (pack [(48, i.toNat), (2, s.toNat), (2, 0), (4, r.toNat), (8, 0x05)])
  | .madd d a s i => BitVec.ofNat 64 (pack [(32, i.toNat), (10, 0), (6, s.toNat), (4, a.toNat), (4, d.toNat), (8, 0x06)])
  | .mloop r o => BitVec.ofNat 64 (pack [(20, o.toNat), (32, 0), (4, r.toNat), (8, 0x07)])
  | .mjmp o => BitVec.ofNat 64 (pack [(20, o.toNat), (36, 0), (8, 0x08)])
  | .mwait n => BitVec.ofNat 64 (pack [(6, 0), (4, n.toNat), (46, 0), (8, 0x09)])
  | .msig n => BitVec.ofNat 64 (pack [(6, 0), (4, n.toNat), (46, 0), (8, 0x0A)])
  | .mhalt => BitVec.ofNat 64 (pack [(56, 0), (8, 0x0B)])
  | _ => 0
where
  /-- The word of an MMA or MMAC. -/
  mmWord (op : Nat) (f : MmFields) : Nat :=
    pack [(6, 0), (4, f.nb.toNat), (1, f.sigen.toNat), (10, f.q.toNat), (1, f.a16.toNat), (3, f.wp.toNat), (10, f.kb.toNat),
      (6, f.n8.toNat), (5, f.m.toNat), (4, f.wreg.toNat), (4, f.areg.toNat), (2, f.tile.toNat), (8, op)]

/-- The fields of an MMA or MMAC stream word. -/
def MmFields.of (w : B64) : MmFields where
  tile := fld w 54 2
  areg := fld w 50 4
  wreg := fld w 46 4
  m := fld w 41 5
  n8 := fld w 35 6
  kb := fld w 25 10
  wp := fld w 22 3
  a16 := fld w 21 1
  q := fld w 11 10
  sigen := fld w 10 1
  nb := fld w 6 4

/-- The operation that a stream word's code names, with its fields read (R71). -/
def readStream (w : B64) : Option Instr :=
  match bits w.toNat 56 8 with
  | 0x00 => some .mnop
  | 0x01 => some (.mma (.of w))
  | 0x02 => some (.mmac (.of w))
  | 0x03 => some (.mclr ⟨fld w 54 2, fld w 11 10, fld w 10 1, fld w 6 4⟩)
  | 0x04 => some (.epi
      { tile := fld w 54 2, oreg := fld w 50 4, preg := fld w 46 4, act := fld w 42 4, ofmt := fld w 38 4, clr := fld w 37 1
        mul := fld w 36 1, bias := fld w 35 1, m := fld w 30 5, n8 := fld w 24 6, sigen := fld w 23 1, nb := fld w 19 4 })
  | 0x05 => some (.mset (fld w 52 4) (fld w 48 2) (fld w 0 48))
  | 0x06 => some (.madd (fld w 52 4) (fld w 48 4) (fld w 42 6) (fld w 0 32))
  | 0x07 => some (.mloop (fld w 52 4) (fld w 0 20))
  | 0x08 => some (.mjmp (fld w 0 20))
  | 0x09 => some (.mwait (fld w 6 4))
  | 0x0A => some (.msig (fld w 6 4))
  | 0x0B => some .mhalt
  | _ => none

/-- Decodes a stream word; `none` is the sequencer fault of R72 (a code 0x0C to 0xFF, a nonzero zero-field, or a field
outside its range). -/
def decodeStream (w : B64) : Option Instr :=
  match readStream w with
  | some i => if i.streamWord = w && i.wf then some i else none
  | none => none

/-- The causes of a command fault (R286). -/
inductive CmdCause where
  | opcode | length | record | stamp | energy | nest | fetch | prio | event | access
deriving DecidableEq, Repr

/-- The CAUSE code (R286). -/
def CmdCause.code : CmdCause → Nat
  | .opcode => 1 | .length => 2 | .record => 3 | .stamp => 4 | .energy => 5
  | .nest => 6 | .fetch => 7 | .prio => 8 | .event => 9 | .access => 10

/-- The LENs that an operation takes (R285): whether `len` is one of them. -/
def cmdLenOk (op flags len : Nat) : Bool :=
  match op with
  | 0x00 => 1 ≤ len
  | 0x01 => len == (if flags = 1 then 2 else 17)
  | 0x02 => len == (if flags = 1 then 3 else 18)
  | 0x03 => len == 4
  | 0x04 => 3 ≤ len
  | 0x05 | 0x08 | 0x09 | 0x0B => len == 2
  | 0x06 | 0x07 => len == 3
  | 0x0A | 0x0C => len == 1
  | _ => false

/-- FLAGS bits that an operation takes (R285). -/
def cmdFlagsOk (op flags : Nat) : Bool :=
  match op with
  | 0x01 | 0x02 | 0x05 | 0x08 | 0x0A => flags ≤ 1
  | _ => flags == 0

/-- ARG values that an operation takes (R285). -/
def cmdArgOk (op arg : Nat) : Bool :=
  match op with
  | 0x01 | 0x02 => arg ≤ 15
  | 0x08 => arg ≤ 255
  | 0x05 | 0x09 | 0x0C => true
  | _ => arg == 0

/-- The command record of a header and its payload words (R285), or its fault (R286): the opcode, flags and ARG first,
then the length, then the payload's alignment and counts. -/
def decodeCommand (h : B64) (ws : List B64) : Except CmdCause Instr :=
  let op := bits h.toNat 0 8
  let flags := bits h.toNat 8 8
  let len := bits h.toNat 16 16
  let arg : B32 := fld h 32 32
  let w (k : Nat) : B64 := ws.getD k 0
  if op > 0x0C || !cmdFlagsOk op flags || !cmdArgOk op arg.toNat then .error .opcode
  else if !cmdLenOk op flags len || ws.length + 1 != len then .error .length
  else
    match op with
    | 0x00 => .ok (.nopc len)
    | 0x01 => if flags = 1 && (w 0).toNat % 64 != 0 then .error .length else .ok (.launchCommand (flags == 1) arg ws)
    | 0x02 =>
      if (flags = 1 && (w 0).toNat % 64 != 0) || (w (ws.length - 1)).toNat % 64 != 0 then .error .length
      else .ok (.flaunch (flags == 1) arg ws)
    | 0x03 => .ok (.copyc (w 0) (w 1) (w 2))
    | 0x04 => if (w 0).toNat % 8 != 0 then .error .length else .ok (.writec (w 0) (ws.drop 1))
    | 0x05 => .ok (.evsigc (flags == 1) arg (w 0))
    | 0x06 => .ok (.evwaitc (w 0) (w 1))
    | 0x07 => if (w 0).toNat % 8 != 0 || (w 1).toNat % 8 != 0 then .error .length else .ok (.ibcall (w 0) (w 1))
    | 0x08 => .ok (.predc (flags == 1) arg (w 0))
    | 0x09 =>
      if (w 0).toNat = 0 then .error .nest else if (w 0).toNat > 255 then .error .length else .ok (.loopc arg (w 0))
    | 0x0A => .ok (.ffence (flags == 1))
    | 0x0B => if (w 0).toNat % 16 != 0 then .error .length else .ok (.tsc (w 0))
    | _ => .ok (.savec arg)

/-- The words of a command record (R285); empty for the constructors that are none. -/
def Instr.commandWords : Instr → List B64
  | .nopc len => hdr 0 0 len 0 :: List.replicate (len - 1) 0
  | .launchCommand p q ws => hdr 1 (b2n p) (ws.length + 1) q.toNat :: ws
  | .flaunch p q ws => hdr 2 (b2n p) (ws.length + 1) q.toNat :: ws
  | .copyc s d n => [hdr 3 0 4 0, s, d, n]
  | .writec va data => hdr 4 0 (data.length + 2) 0 :: va :: data
  | .evsigc a v va => [hdr 5 (b2n a) 2 v.toNat, va]
  | .evwaitc va t => [hdr 6 0 3 0, va, t]
  | .ibcall va n => [hdr 7 0 3 0, va, n]
  | .predc s k va => [hdr 8 (b2n s) 2 k.toNat, va]
  | .loopc n k => [hdr 9 0 2 n.toNat, k]
  | .ffence d => [hdr 10 (b2n d) 1 0]
  | .tsc va => [hdr 11 0 2 0, va]
  | .savec l => [hdr 12 0 1 l.toNat]
  | _ => []
where
  /-- A command header. -/
  hdr (op flags len arg : Nat) : B64 := BitVec.ofNat 64 (pack [(8, op), (8, flags), (16, len), (32, arg)])

/-! ### What a word's fields name -/

/-- The pipes of an issue slice (R53). -/
inductive Pipe where
  | v | x | m | s
deriving DecidableEq, Repr

/-- What the fields of a word name: pipes (R53, R68), source fields with the number of registers each names (R62),
whether latches are barred as sources (R65), the BASE field (R60), fields that must name scalars and scalar runs,
vector registers read and written through D, scalars and predicates written (R59), latches written (R64), and any other
operand rule broken. -/
structure Shape where
  pipes : List Pipe := []
  src : List (Byte × Nat) := []
  lane : Bool := false
  base : Option Byte := none
  sfld : List Byte := []
  srun : List (Byte × Nat) := []
  vr : List (Nat × Nat) := []
  vw : List (Nat × Nat) := []
  sw : List Nat := []
  pw : List Nat := []
  pr : List Nat := []
  latch : List Nat := []
  bad : Bool := false
deriving DecidableEq, Repr

/-- Registers that a value of SIZE takes (R169, R255). -/
def sizeRegs (s : Nat) : Nat := if s ≤ 2 then 1 else if s = 3 then 2 else 4

/-- A vector destination of `k` registers, none when N = 1 (R59). -/
def vdst (n : Bit) (d : BitVec 7) (k : Nat) : List (Nat × Nat) := if n = 0 then [(d.toNat, k)] else []

/-- A scalar destination of format A, none when N = 1 (R59). -/
def sdst (n : Bit) (d : BitVec 7) : List Nat := if n = 0 then [d.toNat % 64] else []

/-- The scalar that an 8-bit field names (R62). -/
def scalarOf (b : Byte) : Nat := b.toNat % 64

def shV2 (f : FmtA) (kd ka kb : Nat) (p : Pipe) (l : Nat) : Shape :=
  { pipes := [p], src := [(f.a, ka), (f.b, kb)], vw := vdst f.n f.d kd, latch := [l] }

def shV1 (f : FmtA1) (p : Pipe) (l : Nat) : Shape :=
  { pipes := [p], src := [(f.a, 1)], vw := vdst f.n f.d 1, latch := [l] }

def shVx (f : FmtAx) (k : Nat) : Shape :=
  { pipes := [.v], src := [(f.a, k), (f.b, k)], vw := vdst f.n f.d k, latch := [0] }

def shD (d : BitVec 7) (a b : Byte) (k : Nat) : Shape :=
  { pipes := [.v], src := [(a, k), (b, k)], vr := [(d.toNat, k)], vw := [(d.toNat, k)], latch := [0] }

def shS2 (f : FmtA) : Shape :=
  { pipes := [.s], src := [(f.a, 1), (f.b, 1)], sw := sdst f.n f.d, latch := [3], bad := f.d.toNat ≥ 64 }

def shLane (f : FmtA) : Shape := { shV2 f 1 1 1 .v 0 with lane := true }
def shQuad (f : FmtA1) : Shape := { shV1 f .v 0 with lane := true }

def shLd (f : FmtM) : Shape :=
  { pipes := [.m], base := some f.g, vw := vdst f.n f.d (sizeRegs f.s.toNat), latch := if f.s.toNat ≤ 3 then [2] else [] }

def shSt (f : FmtMs) : Shape := { pipes := [.m], base := some f.g, vr := [(f.d.toNat, sizeRegs f.s.toNat)] }

/-- The registers of ATOM and ATOMS: cas reads its compare and new values, xrd and xclr read none (R172, R256). -/
def shRmw (f : FmtM) : Shape :=
  let k := sizeRegs f.s.toNat
  let fn := f.x.func
  let kr := if fn = 1 then 2 * k else if fn ≥ 0x10 then 0 else k
  { pipes := [.m], base := some f.g, vr := [(f.d.toNat, kr)], vw := vdst f.n f.d k, latch := if f.n = 0 then [2] else [] }

/-- A once-per-bundle member with general sources `fs`. -/
def shM (fs : List Byte) : Shape := { pipes := [.m], src := fs.map (fun b => (b, 1)) }

def shCopy (f : FmtAbx) (ka kb : Nat) : Shape :=
  { pipes := [.m], srun := [(f.a, ka), (f.b, kb)], latch := [2] }

/-- PD of an EXT payload. -/
def pdOf (x : Ext) : Nat := bits x.p.toNat 0 4

/-- The shape of an instruction word in a window of `w` registers. -/
def Instr.shape (w : Nat) : Instr → Shape
  | .mov f | .iabs f | .ineg f | .not f | .popc f | .clz f | .brev f | .fabs f | .fneg f | .fclass f => shV1 f .v 0
  | .movi f => { pipes := [.v], vw := vdst f.n f.d 1, latch := [0] }
  | .sel f =>
      { pipes := [.v], src := [(f.a, 1), (f.b, 1)], vw := vdst f.n f.d 1, latch := [0], pr := [bits f.x.p.toNat 0 4] }
  | .iadd f | .isub f | .imul f | .imulh f | .imin f | .imax f | .nmin f | .nmax f | .and f | .or f | .xor f | .andn f
  | .shl f | .shr f | .sar f | .rot f | .bfx f | .fmin f | .fmax f => shV2 f 1 1 1 .v 0
  | .bscl f | .qexp f => shV2 f 1 1 1 .x 1
  | .imad f | .bfi f | .dot4 f | .dot4n f | .dot8 f | .dot84l f | .dot84h f => shD f.d f.a f.b 1
  | .imad64 f => shD f.d f.a f.b 2
  | .fma f | .hfma2 f | .bfma2 f => shD f.d f.a f.b 1
  | .dfma f => shD f.d f.a f.b 2
  | .icmp f | .ncmp f =>
      let k := if bitAt f.k.toNat 3 then 2 else 1
      { pipes := [.v], src := [(f.a, k), (f.b, k)], pw := [f.p.toNat] }
  | .fcmp f => { pipes := [.v], src := [(f.a, 1), (f.b, 1)], pw := [f.p.toNat] }
  | .dcmp f => { pipes := [.v], src := [(f.a, 2), (f.b, 2)], pw := [f.p.toNat] }
  | .iadd64 f | .isub64 f => shV2 f 2 2 2 .v 0
  | .shl64 f => shV2 f 2 2 1 .v 0
  | .lea f => { pipes := [.v], src := [(f.a, 2), (f.b, 1)], vw := vdst f.n f.d 2, latch := [0] }
  | .sadd f | .ssub f | .smul f | .sand f | .sor f | .sxor f | .sshl f | .sshr f | .smin f | .smax f => shS2 f
  | .smov f =>
      { pipes := [.s], src := [(f.a, 1)], sw := sdst f.n f.d, latch := [3], bad := f.d.toNat ≥ 64 }
  | .smovi f => { pipes := [.s], sw := sdst f.n f.d, latch := [3], bad := f.d.toNat ≥ 64 }
  | .scmp f => { pipes := [.s], src := [(f.a, 1), (f.b, 1)], pw := [f.p.toNat] }
  | .ssel f =>
      { pipes := [.s], src := [(f.a, 1), (f.b, 1)], sw := sdst f.n f.d, latch := [3], bad := f.d.toNat ≥ 64
        pr := [bits f.x.p.toNat 0 4] }
  | .sld f =>
      { pipes := [.s, .m], base := some f.g, sw := sdst f.n f.d, latch := [2, 3], bad := f.d.toNat ≥ 64 }
  | .sst f => { pipes := [.s, .m], base := some f.g, bad := f.d.toNat ≥ 64 }
  | .pand f | .por f | .pxor f => { pipes := [.s], pw := [f.p.toNat], pr := [f.q.toNat, f.r.toNat] }
  | .pnot f | .pmov f => { pipes := [.s], pw := [f.p.toNat], pr := [f.q.toNat] }
  | .mfs f => { pipes := [.s], sw := sdst f.n f.d, latch := [3], bad := f.d.toNat ≥ 64 }
  | .mts f => { pipes := [.s], src := [(f.a, 1)] }
  | .clock f => { pipes := [.s], sw := sdst f.n f.d, latch := [3], bad := f.d.toNat ≥ 64 }
  | .fadd f | .fsub f | .fmul f | .hadd2 f | .hmul2 f | .badd2 f | .bmul2 f => shVx f 1
  | .dadd f | .dmul f => shVx f 2
  | .frnd f => { pipes := [.v], src := [(f.a, 1)], vw := vdst f.n f.d 1, latch := [0] }
  | .frcp f | .frsq f | .fsqrt f | .fexp2 f | .flog2 f | .fsin f | .fcos f | .ftanh f => shV1 f .x 1
  | .cvt f =>
      let wide (c : BitVec 4) : Nat := if c.toNat ≥ 0xB then 2 else 1
      { pipes := [.x], src := [(f.a, wide f.u)], vw := vdst f.n f.d (wide f.t), latch := [1] }
  | .qpk4 f =>
      { pipes := [.x], src := [(f.a, if f.f = 0 then 24 else 12)], vw := [(f.d.toNat, 4)], latch := [1]
        bad := f.a.toNat ≥ 0x80 }
  | .qpk8 f =>
      { pipes := [.x], src := [(f.a, if f.f = 0 then 24 else 12)], vw := [(f.d.toNat, 7)], latch := [1]
        bad := f.a.toNat ≥ 0x80 }
  | .qswx f | .qswy f | .qswd f | .qbc f | .qddx f | .qddy f => shQuad f
  | .shfl f | .shflx f | .bcast f => shLane f
  | .vote f => { pipes := [.v], vw := vdst f.n f.d 1, latch := [0], lane := true, pr := [f.p.toNat] }
  | .wred f | .wscan f => { pipes := [.v], src := [(f.a, 1)], vw := vdst f.n f.d 1, latch := [0], lane := true }
  | .ld f | .lds f | .lda f => shLd f
  | .st f | .sts f | .sta f => shSt f
  | .ldbk f => { pipes := [.m], base := some f.g, vw := [(f.d.toNat, 4)] }
  | .atom f | .atoms f => shRmw f
  | .red f => shSt f
  | .fence _ | .drain _ | .seal _ | .waitb _ | .nbarv _ | .nbwait _ => { pipes := [.m] }
  | .cflush f | .cinv f => { pipes := [.m], sfld := [f.a], src := [(f.b, 1)] }
  | .pref f => { pipes := [.m], src := [(f.a, 2)] }
  | .arv f => { pipes := [.m], sfld := [f.a, f.b], sw := [scalarOf f.b], latch := [2] }
  | .lalloc f => { shM [f.a] with sfld := [f.b], sw := [scalarOf f.b], pw := [pdOf f.x] }
  | .lfree f => shM [f.a]
  | .lqry f | .tlbq f => { shM [f.a] with sfld := [f.b], sw := [scalarOf f.b] }
  | .cpy f | .cpyo f | .cpym f | .cpyt f | .cpyg f | .cpybin f => shCopy f 3 3
  | .cpych f => { pipes := [.m], srun := [(f.a, 1)], latch := [2], bad := f.b != 0 }
  | .cpyl f => shCopy f 4 3
  | .cpyq f => { shM [f.a] with sfld := [f.b], sw := [scalarOf f.b], latch := [2] }
  | .binit f | .bexp f | .barv f | .rrel f => shM [f.a, f.b]
  | .rpub f => shM [f.a, f.b]
  | .bwait f | .btry f => { shM [f.a, f.b] with pw := [pdOf f.x] }
  | .binv f => shM [f.a]
  | .racq f | .rtake f | .rqry f => { shM [f.a] with sfld := [f.b], sw := [scalarOf f.b] }
  | .mstart f => shM [f.a, f.b]
  | .mqry f => { pipes := [.m], sfld := [f.b], sw := [scalarOf f.b] }
  | .gsig f => { shM [f.b] with sfld := [f.a], pw := [pdOf f.x] }
  | .gwait f | .gtry f | .evwait f => { pipes := [.m], sfld := [f.a, f.b], pw := [pdOf f.x] }
  | .gqry f => { pipes := [.m], sfld := [f.a, f.b], sw := [scalarOf f.b] }
  | .coll f => { pipes := [.m], sfld := [f.a], latch := [2] }
  | .ratom f =>
      let cas := bits f.x.p.toNat 15 5 = 1
      { pipes := [.m], sfld := [f.a], srun := [(f.b, if cas then 2 else 1)], latch := [2], pw := [pdOf f.x]
        sw := if bits f.x.p.toNat 12 1 = 1 then [scalarOf f.b] else [] }
  | .launch f => { pipes := [.m], sfld := [f.a, f.b], sw := [scalarOf f.b], pw := [pdOf f.x] }
  | .waitch f => { pipes := [.m], sfld := [f.a], pw := [pdOf f.x] }
  | .evsig f => { shM [f.b] with sfld := [f.a] }
  | .bra f => { pipes := [.s], pr := [f.p.toNat] }
  | .call f => { pipes := [.s], vw := [(w - 1, 1)], pr := [f.p.toNat] }
  | .brx f | .ret f => { pipes := [.s], src := [(f.a, 1)] }
  | .callx f => { pipes := [.s], src := [(f.a, 1)], vw := [(f.b.toNat, 1)] }
  | .fork f => { pipes := [.s], src := [(f.a, 1), (f.b, 1)], latch := [3] }
  | .assert f => { pipes := [.s], sfld := [f.a], pr := [f.b.toNat % 16] }
  | .roleq f => { pipes := [.s], pw := [bits f.b.toNat 4 4] }
  | .grd f => { pr := [f.b.toNat % 16] }
  | .exit _ | .yield _ | .bar _ | .cut _ | .pre _ | .trap _ | .bkpt _ | .rfe _ | .halt _ => { pipes := [.s] }
  | _ => {}

/-- A source field names a readable operand in a window of `w` registers (R62); `lane` bars the latches (R65). -/
def srcOk (w : Nat) (lane : Bool) (b : Byte) (k : Nat) : Bool :=
  let x := b.toNat
  if x < 0x80 then x + k ≤ w else if x < 0xC0 then true else if x < 0xC4 then !lane else 0xE0 ≤ x

/-- The word's operands are legal: the ILLEGAL-OPERAND rules (R59, R60, R62, R70 and each instruction's own). -/
def Shape.ok (w : Nat) (s : Shape) : Bool :=
  !s.bad &&
  s.src.all (fun p => srcOk w s.lane p.1 p.2) &&
  (match s.base with
   | none => true
   | some b => if b.toNat < 0x80 then b.toNat + 2 ≤ w else b.toNat < 0xC0) &&
  s.sfld.all (fun b => 0x80 ≤ b.toNat && b.toNat < 0xC0) &&
  s.srun.all (fun p => 0x80 ≤ p.1.toNat && p.1.toNat + p.2 ≤ 0xC0) &&
  s.vr.all (fun p => p.1 + p.2 ≤ w) && s.vw.all (fun p => p.1 + p.2 ≤ w)

/-- The word reads latch entries (R62, R65). -/
def Shape.latchesRead (s : Shape) : List Nat :=
  s.src.filterMap fun p => if 0xC0 ≤ p.1.toNat && p.1.toNat < 0xC4 then some (p.1.toNat - 0xC0) else none

/-- The word is a cut point whatever its data (R153). -/
def Instr.isCut : Instr → Bool
  | .bar _ | .cut _ | .trap _ | .bkpt _ | .halt _ | .atom _ | .red _ | .atoms _
  | .fence _ | .cflush _ | .cinv _ | .arv _ | .drain _ | .seal _ | .waitb _ | .lalloc _ | .lfree _ | .lqry _ | .tlbq _
  | .cpy _ | .cpyo _ | .cpym _ | .cpyt _ | .cpyg _ | .cpybin _ | .cpych _ | .cpyl _
  | .binit _ | .bexp _ | .barv _ | .bwait _ | .btry _ | .binv _ | .nbarv _ | .nbwait _ | .racq _ | .rpub _ | .rtake _
  | .rrel _ | .rqry _ | .mstart _ | .mqry _ | .gsig _ | .gwait _ | .gtry _ | .gqry _ | .coll _ | .ratom _ | .launch _
  | .waitch _ | .evsig _ | .evwait _ => true
  | .ld f | .lds f | .lda f | .sld f => f.o != 0
  | .st f | .sts f | .sta f | .sst f => f.o != 0
  | _ => false

/-- The word is one slow-gear step for its whole bundle (R144, R200, R269). -/
def Instr.oneStep : Instr → Bool
  | .qswx _ | .qswy _ | .qswd _ | .qbc _ | .qddx _ | .qddy _ | .shfl _ | .shflx _ | .bcast _ | .vote _ | .wred _ | .wscan _
  | .fence _ | .cflush _ | .cinv _ | .arv _ | .drain _ | .seal _ | .waitb _ | .lalloc _ | .lfree _ | .lqry _ | .tlbq _
  | .cpy _ | .cpyo _ | .cpym _ | .cpyt _ | .cpyg _ | .cpybin _ | .cpych _ | .cpyl _ | .cpyq _
  | .binit _ | .bexp _ | .barv _ | .bwait _ | .btry _ | .binv _ | .nbarv _ | .nbwait _ | .racq _ | .rpub _ | .rtake _
  | .rrel _ | .rqry _ | .mstart _ | .mqry _ | .gsig _ | .gwait _ | .gtry _ | .gqry _ | .coll _ | .ratom _ | .launch _
  | .waitch _ | .evsig _ | .evwait _ => true
  | _ => false

/-- A quad instruction (R26). -/
def Instr.isQuad : Instr → Bool
  | .qswx _ | .qswy _ | .qswd _ | .qbc _ | .qddx _ | .qddy _ => true
  | _ => false

/-- A lane instruction (R140). -/
def Instr.isLane : Instr → Bool
  | .shfl _ | .shflx _ | .bcast _ | .vote _ | .wred _ | .wscan _ => true
  | _ => false

/-- The word may stand only in wave slot 63 (R95, R160). -/
def Instr.slot63Only : Instr → Bool
  | .rfe _ => true
  | .mfs f => 0x20 ≤ f.f.toNat
  | .mts f => 0x20 ≤ f.f.toNat
  | _ => false

end Sys2Proof
end

