-- ==== Sys2Proof/Machine/Flags.lean ====
section
/-!
DEFINITION. The sticky flags of FLAGS (R93, R110): a set of flags is a number whose bits are the FLAGS bits [6:0], and an
operation answers its result with the flags it sets.
-/

namespace Sys2Proof.Machine

/-- NV, FLAGS[0] (R93). -/
def flagNV : Nat := 1
/-- OF, FLAGS[1] (R93). -/
def flagOF : Nat := 2
/-- UF, FLAGS[2] (R93). -/
def flagUF : Nat := 4
/-- NX, FLAGS[3] (R93). -/
def flagNX : Nat := 8
/-- QSAT, FLAGS[4] (R93). -/
def flagQSAT : Nat := 16
/-- ASAT, FLAGS[5] (R93). -/
def flagASAT : Nat := 32
/-- AINX, FLAGS[6] (R93). -/
def flagAINX : Nat := 64

/-- A flag when a condition holds, no flag else. -/
def flagIf (c : Bool) (f : Nat) : Nat := if c then f else 0

/-- A result with the flags that forming it sets (R110). -/
structure Res where
  v : Nat
  fl : Nat := 0
deriving DecidableEq, Repr

/-- The FLAGS register after flags are ORed into it (R93, R111): only the sticky bits [6:0] change. -/
def orFlags (r : B64) (fl : Nat) : B64 := r ||| BitVec.ofNat 64 (fl % 128)

/-- The FLAGS register after an MTS: the fields ARM and [6:0] are writable, the others read 0 (R93). -/
def writeFlags (v : B64) : B64 := v &&& 0x7F7F

/-- The sticky flags that are set and armed (R93): the cause of the TRAP at the block's next BAR. -/
def armedFlags (r : B64) : Nat := bits r.toNat 0 7 &&& bits r.toNat 8 7

end Sys2Proof.Machine
end

