-- ==== Sys2Proof/Machine/Float.lean ====
section
/-!
DEFINITION. The floating formats, roundings and conversions of *Number formats* (R97 to R110) and the F32, packed and F64
operations on one value (R125 to R134). A value is worked out exactly and rounded once.
-/

namespace Sys2Proof.Machine

/-- The rounding modes (R102). -/
inductive RMode where
  | rne | rz | rp | rm | rna
deriving DecidableEq, Repr

/-- The mode of an EXT code (R61, R102); codes above 4 are refused before the word issues. -/
def RMode.ofCode : Nat → RMode
  | 1 => .rz
  | 2 => .rp
  | 3 => .rm
  | 4 => .rna
  | _ => .rne

/-- A floating format (R99): the widths of E and F, and whether it has infinities (all but E4M3). -/
structure FFmt where
  eb : Nat
  fb : Nat
  hasInf : Bool := true
deriving DecidableEq, Repr

/-- F64 (R99). -/
def f64 : FFmt := ⟨11, 52, true⟩
/-- F32 (R99). -/
def f32 : FFmt := ⟨8, 23, true⟩
/-- F16 (R99). -/
def f16 : FFmt := ⟨5, 10, true⟩
/-- B16 (R99). -/
def b16 : FFmt := ⟨8, 7, true⟩
/-- E4M3 (R99). -/
def e4m3 : FFmt := ⟨4, 3, false⟩
/-- E5M2 (R99). -/
def e5m2 : FFmt := ⟨5, 2, true⟩

namespace FFmt

/-- The exponent bias (R99). -/
def bias (f : FFmt) : Nat := 2 ^ (f.eb - 1) - 1
/-- The width of a pattern. -/
def width (f : FFmt) : Nat := 1 + f.eb + f.fb
/-- The exponent of the smallest normal (R99). -/
def emin (f : FFmt) : Int := 1 - (f.bias : Int)
/-- The exponent of the largest finite value (R99): E all ones is finite in E4M3 only. -/
def emax (f : FFmt) : Int := if f.hasInf then (f.bias : Int) else (f.bias : Int) + 1
/-- The significand of the largest finite value (R99): in E4M3 the pattern above it is NaN. -/
def sigMax (f : FFmt) : Nat := if f.hasInf then 2 ^ (f.fb + 1) - 1 else 2 ^ (f.fb + 1) - 2
/-- The canonical NaN (R99, R101). -/
def qnan (f : FFmt) : Nat :=
  if f.hasInf then (2 ^ f.eb - 1) * 2 ^ f.fb + 2 ^ (f.fb - 1) else 2 ^ (f.eb + f.fb) - 1
/-- The sign bit in place. -/
def signBit (f : FFmt) (s : Bool) : Nat := if s then 2 ^ (f.eb + f.fb) else 0
/-- The pattern of an infinity; E4M3 has none and takes 0x7F (R106). -/
def infPat (f : FFmt) (s : Bool) : Nat := if f.hasInf then f.signBit s + (2 ^ f.eb - 1) * 2 ^ f.fb else f.qnan
/-- The pattern of a largest finite value (R99, R103). -/
def maxPat (f : FFmt) (s : Bool) : Nat :=
  f.signBit s + ((if f.hasInf then (2 ^ f.eb - 1) * 2 ^ f.fb else 2 ^ (f.eb + f.fb) - 1) - 1)

end FFmt

/-- What a pattern stands for (R99): NaN, an infinity, or (−1)^s × m × 2^e. -/
inductive FVal where
  | nan
  | inf (s : Bool)
  | fin (s : Bool) (m : Nat) (e : Int)
deriving DecidableEq, Repr

/-- The value of a pattern (R99). -/
def FFmt.read (f : FFmt) (x : Nat) : FVal :=
  let s := bitAt x (f.eb + f.fb)
  let e := bits x f.fb f.eb
  let fr := bits x 0 f.fb
  if e = 2 ^ f.eb - 1 && (if f.hasInf then fr != 0 else fr == 2 ^ f.fb - 1) then .nan
  else if e = 2 ^ f.eb - 1 && f.hasInf then .inf s
  else if e = 0 then .fin s fr (f.emin - f.fb)
  else .fin s (fr + 2 ^ f.fb) ((e : Int) - f.bias - f.fb)

/-- Rounds m × 2^sh, more by less than one unit of m when `st`, to an integer in the mode; the flag says whether the
result differs (R102). A nonzero `st` with a left shift is not formed by any caller. -/
def roundInt (mode : RMode) (s : Bool) (m : Nat) (sh : Int) (st : Bool) : Nat × Bool :=
  if 0 ≤ sh then (m <<< sh.toNat, st)
  else
    let k := (-sh).toNat
    let n := m >>> k
    let rem := m % 2 ^ k
    let half := 2 ^ (k - 1)
    let inexact := rem != 0 || st
    let up := match mode with
      | .rne => decide (rem > half) || (rem == half && (st || n % 2 == 1))
      | .rna => decide (rem ≥ half)
      | .rz => false
      | .rp => inexact && !s
      | .rm => inexact && s
    (n + b2n up, inexact)

/-- The pattern of an overflow (R103); in E4M3 every finite overflow is ±448. -/
def FFmt.overflow (f : FFmt) (mode : RMode) (s : Bool) : Nat :=
  if !f.hasInf then f.maxPat s
  else match mode with
    | .rne | .rna => f.infPat s
    | .rz => f.maxPat s
    | .rp => if s then f.maxPat s else f.infPat s
    | .rm => if s then f.infPat s else f.maxPat s

/-- Rounds (−1)^s × m × 2^e (plus less than one unit of m when `st`) into a format (R102 to R104). -/
def FFmt.round (f : FFmt) (mode : RMode) (s : Bool) (m : Nat) (e : Int) (st : Bool) : Res :=
  if m = 0 then ⟨f.signBit s, 0⟩
  else
    let top : Int := e + (Nat.log2 m : Int)
    let qu : Int := top - f.fb
    let q : Int := max qu (f.emin - f.fb)
    let (n0, inexact) := roundInt mode s m (e - q) st
    let carry := n0 == 2 ^ (f.fb + 1)
    let n := if carry then n0 / 2 else n0
    let q := if carry then q + 1 else q
    let topN : Int := q + f.fb
    if 2 ^ f.fb ≤ n ∧ (f.emax < topN ∨ (topN = f.emax ∧ f.sigMax < n)) then
      ⟨f.overflow mode s, flagOF ||| flagNX⟩
    else
      let nu := (roundInt mode s m (e - qu) st).1
      let tiny := decide (top < f.emin) && !(nu == 2 ^ (f.fb + 1) && top + 1 == f.emin)
      let pat := if n < 2 ^ f.fb then n else ((topN + f.bias).toNat) * 2 ^ f.fb + (n - 2 ^ f.fb)
      ⟨f.signBit s + pat, flagIf inexact flagNX ||| flagIf (tiny && inexact) flagUF⟩

/-- Rounds an exact value into a format, or gives its NaN or infinity (R101, R105, R106). -/
def FFmt.write (f : FFmt) (mode : RMode) : FVal → Res
  | .nan => ⟨f.qnan, 0⟩
  | .inf s => ⟨f.infPat s, flagIf (!f.hasInf) flagNV⟩
  | .fin s m e => f.round mode s m e false

/-- The signed integer of a sign and magnitude. -/
def signed (s : Bool) (m : Nat) : Int := if s then -(m : Int) else m

/-- The exact sum of two finite values and the sign of a zero sum (R125). -/
def addFin (mode : RMode) (s1 : Bool) (m1 : Nat) (e1 : Int) (s2 : Bool) (m2 : Nat) (e2 : Int) : FVal :=
  let e := min e1 e2
  let i := signed s1 (m1 <<< (e1 - e).toNat) + signed s2 (m2 <<< (e2 - e).toNat)
  if i = 0 then .fin (if s1 == s2 then s1 else mode == .rm) 0 0 else .fin (decide (i < 0)) i.natAbs e

/-- A sum before rounding, with NV for ∞ − ∞ (R125). -/
def addVal (mode : RMode) : FVal → FVal → FVal × Nat
  | .nan, _ => (.nan, 0)
  | _, .nan => (.nan, 0)
  | .inf s, .inf t => if s == t then (.inf s, 0) else (.nan, flagNV)
  | .inf s, .fin _ _ _ => (.inf s, 0)
  | .fin _ _ _, .inf t => (.inf t, 0)
  | .fin s m e, .fin t n d => (addFin mode s m e t n d, 0)

/-- A product before rounding, with NV for 0 × ∞ (R125). -/
def mulVal : FVal → FVal → FVal × Nat
  | .nan, _ => (.nan, 0)
  | _, .nan => (.nan, 0)
  | .inf s, .inf t => (.inf (s != t), 0)
  | .inf s, .fin t m _ => if m = 0 then (.nan, flagNV) else (.inf (s != t), 0)
  | .fin s m _, .inf t => if m = 0 then (.nan, flagNV) else (.inf (s != t), 0)
  | .fin s m e, .fin t n d => (.fin (s != t) (m * n) (e + d), 0)

/-- The value with its sign inverted. -/
def FVal.neg : FVal → FVal
  | .nan => .nan
  | .inf s => .inf (!s)
  | .fin s m e => .fin (!s) m e

/-- FADD in a format (R125). -/
def FFmt.add (f : FFmt) (mode : RMode) (a b : Nat) : Res :=
  let (v, nv) := addVal mode (f.read a) (f.read b)
  let r := f.write mode v
  ⟨r.v, r.fl ||| nv⟩

/-- FSUB in a format (R125). -/
def FFmt.sub (f : FFmt) (mode : RMode) (a b : Nat) : Res :=
  let (v, nv) := addVal mode (f.read a) (f.read b).neg
  let r := f.write mode v
  ⟨r.v, r.fl ||| nv⟩

/-- FMUL in a format (R125). -/
def FFmt.mul (f : FFmt) (mode : RMode) (a b : Nat) : Res :=
  let (v, nv) := mulVal (f.read a) (f.read b)
  let r := f.write mode v
  ⟨r.v, r.fl ||| nv⟩

/-- FMA in a format: a · b + d with one rounding (R125). -/
def FFmt.fma (f : FFmt) (mode : RMode) (a b d : Nat) : Res :=
  let (p, n1) := mulVal (f.read a) (f.read b)
  let (v, n2) := addVal mode p (f.read d)
  let r := f.write mode v
  ⟨r.v, r.fl ||| n1 ||| n2⟩

/-- The exact order of two values that are not NaN, zeros equal. -/
def FVal.cmp : FVal → FVal → Ordering
  | .inf s, .inf t => if s == t then .eq else if s then .lt else .gt
  | .inf s, _ => if s then .lt else .gt
  | _, .inf t => if t then .gt else .lt
  | .fin s m e, .fin t n d =>
      let q := min e d
      compare (signed s (m <<< (e - q).toNat)) (signed t (n <<< (d - q).toNat))
  | .nan, _ => .eq
  | _, .nan => .eq

/-- The value is NaN. -/
def FVal.isNan : FVal → Bool
  | .nan => true
  | _ => false

/-- The sign of a value. -/
def FVal.sign : FVal → Bool
  | .nan => false
  | .inf s => s
  | .fin s _ _ => s

/-- FMIN (`mx` false) or FMAX of two patterns (R126). -/
def FFmt.minmax (f : FFmt) (mx : Bool) (a b : Nat) : Nat :=
  let x := f.read a
  let y := f.read b
  if x.isNan then (if y.isNan then f.qnan else b)
  else if y.isNan then a
  else match x.cmp y with
    | .lt => if mx then b else a
    | .gt => if mx then a else b
    | .eq => if x.sign == mx then b else a

/-- FABS of a pattern (R127). -/
def FFmt.abs (f : FFmt) (a : Nat) : Nat := if (f.read a).isNan then f.qnan else a % 2 ^ (f.eb + f.fb)

/-- FNEG of a pattern (R127). -/
def FFmt.neg (f : FFmt) (a : Nat) : Nat :=
  if (f.read a).isNan then f.qnan else (a + 2 ^ (f.eb + f.fb)) % 2 ^ f.width

/-- FCLASS of a pattern (R128). -/
def FFmt.fclass (f : FFmt) (a : Nat) : Nat :=
  match f.read a with
  | .nan => 2 ^ 8
  | .inf s => if s then 2 ^ 0 else 2 ^ 7
  | .fin s m _ =>
      if m = 0 then (if s then 2 ^ 3 else 2 ^ 4)
      else if m < 2 ^ f.fb then (if s then 2 ^ 2 else 2 ^ 5)
      else if s then 2 ^ 1 else 2 ^ 6

/-- FRND of a pattern (R129). -/
def FFmt.rnd (f : FFmt) (mode : RMode) (a : Nat) : Res :=
  match f.read a with
  | .nan => ⟨f.qnan, 0⟩
  | .inf _ => ⟨a, 0⟩
  | .fin s m e =>
      if m = 0 then ⟨a, 0⟩
      else
        let (n, inexact) := roundInt mode s m e false
        ⟨(f.round .rne s n 0 false).v, flagIf inexact flagNX⟩

/-- The compare conditions of FCMP and DCMP (R130). -/
def FFmt.test (f : FFmt) (cond a b : Nat) : Bool :=
  let x := f.read a
  let y := f.read b
  let un := x.isNan || y.isNan
  match cond with
  | 0 => !un && x.cmp y == .eq
  | 1 => un || x.cmp y != .eq
  | 2 => !un && x.cmp y == .lt
  | 3 => !un && x.cmp y != .gt
  | 4 => !un && x.cmp y == .gt
  | 5 => !un && x.cmp y != .lt
  | 6 => un
  | _ => !un

/-- A packed 16-bit form: the operation applied to each half, the flags ORed (R132). -/
def packed (op : Nat → Nat → Nat → Res) (a b d : Nat) : Res :=
  let lo := op (bits a 0 16) (bits b 0 16) (bits d 0 16)
  let hi := op (bits a 16 16) (bits b 16 16) (bits d 16 16)
  ⟨lo.v + 2 ^ 16 * hi.v, lo.fl ||| hi.fl⟩

/-- The formats of CVT (R109). -/
inductive CFmt where
  | int (signed : Bool) (w : Nat)
  | flt (f : FFmt)
deriving DecidableEq, Repr

/-- The format of a CVT code (R109). -/
def CFmt.ofCode : Nat → CFmt
  | 0x0 => .int true 32
  | 0x1 => .int false 32
  | 0x2 => .int true 16
  | 0x3 => .int false 16
  | 0x4 => .int true 8
  | 0x5 => .int false 8
  | 0x6 => .flt f32
  | 0x7 => .flt f16
  | 0x8 => .flt b16
  | 0x9 => .flt e4m3
  | 0xA => .flt e5m2
  | 0xB => .flt f64
  | 0xC => .int true 64
  | _ => .int false 64

/-- The bits of a format. -/
def CFmt.width : CFmt → Nat
  | .int _ w => w
  | .flt f => f.width

/-- The least value of an integer format. -/
def intMin (sg : Bool) (w : Nat) : Int := if sg then -(2 ^ (w - 1) : Nat) else 0
/-- The greatest value of an integer format. -/
def intMax (sg : Bool) (w : Nat) : Int := if sg then (2 ^ (w - 1) : Nat) - 1 else (2 ^ w : Nat) - 1

/-- An integer clamped into an integer format, `nv` when it was outside (R107, R134). -/
def clampInt (sg : Bool) (w : Nat) (i : Int) (nx : Nat) : Res :=
  if i < intMin sg w then ⟨wrap w (intMin sg w), flagNV⟩
  else if intMax sg w < i then ⟨wrap w (intMax sg w), flagNV⟩
  else ⟨wrap w i, nx⟩

/-- A float value converted to an integer format (R107). -/
def toInt (sg : Bool) (w : Nat) (mode : RMode) : FVal → Res
  | .nan => ⟨0, flagNV⟩
  | .inf s => ⟨wrap w (if s then intMin sg w else intMax sg w), flagNV⟩
  | .fin s m e =>
      let (n, inexact) := roundInt mode s m e false
      clampInt sg w (signed s n) (flagIf inexact flagNX)

/-- The integer of a pattern in an integer format. -/
def readInt (sg : Bool) (w x : Nat) : Int := if sg then sext w x else ((x % 2 ^ w : Nat) : Int)

/-- CVT of a pattern (R134): the source format and its low bits, the destination format and the mode. -/
def convert (dst src : CFmt) (mode : RMode) (x : Nat) : Res :=
  match src, dst with
  | .int sg w, .int tg v =>
      if sg = tg ∧ w = v then ⟨x % 2 ^ w, 0⟩ else clampInt tg v (readInt sg w x) 0
  | .int sg w, .flt g =>
      let i := readInt sg w x
      g.round mode (decide (i < 0)) i.natAbs 0 false
  | .flt f, .int tg v => toInt tg v mode (f.read x)
  | .flt f, .flt g =>
      if f = g then ⟨if (f.read x).isNan then f.qnan else x % 2 ^ f.width, 0⟩ else g.write mode (f.read x)

/-- The sum of the products of `n` signed or natural fields, of `wa` bits of `a` at field `i` and `wb` bits of `b` at
field `i + off` (R135). -/
def dotSum (sg : Bool) (wa wb off a b : Nat) : Nat → Int
  | 0 => 0
  | i + 1 =>
      dotSum sg wa wb off a b i + readInt sg wa (bits a (wa * i) wa) * readInt sg wb (bits b (wb * (i + off)) wb)

/-- BSCL of a sum and two scales (R136). -/
def blockScale (a b : Nat) : Res :=
  let x := bits b 0 8
  let y := bits b 8 8
  if x = 255 ∨ y = 255 then ⟨f32.qnan, flagNV⟩
  else
    let i := sext 32 a
    f32.round .rne (decide (i < 0)) i.natAbs ((x : Int) + (y : Int) - 254) false

end Sys2Proof.Machine
end

