-- ==== Sys2Proof/Machine/Exact.lean ====
section
/-!
DEFINITION. The accumulator formats that never round: A64 in the tiles (R116, R117) and XA320 in cells, records and the
abacus units (R118 to R122).
-/

namespace Sys2Proof.Machine

/-- The result of an accumulation with its flags. -/
structure AccRes where
  v : Int
  fl : Nat := 0
deriving DecidableEq, Repr

/-- SAT64 (R117). -/
def sat64 (x : Int) : AccRes :=
  if (2 ^ 63 : Nat) - 1 < x then ⟨(2 ^ 63 : Nat) - 1, flagASAT⟩
  else if x < -(2 ^ 63 : Nat) then ⟨-(2 ^ 63 : Nat), flagASAT⟩
  else ⟨x, 0⟩

/-- SHIFT_RNE (R117). -/
def shiftRne (t : Int) (k : Nat) : AccRes :=
  let (n, inexact) := roundInt .rne (decide (t < 0)) t.natAbs (-(k : Int)) false
  ⟨signed (decide (t < 0)) n, flagIf inexact flagAINX⟩

/-- SCALE (R117). -/
def scaleA64 (t : Int) (k : Int) : AccRes :=
  if 0 ≤ k then sat64 (t * (2 ^ k.toNat : Nat))
  else
    let r := shiftRne t (-k).toNat
    let u := sat64 r.v
    ⟨u.v, r.fl ||| u.fl⟩

/-- One accumulation step: acc := SAT64(acc + SCALE(t, k)) (R117). -/
def accumulate (acc t k : Int) : AccRes :=
  let r := scaleA64 t k
  let u := sat64 (acc + r.v)
  ⟨u.v, r.fl ||| u.fl⟩

/-- An XA320: X as a signed integer and the flag bits [3:0] (R118). -/
structure Xa where
  x : Int := 0
  fl : BitVec 4 := 0
deriving DecidableEq, Repr

/-- NAN of an XA320 (R118). -/
def xaNan : BitVec 4 := 1
/-- PINF (R118). -/
def xaPinf : BitVec 4 := 2
/-- NINF (R118). -/
def xaNinf : BitVec 4 := 4
/-- OVF (R118). -/
def xaOvf : BitVec 4 := 8

/-- XA_SUM (R119). -/
def Xa.sum (c : Xa) (y : Int) : Xa :=
  let z := c.x + y
  { x := sext 320 (wrap 320 z)
    fl := if (2 ^ 319 : Nat) ≤ z ∨ z < -(2 ^ 319 : Nat) then c.fl ||| xaOvf else c.fl }

/-- The exact integer v × 2^160 of a finite value (R119): every value of the five formats is a multiple of 2^−149. -/
def xaInt (s : Bool) (m : Nat) (e : Int) : Int := signed s (m <<< (e + 160).toNat)

/-- XA_ADD (R119). -/
def Xa.add (c : Xa) : FVal → Xa
  | .nan => { c with fl := c.fl ||| xaNan }
  | .inf s => { c with fl := c.fl ||| (if s then xaNinf else xaPinf) }
  | .fin s m e => c.sum (xaInt s m e)

/-- XA_MERGE (R119). -/
def Xa.merge (c o : Xa) : Xa := { c with fl := c.fl ||| o.fl }.sum o.x

/-- XA_ROUND (R120). -/
def Xa.round (c : Xa) (f : FFmt) : Res :=
  let has (b : BitVec 4) : Bool := c.fl &&& b != 0
  if has xaNan || (has xaPinf && has xaNinf) then ⟨f.qnan, 0⟩
  else if has xaOvf then ⟨f.qnan, flagNV⟩
  else if has xaPinf then ⟨f.infPat false, 0⟩
  else if has xaNinf then ⟨f.infPat true, 0⟩
  else if c.x = 0 then ⟨0, 0⟩
  else f.round .rne (decide (c.x < 0)) c.x.natAbs (-160) false

/-- The 48 bytes of a cell or full record (R121): the reserved bits are written as zero. -/
def Xa.bytes (c : Xa) : List Byte := toBytes 40 (wrap 320 c.x) ++ toBytes 8 c.fl.toNat

/-- Reads the 48 bytes of a cell or full record; reserved bits are ignored (R121). -/
def Xa.ofBytes (b : List Byte) : Xa :=
  { x := sext 320 (Sys2Proof.ofBytes (b.take 40)), fl := BitVec.ofNat 4 ((b.getD 40 0).toNat) }

/-- The number of trailing zero bits, at most `n`. -/
def trailingZeros (x : Nat) : Nat → Nat
  | 0 => 0
  | n + 1 => if bitAt x 0 then 0 else 1 + trailingZeros (x / 2) n

/-- The record that a sender uses (R122): compact when I fits 104 bits, else full. -/
def Xa.record (c : Xa) : List Byte :=
  let w := if c.x = 0 then 0 else trailingZeros c.x.natAbs 216
  let i := c.x / (2 ^ w : Nat)
  if -(2 ^ 103 : Nat) ≤ i ∧ i < (2 ^ 103 : Nat) then
    toBytes 1 c.fl.toNat ++ toBytes 2 w ++ toBytes 13 (wrap 104 i)
  else c.bytes

/-- Decodes a record of 16 or 48 bytes (R122): a window position above 216 is a contribution with NAN set. -/
def Xa.ofRecord (b : List Byte) : Xa :=
  if b.length ≤ 16 then
    let fl : BitVec 4 := BitVec.ofNat 4 ((b.getD 0 0).toNat)
    let w := Sys2Proof.ofBytes ((b.drop 1).take 2)
    if 216 < w then { x := 0, fl := fl ||| xaNan }
    else { x := sext 320 (wrap 320 (sext 104 (Sys2Proof.ofBytes ((b.drop 3).take 13)) * (2 ^ w : Nat))), fl := fl }
  else Xa.ofBytes b

end Sys2Proof.Machine
end

