-- ==== Sys2Proof/Machine/IntOps.lean ====
section
/-!
DEFINITION. The integer operations on one value (R79 to R89): operands and results are the numbers that registers hold.
-/

namespace Sys2Proof.Machine

/-- The signed minimum (`mx` false) or maximum of two `w`-bit patterns (R79, R87). -/
def sminmax (w : Nat) (mx : Bool) (a b : Nat) : Nat :=
  if (sext w a ≤ sext w b) == mx then b else a

/-- The natural minimum or maximum (R79). -/
def nminmax (mx : Bool) (a b : Nat) : Nat := if decide (a ≤ b) == mx then b else a

/-- a + b modulo 2^w. -/
def addW (w a b : Nat) : Nat := (a + b) % 2 ^ w
/-- a − b modulo 2^w. -/
def subW (w a b : Nat) : Nat := (a + (2 ^ w - b % 2 ^ w)) % 2 ^ w
/-- a · b modulo 2^w. -/
def mulW (w a b : Nat) : Nat := (a * b) % 2 ^ w
/-- The complement of a `w`-bit pattern. -/
def notW (w a : Nat) : Nat := 2 ^ w - 1 - a % 2 ^ w

/-- The high half of a signed 32-bit product (R79). -/
def mulHigh (a b : Nat) : Nat := wrap 32 ((sext 32 a * sext 32 b) / 2 ^ 32)

/-- IABS (R80). -/
def iabs (a : Nat) : Nat := if bitAt a 31 then subW 32 0 a else a

/-- The number of 1 bits in the low `n` bits. -/
def popCount (a : Nat) : Nat → Nat
  | 0 => 0
  | n + 1 => popCount a n + b2n (bitAt a n)

/-- The leading zero bits of a 32-bit pattern (R80). -/
def clz32 (a : Nat) : Nat := if a = 0 then 32 else 31 - Nat.log2 a

/-- The low `n` bits in reversed order (R80). -/
def bitReverse (a : Nat) : Nat → Nat
  | 0 => 0
  | n + 1 => 2 * bitReverse (a) n + b2n (bitAt a n)

/-- A left shift of a `w`-bit pattern, 0 for counts of `w` or more (R81, R85, R87). -/
def shlW (w a c : Nat) : Nat := if c < w then (a <<< c) % 2 ^ w else 0
/-- A right shift with zero fill (R81, R87). -/
def shrW (w a c : Nat) : Nat := if c < w then a >>> c else 0
/-- A right shift of 32 bits with sign fill (R81). -/
def sar32 (a c : Nat) : Nat :=
  if bitAt a 31 then (if c < 32 then wrap 32 (sext 32 a / (2 ^ c : Nat)) else 2 ^ 32 - 1) else shrW 32 a c
/-- A left rotation of 32 bits (R81). -/
def rotl32 (a c : Nat) : Nat := ((a <<< (c % 32)) % 2 ^ 32) ||| (a >>> (32 - c % 32))

/-- The field that a control word of BFX and BFI selects: its lowest bit and the bits that exist (R83). -/
def bitField (k : Nat) : Nat × Nat :=
  let pos := bits k 0 5
  let w := min (bits k 8 6) 32
  (pos, min (pos + w) 32 - pos)

/-- BFX (R83). -/
def bfx (a k : Nat) : Nat :=
  let (pos, n) := bitField k
  let r := bits a pos n
  if bitAt k 16 then wrap 32 (sext n r) else r

/-- BFI (R83). -/
def bfi (a k d : Nat) : Nat :=
  let (pos, n) := bitField k
  bits d 0 pos + bits a 0 n * 2 ^ pos + (d >>> (pos + n)) * 2 ^ (pos + n)

/-- The tests of ICMP (`sg`) and NCMP (R84) on patterns of `w` bits. -/
def cmpTest (sg : Bool) (w code a b : Nat) : Bool :=
  let lt := if sg then decide (sext w a < sext w b) else decide (a < b)
  match code with
  | 0 => a == b
  | 1 => a != b
  | 2 => lt
  | 3 => lt || a == b
  | 4 => !lt && a != b
  | 5 => !lt
  | 6 => (a &&& b) != 0
  | _ => (a &&& b) == 0

/-- The tests of SCMP (R89) on 64-bit operands, of which COND[3] = 0 takes the low 32 bits. -/
def scmpTest (cond a b : Nat) : Bool :=
  let w := if bitAt cond 3 then 64 else 32
  let x := a % 2 ^ w
  let y := b % 2 ^ w
  match cond % 8 with
  | 6 => decide (x < y)
  | 7 => decide (y ≤ x)
  | c => cmpTest true w c x y

/-- The address of LEA (R86): the payload's SH and NAT. -/
def leaAddr (base idx pay : Nat) : Nat :=
  let i : Int := if bitAt pay 3 then (idx : Int) else sext 32 idx
  wrap 64 ((base : Int) + i * (2 ^ bits pay 0 3 : Nat))

end Sys2Proof.Machine
end

