-- ==== Sys2Proof/Config.lean ====
section
/-!
DEFINITION. What an implementation fixes and what the spec leaves open. The opaque constants have no body: nothing can be
proved of their values.
-/

namespace Sys2Proof.Config

/-- LEASE (R249). -/
def lease : Nat := 64
/-- DEVID (R2). -/
def devid : Nat := 0x07402000
/-- The resend timeout in NCLK (R258). -/
def resendNclk : Nat := 2 ^ 16
/-- NCLK in a microsecond (R324, R357). -/
def nclkPerUs : Nat := 1600
/-- The extra CCLK that an issue takes beyond one: timing is not fixed by the spec (R96). A FREE VALUE. -/
opaque issueDelay : Nat → BitVec 16
/-- Which of several moves that are possible at once comes next (R29, R246): the spec gives no order. A FREE VALUE. -/
opaque choose : Nat → Nat
/-- Whether a fetch ahead of the command processor has taken a byte before a store changed it (R287). A FREE VALUE. -/
opaque fetchedOld : Nat → Bool
/-- Whether the rename headroom of a wave is low (R370): the manual fixes no pool. A FREE VALUE. -/
opaque renameLow : Nat → Bool
/-- The key digest in the fuses (R354), fixed at manufacture. A FREE VALUE. -/
opaque fusedKeyDigest : List Byte
/-- SHA-384 of the boot ROM (R355), fixed at manufacture. A FREE VALUE. -/
opaque romDigest : BitVec 384
/-- The fused device secret (R355), which nothing can read. A FREE VALUE. -/
opaque deviceSecret : List Byte
/-- The derivation of the identity key from the device secret (R355): the spec does not say which. A FREE VALUE. -/
opaque identityKey : List Byte → BitVec 384
/-- r and s of an ECDSA P-384 signature that a key makes of a digest (R355): the choice of its nonce is open. A FREE VALUE. -/
opaque ecdsaSign : BitVec 384 → List Byte → BitVec 384 × BitVec 384

/-- The symbol code over a sector's data and the rest of its metadata (R348): the spec does not say which. A FREE VALUE. -/
opaque eccCode : List Byte → B64

end Sys2Proof.Config
end

