-- ==== Sys2Proof/Machine/Crc.lean ====
section
/-!
DEFINITION. The check codes: CRC-32C (R336, R348) and CRC-64/ECMA-182 (R272).
-/

namespace Sys2Proof.Machine

/-- `n` steps of a reflected 32-bit CRC; zero stays zero. -/
def crc32Steps : Nat → Nat → Nat
  | 0, c => c
  | _ + 1, 0 => 0
  | n + 1, k + 1 => crc32Steps n (if (k + 1) % 2 = 1 then ((k + 1) / 2) ^^^ 0x82F63B78 else (k + 1) / 2)

/-- CRC-32C (R348): polynomial 0x1EDC6F41, reflected, initial value and final XOR all ones. -/
def crc32c (bs : List Byte) : Nat :=
  (bs.foldl (fun c b => crc32Steps 8 (c ^^^ b.toNat)) 0xFFFFFFFF) ^^^ 0xFFFFFFFF

/-- `n` steps of a 64-bit CRC that is not reflected; zero stays zero. -/
def crc64Steps : Nat → Nat → Nat
  | 0, c => c
  | _ + 1, 0 => 0
  | n + 1, k + 1 =>
    crc64Steps n (if 2 ^ 63 ≤ k + 1 then (2 * (k + 1) % 2 ^ 64) ^^^ 0x42F0E1EBA9EA3693 else 2 * (k + 1) % 2 ^ 64)

/-- CRC-64/ECMA-182 (R272): initial value 0, no reflection, no final XOR. -/
def crc64 (bs : List Byte) : Nat := bs.foldl (fun c b => crc64Steps 8 (c ^^^ (b.toNat * 2 ^ 56))) 0

/-- The check word of a sector (R348). -/
def checkWord (pa : Nat) (data : List Byte) : Nat := crc32c (toBytes 8 pa ++ data)

end Sys2Proof.Machine
end

