-- ==== Sys2Proof/Machine/Move.lean ====
section
/-!
DEFINITION. The moves of the machine: what it can do next.
-/

namespace Sys2Proof.Machine

/-- A move of the machine: a wave issues its next chain group at full speed, or a step without an encoding takes place. -/
inductive Move where
  | issue (blk wave : Nat)
  | packetCountCut (blk wave : Nat)
  | lowResourceCut (blk wave : Nat)
  | holdQuotaCut (blk wave : Nat)
  | shadowDeadlockRollback (core : Nat)
  | scoutEnd (blk wave : Nat)
  | slowGearStep (blk wave : Nat)
  | noConverge (blk wave : Nat)
  | bwaitWake (blk wave : Nat)
  | nbwaitWake (blk wave : Nat)
  | rtakeWake (blk wave : Nat)
  | racqWake (blk wave : Nat)
  | waitbWake (blk wave : Nat)
  | gwaitWake (blk wave : Nat)
  | evwaitWake (blk wave : Nat)
  | waitchWake (blk wave : Nat)
  | waveReschedule (blk wave : Nat)
  /-- The sequencer of a block takes its next stream word. -/
  | stream (blk : Nat)
  | arrayOpComplete (blk : Nat) (isEpi : Bool)
  | mwaitWake (blk : Nat)
  /-- A FAULTED sequencer's record stops its block (R224). -/
  | seqStop (blk : Nat)
  | flexMark (blk : Nat) (toLoad : Bool)
  | blockEnd (blk : Nat)
  | blockSave (blk : Nat)
  | graceExpiry (blk : Nat)
  /-- A block that waits for an entry of the launch pool is asked to stop (R295). -/
  | poolStop (blk : Nat)
  | copyDescriptorRead (core slot : Nat)
  | count (core slot : Nat)
  | transferRecord (core slot : Nat)
  | copyDone (core slot : Nat)
  | copyFault (core slot : Nat)
  | copyBatchWait (core slot : Nat)
  | homeWrite (core : Nat)
  | ptsTick (core : Nat)
  | handlerRunStart (core : Nat)
  | faultRecordWrite (part : Nat)
  /-- A command processor takes the next record of a queue. -/
  | command (part q : Nat)
  | evwaitcWake (part q : Nat)
  | gangDeal (part launch : Nat)
  | launchComplete (part launch : Nat)
  | blockRestore (part image : Nat)
  | launchStarved (part : Nat)
  | poolEntryFreed (part : Nat)
  | ptsRebase (part : Nat)
  | tlbInvComplete (part : Nat)
  | sliceExpiry (cluster : Nat)
  | tokenRefill (g : Nat)
  | gateExport
  | gateImport
  | flitSlot (e : Nat)
  /-- A flit comes off a module's wire. -/
  | flitIn (e : Nat)
  /-- The oldest received message of an end is taken. -/
  | message (e : Nat)
  | retrain (link : Nat)
  | requestResend (src slice tag : Nat)
deriving DecidableEq, Repr

end Sys2Proof.Machine
end

