-- ==== Sys2Proof/Machine/Sparse.lean ====
section
/-!
DEFINITION. Sparse tables in one canonical form: pairs of a key and a value, keys strictly rising, no entry equal to what
an unlisted key reads as. Registers, memories and the other indexed state of the machine are held so.
-/

namespace Sys2Proof.Machine

/-- A table from numbers to values. -/
abbrev Tab (α : Type) := List (Nat × α)

namespace Tab

/-- The value at a key; `d` when the key is not listed. -/
def get {α : Type} (d : α) : Tab α → Nat → α
  | [], _ => d
  | (i, v) :: r, k => if i = k then v else get d r k

/-- The listed value at a key. -/
def find {α : Type} : Tab α → Nat → Option α
  | [], _ => none
  | (i, v) :: r, k => if i = k then some v else find r k

/-- The table without a key. -/
def erase {α : Type} : Tab α → Nat → Tab α
  | [], _ => []
  | (i, v) :: r, k => if i = k then erase r k else (i, v) :: erase r k

/-- The table with a value listed at a key, in its place. -/
def insert {α : Type} : Tab α → Nat → α → Tab α
  | [], k, x => [(k, x)]
  | (i, v) :: r, k, x =>
    if i = k then (k, x) :: r else if k < i then (k, x) :: (i, v) :: r else (i, v) :: insert r k x

/-- Writes a value; the default is not listed. -/
def set {α : Type} [DecidableEq α] (d : α) (t : Tab α) (k : Nat) (x : α) : Tab α :=
  if x = d then t.erase k else t.insert k x

/-- Changes the listed value at a key, if there is one. -/
def modify {α : Type} (f : α → α) : Tab α → Nat → Tab α
  | [], _ => []
  | (i, v) :: r, k => if i = k then (i, f v) :: r else (i, v) :: modify f r k

/-- Changes the first value that satisfies a test. -/
def modifyFirst {α : Type} (p : α → Bool) (f : α → α) : Tab α → Tab α
  | [] => []
  | (i, v) :: r => if p v then (i, f v) :: r else (i, v) :: modifyFirst p f r

/-- The keys are strictly rising, all at least `lo`. -/
def sortedFrom {α : Type} : Nat → Tab α → Bool
  | _, [] => true
  | lo, (i, _) :: r => decide (lo ≤ i) && sortedFrom (i + 1) r

/-- The canonical form: keys strictly rising, no default listed. -/
def wf {α : Type} [DecidableEq α] (d : α) (t : Tab α) : Bool :=
  sortedFrom 0 t && t.all fun p => decide (p.2 ≠ d)

/-- The least number that is no key, counting up from `k`, for at most `n` tries. -/
def freeKey {α : Type} (t : Tab α) : Nat → Nat → Nat
  | 0, k => k
  | n + 1, k => match t.find k with
    | none => k
    | some _ => freeKey t n (k + 1)

end Tab

/-- Memory: bytes by physical address (R11). -/
abbrev Memory := List Host.Cell

/-- What a byte of memory that nothing has written reads as: the boot sets device memory to zero (R353). -/
def Memory.blank : Byte := 0

namespace Memory

/-- The canonical form of memory. -/
def wf (m : Memory) : Bool := Tab.wf Memory.blank m

/-- One byte of memory. -/
def readByte (m : Memory) (a : Nat) : Byte := Tab.get Memory.blank m a

/-- Writes one byte. -/
def writeByte (m : Memory) (a : Nat) (b : Byte) : Memory := Tab.set Memory.blank m a b

/-- The `n` bytes from an address. -/
def read (m : Memory) (a : Nat) : Nat → List Byte
  | 0 => []
  | n + 1 => m.readByte a :: read m (a + 1) n

/-- Writes bytes from an address. -/
def write (m : Memory) : Nat → List Byte → Memory
  | _, [] => m
  | a, b :: bs => write (m.writeByte a b) (a + 1) bs

/-- The little-endian number of the `n` bytes from an address (R4). -/
def readNat (m : Memory) (a n : Nat) : Nat := ofBytes (m.read a n)

/-- Writes the `n` little-endian bytes of a number (R4). -/
def writeNat (m : Memory) (a n x : Nat) : Memory := m.write a (toBytes n x)

/-- The listed bytes of `n` from an address, counted from there. -/
def slice (m : Memory) (a n : Nat) : Tab Byte :=
  m.filterMap fun p => if a ≤ p.1 ∧ p.1 < a + n then some (p.1 - a, p.2) else none

end Memory

end Sys2Proof.Machine
end

