-- ==== Sys2Proof/Machine/Wave.lean ====
section
/-!
DEFINITION. The state of a core: fibres, waves, blocks with their barriers, rings, tiles and sequencer, the local array
and the copy engine (R21 to R35, R64, R75, R153 to R168, R178 to R206, R212 to R227, R248, R263 to R282).
-/

namespace Sys2Proof.Machine

/-- A lane slot is EMPTY, LIVE or HELPER (R24). -/
inductive LaneSt where
  | empty | live | helper
deriving DecidableEq, Repr

/-- A PC: packet index and slot 0 to 2 (R50). -/
structure Pc where
  ix : B32 := 0
  sl : Nat := 0
deriving DecidableEq, Repr

/-- PCs are compared by packet index, then by slot (R28). -/
def Pc.key (p : Pc) : Nat := 4 * p.ix.toNat + p.sl

/-- One lane slot (R21, R22): its state, PC, predicate word, window base, the wait count of R30, and, while it waits at a
blocking instruction, the PC at which it goes on (R27). -/
structure Fibre where
  st : LaneSt := .empty
  pc : Pc := {}
  pred : B16 := 1
  wb : Nat := 0
  wait : Nat := 0
  blocked : Option Pc := none
  /-- Chain groups of the latch run that the fibre is in (R66). -/
  run : Nat := 0
deriving DecidableEq, Repr

/-- A valid latch entry (R64): its 64 bits, and how many packets the fibre has fallen through since (R65). -/
structure Latch where
  v : B64
  age : Nat := 0
deriving DecidableEq, Repr

/-- The registers of a wave (R75): what a region's checkpoint holds (R157). -/
structure Arch where
  /-- The vector registers of the allotment, 32 × W of them (R32). -/
  v : Tab B32 := []
  /-- The scalar registers s0 to s63. -/
  sc : Tab B64 := []
  /-- The 32 lane slots. -/
  fib : List Fibre := []
  /-- FLAGS (R93). -/
  flags : B64 := 0
  /-- WSTAT.VANISHED and WSTAT.SCOPE_CLAMP (R94). -/
  vanished : Bool := false
  clamp : Bool := false
  /-- The latch entries that are valid and may be in reach, at key 4 × slot + latch (R64, R65). -/
  lat : Tab Latch := []
  /-- The values that a P2 primary's wave has forwarded, or that its twin's has taken (R272). -/
  fseq : Nat := 0
deriving DecidableEq, Repr

/-- The coherence classes (R235). -/
inductive Cls where
  | loc | dev | sys
deriving DecidableEq, Repr

/-- A store that waits in the hold buffer (R155): its address, its physical address and class, its bytes. -/
structure Held where
  va : Nat
  pa : Nat
  cls : Cls
  data : List Byte
  /-- The bytes stand in the wave's own reservation, not in the shared part (R156). -/
  own : Bool := false
  /-- The sectors that its store word writes whole with it (R272). -/
  whole : List Nat := []
  /-- Its page is one of 512 MiB (R232). -/
  big : Bool := false
deriving DecidableEq, Repr

/-- A shadow sector (R155): space, line index, sector, prior bytes and poison (R272), and the 16-byte parts that the barrier
unit has updated since (R197). -/
structure Shadow where
  space : Nat
  ix : Nat
  sector : Nat
  data : Tab Byte
  poison : Bool := false
  skip : List Nat := []
deriving DecidableEq, Repr

/-- The classes of fault records (R263). -/
inductive FClass where
  | notPresent | invalid | permission | cls | format | alignment | illegalInstruction | illegalOperand | illegalChain
  | latch | space | layout | barrier | ring | role | gate | det | poison | assert | trap | bkpt | e2e | vanished
  | noConverge | silent | handlerFetch | handler | launchStarved | batch
deriving DecidableEq, Repr

/-- The class codes (R263). -/
def FClass.code : FClass → Nat
  | .notPresent => 0x01 | .invalid => 0x02 | .permission => 0x03 | .cls => 0x04 | .format => 0x05 | .alignment => 0x06
  | .illegalInstruction => 0x07 | .illegalOperand => 0x08 | .illegalChain => 0x09 | .latch => 0x0A | .space => 0x0B
  | .layout => 0x0C | .barrier => 0x0D | .ring => 0x0E | .role => 0x0F | .gate => 0x10 | .det => 0x11 | .poison => 0x12
  | .assert => 0x13 | .trap => 0x14 | .bkpt => 0x15 | .e2e => 0x16 | .vanished => 0x20 | .noConverge => 0x21
  | .silent => 0x22 | .handlerFetch => 0x23 | .handler => 0x24 | .launchStarved => 0x25 | .batch => 0x30

/-- The class of a code (R263). -/
def FClass.ofCode (n : Nat) : FClass :=
  (([.notPresent, .invalid, .permission, .cls, .format, .alignment, .illegalInstruction, .illegalOperand, .illegalChain, .latch,
    .space, .layout, .barrier, .ring, .role, .gate, .det, .poison, .assert, .trap, .bkpt, .e2e, .vanished, .noConverge, .silent,
    .handlerFetch, .handler, .launchStarved, .batch] : List FClass).find? fun c => c.code == n).getD .invalid

/-- CODE of a record of a fault that the walk meets at a level (R271). -/
def FClass.levelCode (c : FClass) (lvl : Nat) : Nat := if c = .invalid ∨ c = .notPresent then lvl else 0

/-- A fault of the walk (R263). -/
def FClass.isTranslation : FClass → Bool
  | .notPresent | .invalid | .permission | .cls | .format => true
  | _ => false

/-- The access kinds of a record (R271). -/
inductive AKind where
  | none | load | store | atomic | fetch | copyRead | copyWrite | mstream | seqRead | seqWrite | walk
deriving DecidableEq, Repr

/-- The KIND codes (R271). -/
def AKind.code : AKind → Nat
  | .none => 0 | .load => 1 | .store => 2 | .atomic => 3 | .fetch => 4 | .copyRead => 5 | .copyWrite => 6 | .mstream => 7
  | .seqRead => 8 | .seqWrite => 9 | .walk => 10

/-- The access kind of a code (R271). -/
def AKind.ofCode (n : Nat) : AKind :=
  (([.none, .load, .store, .atomic, .fetch, .copyRead, .copyWrite, .mstream, .seqRead, .seqWrite, .walk] : List AKind).find? fun k =>
    k.code == n).getD .none

/-- What a fault leaves for a record (R271, R278). -/
structure FaultInfo where
  cls : FClass
  lvl : Nat := 0
  kind : AKind := .none
  lane : Nat := 0
  pc : Pc := {}
  wslot : Nat := 0
  addr : Nat := 0
  word : B32 := 0
  extw : B32 := 0
  opa : B64 := 0
  opb : B64 := 0
  code : Nat := 0
  /-- The page walked, W set when a write needs it (R268). -/
  page : Nat := 0
  w : Bool := false
deriving DecidableEq, Repr

/-- A scout's state (R265): collected pages with W, unknown registers (physical), scalars, predicates and latch entries,
completed packets, and whether it has ended. -/
structure Scout where
  pages : List (Nat × Bool) := []
  unkV : List Nat := []
  unkS : List Nat := []
  unkP : List Nat := []
  unkL : List Nat := []
  pkts : Nat := 0
  done : Bool := false
deriving DecidableEq, Repr

/-- How a wave runs: fast, as a scout (R265), or in the slow gear (R269) with the steps taken, the slots still to step the
cut word whose fault opened the region (R279), the failed pages of a batch answered with FAIL (R268), and the steps since
each slot last stepped. -/
inductive Gear where
  | fast
  | scout (x : Scout)
  | slow (steps : Nat) (cut : Option (List Nat)) (failed : List Nat)
deriving DecidableEq, Repr

/-- Why a wave is stopped (R159, R273, R276, R309). -/
inductive StopWhy where
  | handler | halt | mailbox | context | preempt (kind : Nat) | record
deriving DecidableEq, Repr

/-- A wave issues, sleeps on a fault batch (R268), is stopped, is descheduled (R34), or has ended (R31). -/
inductive WaveMode where
  | run
  | asleep (batch : Nat)
  | stopped (why : StopWhy)
  | desched (chunk : Nat)
  | ended
deriving DecidableEq, Repr

/-- What a blocked bundle waits for (R27, R151, R194, R201, R202, R205, R296, R328). -/
inductive WaitKind where
  | bar (mask : Nat)
  | bwait (ea : Nat) (parity : Bool) (pd : Nat)
  | nbwait (k : Nat)
  | waitb (cls n : Nat)
  | drain (space : Nat) (handles : List Nat)
  | rtake (ring sd : Nat)
  | racq (ring sd : Nat)
  | gwait (gate : Nat) (target : B64) (pd : Nat)
  | evwait (va pa : Nat) (big : Bool) (target : B64) (pd : Nat)
  | waitch (id : B32) (pd : Nat)
  | ratom (slot sd pd : Nat)
  | gqueued (gate pd : Nat)
  | launch (ptr : B64) (queue sd pd : Nat)
  | waitchPool (id : B32) (pd : Nat)
deriving DecidableEq, Repr

/-- A waiting bundle: what it waits for, the fibres in which its word takes effect, its place in issue order, and the
predicate with which it has been woken. -/
structure Waiting where
  kind : WaitKind
  eff : List Nat
  order : Nat
  woken : Option Bool := none
deriving DecidableEq, Repr

/-- Why a group that was issued could not take effect and is tried again (R28): too few free shadow sectors (R368), no
free copy slot, with the place in the order of starts (R178), a 64th batch (R193), lines in use by copies that started
before the LFREE (R176), a value of the primary or a store signature of the twin that is not there (R272), a block that is
being pre-empted (R309), no hold room for some bytes (R156), no free entry of the operand log (R266). -/
inductive Hold where
  | shadows (n : Nat)
  | slot (order : Nat)
  | seal (cls : Nat)
  | lfree (space ix n before : Nat)
  | value
  | sign
  | lalloc
  | room (n : Nat)
  | oplog
deriving DecidableEq, Repr

/-- One batch class of a wave (R193): unfinished copies of the open batch, of each sealed batch with the oldest first, and
the number of batches sealed so far. -/
structure BatchCls where
  opened : List Nat := []
  sealed : List (List Nat) := []
  seq : Nat := 0
deriving DecidableEq, Repr

/-- The roles (R41). -/
inductive Role where
  | any | load | store | vec
deriving DecidableEq, Repr

/-- The role codes (R41). -/
def Role.code : Role → Nat
  | .any => 0 | .load => 1 | .store => 2 | .vec => 3

/-- The role of a code (R41). -/
def Role.ofCode : Nat → Role
  | 0 => .any
  | 1 => .load
  | 2 => .store
  | _ => .vec

/-- A wave (R21). -/
structure Wave where
  arch : Arch := {}
  /-- The region's checkpoint (R157). -/
  entry : Arch := {}
  gear : Gear := .fast
  mode : WaveMode := .run
  /-- Packets completed since region entry (R153). -/
  pkts : Nat := 0
  held : List Held := []
  shadows : List Shadow := []
  /-- The store signature that the region's stores make (R272). -/
  sig : B64 := 0
  /-- Of a P2 wave, the stores and the signature that stood at region entry: those of words chained to the cut (R154, R272). -/
  heldIn : List Held := []
  sigIn : B64 := 0
  /-- Signature mismatches and poison met in this region (R272). -/
  mism : Nat := 0
  poisonAt : Option Nat := none
  /-- The first fault of the region (R278). -/
  first : Option FaultInfo := none
  seen : Nat := 0
  pend : Nat := 0
  slot : Nat := 0
  slice : Nat := 0
  age : Nat := 0
  role : Role := .any
  flex : Bool := false
  mark : Bool := false
  /-- The VEC (or only) entry and the LOAD entry (R43). -/
  entryPc : B32 := 0
  loadPc : B32 := 0
  /-- The wait parities WP (R202). -/
  wp : B16 := 0
  batches : List BatchCls := []
  waits : List Waiting := []
  /-- The liveness map of PRE: vector groups and range words (R158). -/
  live : Option (B16 × B32 × B32) := none
  /-- Where the last bundle's fibres fell through, when the group there reads a latch (R66). -/
  forced : Option Pc := none
  /-- A packet has completed and no latch read is in reach: an implicit cut may be taken (R66, R153). -/
  bound : Bool := false
  /-- The open region holds a cut word whose checks failed, alone: the fibres that stand at it (R279). -/
  cutLanes : Option (List Nat) := none
  /-- The cut before which the region has committed and which has yet to take effect: that commit is not repeated (R279). -/
  cutDone : Option Pc := none
  /-- The mailbox asks for a stop at the next cut (R276). -/
  stopReq : Bool := false
  /-- The wave stands released from a completed BAR and has not issued since (R34). -/
  atPhase : Bool := false
  /-- The carry mask of the last BAR that completed (R309, R312). -/
  phaseMask : Nat := 0
  /-- The number of the open region and the signatures published for a twin (R272). -/
  epoch : Nat := 0
  sigs : List (Nat × B64) := []
  /-- Flags of finished engine operations that the next cut delivers (R112). -/
  engFl : Nat := 0
  /-- What the wave's next group waits for, where it has been tried and could not take effect. -/
  hold : Option Hold := none
  /-- What the launch pool has decided for the wave's blocking LAUNCH or WAITCH, which is tried again (R295). -/
  verdict : Option Bool := none
  /-- The wave stops again after one slow-gear step (HANDLER.STEP, R274). -/
  single : Bool := false
  /-- A descheduled wave that its block's stop has met: it stands stopped once it is back on the core (R34, R159). -/
  stopAs : Option StopWhy := none
deriving DecidableEq, Repr

/-- A numbered barrier (R202). -/
structure NBar where
  expect : Nat := 0
  remain : Nat := 0
  phase : Bool := false
deriving DecidableEq, Repr

/-- A ring slot that is not EMPTY (R204). -/
inductive SlotSt where
  | held
  | pubw (bar : Nat) (phase : Bool)
  | full (err : Bool)
  | taken
deriving DecidableEq, Repr

/-- A stage ring (R203, R204). Home slot i has key i, pool slot j key 64 + j. -/
structure Ring where
  base : Nat := 0
  size : Nat := 0
  slots : Nat := 0
  lend : Nat := 0
  acq : Nat := 0
  phase : Nat := 0
  st : Tab SlotSt := []
  queue : List Nat := []
deriving DecidableEq, Repr

/-- The lend pool (R203). -/
structure Pool where
  base : Nat := 0
  size : Nat := 0
  count : Nat := 0
deriving DecidableEq, Repr

/-- An accumulator tile (R212): element (m, n) at key 384m + n. -/
structure Tile where
  a : Tab B64 := []
  q : BitVec 10 := 0
  rinv : BitVec 16 := 0
  cinv : BitVec 384 := 0
deriving DecidableEq, Repr

/-- The states of the sequencer (R214). -/
inductive SeqSt where
  | idle | running | waiting (nb : Nat) | faulted
deriving DecidableEq, Repr

/-- An array operation under way: its word, the descriptors it captured, and the next K block (R214, R226). -/
structure ArrOp where
  word : B64
  da : B64
  db : B64
  kb : Nat := 0
  /-- The WPOS of its word, which its fault record names (R224, R369). -/
  pos : B32 := 0
deriving DecidableEq, Repr

/-- What an EPI has still to land, a 16-byte part at a time (space, address, byte, poison), and the flags of its work (R171). -/
structure EpiLand where
  sp : List (List (Nat × Nat × Byte × Bool)) := []
  fl : Nat := 0
deriving DecidableEq, Repr

/-- The uniform matrix sequencer of a block (R214). -/
structure Seqr where
  use : Bool := false
  m : Tab B64 := []
  sa : B64 := 0
  wpos : B32 := 0
  sp : B16 := 0
  st : SeqSt := .idle
  /-- The barrier that an MWAIT waits for has flipped (R202). -/
  woken : Bool := false
  flagWave : Nat := 0
  flags : Nat := 0
  mma : Option ArrOp := none
  epi : Option ArrOp := none
  /-- What the EPI under way has still to land, once it has worked its output out (R171, R220). -/
  land : Option EpiLand := none
  asleep : Option Nat := none
  frec : Option FaultInfo := none
deriving DecidableEq, Repr

/-- Why a block is pre-empted (R307), or stopped as for a pre-emption: for a rebase of its partition's logical times,
which saves nothing (R251). -/
inductive AskWhy where
  | launch | savec | slice | pool | rebase
deriving DecidableEq, Repr

/-- A pending pre-emption of a block (R308, R309): why, the NCLK count at which its grace ends, and the run of pool chunks
that is reserved; no chunk for a save area. -/
structure Preempt where
  why : AskWhy
  deadline : Nat := 0
  chunk : Nat := 0
  chunks : Nat := 0
  /-- Every wave has stopped: the sequencer is stopped and the queued copies are suspended (R310). -/
  closed : Bool := false
deriving DecidableEq, Repr

/-- A block (R21). A handler run (R274) is a block of one wave in wave slot 63, marked by `handler`. -/
structure Block where
  part : Nat := 0
  launch : B32 := 0
  pt : Nat × Nat × Nat := (0, 0, 0)
  lin : Nat := 0
  gang : Nat := 0
  gangSize : Nat := 1
  rank : Nat := 0
  core : Nat := 0
  codeBase : Nat := 0
  w : Nat := 8
  det : Bool := false
  plevel : Nat := 0
  weight : Nat := 0
  prio : Nat := 0
  eff : Nat := 0
  waves : List Wave := []
  cursor : Nat := 0
  nb : List NBar := []
  rings : List Ring := []
  pool : Pool := {}
  tiles : List Tile := []
  seqr : Seqr := {}
  /-- The DET baton's holder (R45); 16 while no wave of the block holds it, because none was ready when it passed. -/
  baton : Nat := 0
  /-- FLEX watching (R43): ring, T, T2, Wn, and the counts below and above. -/
  watch : Option (Nat × Nat × Nat × Nat) := none
  low : Nat := 0
  high : Nat := 0
  /-- A pre-emption that has been asked for and for which room is not yet reserved, with the end of its grace; and the
  pending one (R307, R308). -/
  ask : Option (AskWhy × Nat) := none
  pre : Option Preempt := none
  killed : Bool := false
  /-- A record waits to be written, after which the block is killed (R267, R270, R273). -/
  doomed : Bool := false
  /-- The twin of a P2 block, whether this is the primary, and the values forwarded to the twin, each with its wave and
  number (R272). -/
  twin : Option Nat := none
  primary : Bool := true
  fwd : List (Nat × Nat × List B64) := []
  /-- The frontier point is fired, and its launch (R303). -/
  frontier : Bool := false
  handler : Bool := false
deriving DecidableEq, Repr

/-- What a way of the local array holds (R162): a pinned line of a block's space, or an L1 copy of a global line with its
lease (R248, R250) and the dirty bytes of LOCAL stores (R262). -/
inductive LineSt where
  | pinned (blk space ix : Nat)
  | copy (part va pa : Nat) (cls : Cls) (wts rts : Nat) (dirty : List Nat)
deriving DecidableEq, Repr

/-- One way (R162): bytes that are not zero at their offset, the sectors that are poisoned (R272), and of a copy the format of
the page under which it was filled (R237, R239). -/
structure Line where
  st : LineSt
  data : Tab Byte := []
  poison : List Nat := []
  fmt : Nat := 0
deriving DecidableEq, Repr

/-- The states of a copy (R188). -/
inductive CopySt where
  | queued | running | done | faulted | suspended | batch (n : Nat)
deriving DecidableEq, Repr

/-- STATE of CPYQ (R188). -/
def CopySt.code : CopySt → Nat
  | .queued => 1 | .running => 2 | .done => 3 | .faulted => 4 | .suspended => 5 | .batch _ => 6

/-- A tensor descriptor (R181). -/
structure TDesc where
  gbase : Nat := 0
  ext : List Nat := []
  str : List Int := []
  box : List Nat := []
  fill : Nat := 0
  scloff : Nat := 0
  qsrc : Nat := 0
  page : Nat := 0
  esz : Nat := 0
deriving DecidableEq, Repr

/-- A transfer record whose bytes are being moved (R187): its VA, NEXT, SRC, DST, LEN and the codes of its spaces. -/
structure XRec where
  va : Nat
  next : Nat
  src : Nat
  dst : Nat
  len : Nat
  srcK : Nat
  dstK : Nat
deriving DecidableEq, Repr

/-- Bytes that a copy writes to global memory, in one 16-byte part: VA, PA, class, each byte with the poison of the sector it
came from (R190), and whether the copy writes the whole sector without poison (R272). -/
structure GWrite where
  va : Nat
  pa : Nat
  cls : Cls
  data : List (Byte × Bool)
  whole : Bool := false
deriving DecidableEq, Repr

/-- What is left of an engine write that is landing (R171, R195), a 16-byte part at a time: its bytes of spaces (space, address,
byte, poison), then its global writes; the space sectors that it covers whole without poison; the bytes to be accounted and
whether one is poisoned; of a multicast, the blocks in which it has failed with the addresses (R191). -/
structure Landing where
  sp : List (List (Nat × Nat × Byte × Bool)) := []
  gl : List (List GWrite) := []
  whole : List (Nat × Nat) := []
  n : Nat := 0
  poison : Bool := false
  lost : List (Nat × Nat) := []
deriving DecidableEq, Repr

/-- Bytes of an engine write that wait for the rest of their destination sectors (R171, R195): of spaces, at key
4 × (address / 128) + space, then by the place in the sector; of global memory, the writes of each physical sector by their
physical address; and the bytes that are to be accounted once these have landed. -/
structure Carry where
  sp : Tab (Tab (Byte × Bool)) := []
  gl : Tab (Tab GWrite) := []
  n : Nat := 0
deriving DecidableEq, Repr

/-- How far a row of a CPYBIN has come (R186): it has been counted at its bin and goes on to the overflow bin; where it is
placed; where its number is to be stored. -/
structure BinRow where
  spilt : Bool := false
  va : Option Nat := none
  list : Option Nat := none
deriving DecidableEq, Repr

/-- A copy in a slot of the copy engine (R178, R192). -/
structure Copy where
  seq : Nat
  blk : Nat
  wave : Nat
  part : Nat
  det : Bool
  st : CopySt
  pc : Pc
  lane : Nat := 0
  wslot : Nat
  word : B32
  fn : Nat
  cls : Nat
  bseq : Nat
  a : List B64
  b : List B64
  ext : BitVec 24
  /-- The descriptor, once read, and the element width that CPYT fixed (R185); of a COLL, the bytes of an element. -/
  desc : Option TDesc := none
  width : Nat := 0
  /-- The list that CPYG and CPYBIN index by, once read (R183, R186). -/
  idx : Option (List Nat) := none
  /-- The next unit in accounting order, how many there are (of a COLL, its DST elements, and all of them once it is
  over), the units to be replayed, the items of a unit that are still to be moved where they are not all, and the items
  owed: unit, item, fault (R189, R280). -/
  unit : Nat := 0
  units : Nat := 0
  todo : List Nat := []
  left : Tab (List Nat) := []
  owed : List (Nat × Nat × FaultInfo) := []
  bytes : Nat := 0
  /-- The bytes that are landing, and those that wait for the rest of their sectors. -/
  land : Option Landing := none
  carry : Carry := {}
  /-- The rows of a CPYBIN that have been counted at a bin (R186). -/
  bins : Tab BinRow := []
  /-- The next transfer record of a chain, none at its end, and the one that is under way (R187). -/
  chain : Option Nat := none
  xrec : Option XRec := none
  /-- The request of a RATOM: its port and tag; the number of a COLL's collective. -/
  key : Nat := 0
  detached : Bool := false
  /-- The other blocks of the gang in which a CPYM is detached (R191, R201). -/
  detIn : List Nat := []
  poison : Bool := false
  /-- The gang's blocks in which a CPYM has failed (R191). -/
  failedDst : List Nat := []
  /-- A CPYBIN has dropped a row (R186, R188). -/
  rowDropped : Bool := false
  /-- The block was killed: space accesses are dropped (R273). -/
  dropped : Bool := false
  ts : Nat := 0
  /-- The fault with which it ends, and the byte offset of the first failing sector (R189). -/
  fault : Option FaultInfo := none
  failOff : Nat := 0
  flags : Nat := 0
deriving DecidableEq, Repr

/-- A committed store on its way to its home, or into the core's L1 for a LOCAL line (R154, R246, R262). -/
structure Req where
  part : Nat
  va : Nat
  pa : Nat
  cls : Cls
  data : List Byte
  blk : Nat
  wave : Nat
  /-- The bytes still stand in the wave's own reservation (R156). -/
  own : Bool := false
  /-- The sectors that its store word writes whole with it (R272). -/
  whole : List Nat := []
deriving DecidableEq, Repr

/-- An entry of an operand log (R266). -/
structure OpLog where
  blk : Nat
  wave : Nat
  pc : Pc
  word : B32
  ext : Option (BitVec 24)
  opa : List B64
  opb : List B64
deriving DecidableEq, Repr

/-- A stopped wave that waits for a handler run on its core (R274): the block, the wave, the record's queue index and its
first 64 bytes. -/
structure HPend where
  blk : Nat
  wave : Nat
  index : Nat
  entry : List Byte
  code : Nat := 0
deriving DecidableEq, Repr

/-- A logical core (R8, R21). -/
structure CoreSt where
  /-- The logical time of each partition (R248). -/
  pts : Tab Nat := []
  /-- The CCLK count (R92). -/
  cycle : Nat := 0
  tick : Nat := 64
  /-- The local array: way w of set s at key 16s + w (R162), and the pseudo-LRU tree of each set (R163). -/
  lines : Tab Line := []
  plru : Tab Nat := []
  /-- The copy slots (R178) and the core's start count. -/
  copies : Tab Copy := []
  starts : Nat := 0
  /-- Committed stores not yet applied. -/
  outbox : List Req := []
  /-- CPY_LATE (R198), PF_DROP (R241), VANISH_CNT (R270). -/
  cpyLate : Nat := 0
  pfDrop : Nat := 0
  vanishCnt : Nat := 0
  /-- HSAVE0 to HSAVE7 and TGT (R92, R95). -/
  hsave : Tab B64 := []
  tgt : B64 := 0
  hpend : List HPend := []
  /-- The block that is the handler run, and the wave it serves. -/
  hrun : Option (Nat × HPend) := none
  /-- The operand log of each issue slice (R266). -/
  oplog : Tab (List OpLog) := []
  /-- CORE_BUDGET (R39). -/
  budget : B32 := 0x30
deriving DecidableEq, Repr

end Sys2Proof.Machine
end

