-- ==== Sys2Proof/Machine/State.lean ====
section
/-!
DEFINITION. The whole state of the HX-740 as plain data, the reasons for which a step can stop, and the state after reset
(R352).
-/

namespace Sys2Proof.Machine

/-- Why a machine stops: nothing that the spec describes stops the whole machine, so there is no reason. -/
inductive Fault where
deriving DecidableEq, Repr

/-- Why an instruction is not carried out. -/
inductive Refusal where
  /-- The instruction has no meaning yet: raised by `exec`'s arms only. Safe: nothing is claimed of it. -/
  | notModelled (mnemonic : String)
deriving DecidableEq, Repr

/-- The launch record's fields (R288), with those of its resource block. -/
structure LaunchRec where
  code : Nat := 0
  mstream : Nat := 0
  arg : B64 := 0
  event : Nat := 0
  ext : Nat × Nat × Nat := (1, 1, 1)
  entry : B32 := 0
  stamp : B32 := 0
  lentry : B32 := 0
  res : Nat := 0
  waves : Nat := 1
  gang : Nat := 1
  w : Nat := 8
  tiles : Nat := 0
  lines : Nat × Nat × Nat := (0, 0, 0)
  energy : Nat := 0
  prio : Nat := 0
  plevel : Nat := 0
  det : Bool := false
  sweep : Nat := 0
  ndep : Nat := 0
  deps : List (Int × Int × Int) := []
  roles : List Role := []
  flex : List Bool := []
  wring : Nat := 0
  t : Nat := 0
  t2 : Nat := 0
  wn : Nat := 0
  nbars : List Nat := []
  rings : List Ring := []
  pool : Pool := {}
deriving DecidableEq, Repr

/-- The state of a frontier launch in the frontier unit (R301 to R306, R315): the record's address, the height map with IF
in bit 31, the ready queue, FT, and whether firing has stopped for SAVEC or for a kill. -/
structure Frontier where
  va : Nat
  h : Tab Nat := []
  ready : List Nat := []
  ft : Nat := 0
  stopped : Bool := false
  faulted : Bool := false
  /-- The 64 header bytes that FLAUNCH read, held until the record is written back (R305). -/
  head : List Byte := []
  /-- A write of the unit for the launch has faulted (R371). -/
  unwritable : Bool := false
  saveBase : Nat := 0
  saveSize : Nat := 0
  /-- Bytes of the save area that are reserved (R315), and whether a SAVEC is in progress. -/
  saveUsed : Nat := 0
  saving : Bool := false
  /-- Entries written so far: column, t, image address; and the end of the images. -/
  saved : List (Nat × Nat × Nat) := []
  saveEnd : Nat := 0
deriving DecidableEq, Repr

/-- A launch (R289 to R291). -/
structure Launch where
  queue : Nat
  lr : LaunchRec
  /-- Its place among the launches of the partition, the launch count at its acceptance, of which the identifier is the rest
  modulo 2^32 (R289). -/
  seq : Nat := 0
  /-- The next gang to place, whether a gang has been placed, and the cluster that took the last one. -/
  nextGang : Nat := 0
  placed : Bool := false
  lastCluster : Option Nat := none
  killed : Bool := false
  /-- It is a device-side child that holds a pool entry (R295). -/
  pooled : Bool := false
  prio : Nat := 0
  /-- PRIO.EFF (R297). -/
  eff : Nat := 0
  /-- Where the completion event lies, and whether in a page of 512 MiB (R232, R290). -/
  eventPa : Option Nat := none
  eventBig : Bool := false
  /-- The logical times at which it was accepted and at which its blocks have ended (R254, R290). -/
  cpts : Nat := 0
  relts : Nat := 0
  /-- No cluster has admitted its next gang: it waits (R291). -/
  waiting : Bool := false
  frontier : Option Frontier := none
deriving DecidableEq, Repr

/-- A place in a buffer of command records (R285): the buffer's VA, its length in bytes, the position of the next record. -/
structure CmdFrame where
  va : Nat
  len : Nat
  pos : Nat := 0
deriving DecidableEq, Repr

/-- A running LOOPC (R285): where its body begins (the buffers entered there, and HEAD), how many buffers deep its records are
counted, the records left in the pass, the records of a pass, the passes left with this one. -/
structure CmdLoop where
  frames : List CmdFrame
  head : B32
  depth : Nat
  left : Nat
  k : Nat
  passes : Nat
deriving DecidableEq, Repr

/-- What FLAUNCH reads of a frontier record (R304): its header, map and directory. -/
structure FrontRec where
  head : List Byte
  map : List Nat
  dir : List (Nat × Nat × Nat)
deriving DecidableEq, Repr

/-- What a queue waits for (R285, R287, R305, R315): of an event, also whether it lies in a page of 512 MiB (R232); the launches
of the queue up to the n-th of the partition; of an FLAUNCH that has passed its checks, what it has read (R288). -/
inductive QWait where
  | event (pa : Nat) (big : Bool) (target : B64)
  | drained (upTo : Nat)
  | save (launch : Nat)
  | frontierRoom (r : LaunchRec) (event : Option Nat) (va : Nat) (f : FrontRec)
deriving DecidableEq, Repr

/-- A launch queue (R283) with its command processor's place. -/
structure Queue where
  base : B64 := 0
  sz : Nat := 0
  prio : Nat := 0
  fault : Bool := false
  run : Bool := false
  tail : B32 := 0
  head : B32 := 0
  res : B64 := 0
  qfault : B64 := 0
  frames : List CmdFrame := []
  /-- Records still to skip (R285). -/
  skip : Nat := 0
  loop : Option CmdLoop := none
  wait : Option QWait := none
  /-- The record that waits. -/
  pend : Option Instr := none
  /-- 16-byte parts fetched ahead (R287), by VA / 16: 8 bytes of one of which only the first word is published. -/
  ahead : Tab (List Byte) := []
  /-- The parts of which a word has been read since they were fetched: they are seen so from then on (R287). -/
  fixed : List Nat := []
deriving DecidableEq, Repr

/-- Who sleeps on a fault batch (R268). -/
inductive Sleeper where
  | wave (blk wave : Nat)
  | copy (core slot : Nat)
  | sequencer (blk : Nat)
deriving DecidableEq, Repr

/-- An outstanding fault batch: its pages and its sleepers. -/
structure BatchRec where
  pages : List Nat
  who : List Sleeper
deriving DecidableEq, Repr

/-- A fault record that waits to be written (R267): its bytes, the stopped wave that a handler run serves next, and the block
that is killed next. -/
structure RecWait where
  data : List Byte
  handler : Option (Nat × HPend) := none
  kills : Option Nat := none
deriving DecidableEq, Repr

/-- A saved block (R308, R310): the number it had, its launch, gang, rank and point, whether it is the primary of a P2 pair,
its chunks in the save pool (none for a save area), its image's address (a PA in the pool, a VA in a save area), why it was
saved, the waves that wait for an entry of the launch pool with their places and, of one at a WAITCH, its child, what the pool
has decided for some of them (R295), and of a P2 pair the values forwarded and how many each wave has forwarded or
taken (R272). In a save area the image of a twin stands after that of its primary, whose address both have. -/
structure SavedImg where
  blk : Nat
  launch : B32
  gang : Nat
  rank : Nat
  lin : Nat
  primary : Bool := true
  chunk : Nat := 0
  chunks : Nat := 0
  addr : Nat
  why : AskWhy
  waiters : List (Nat × Nat × Option B32) := []
  verdicts : List (Nat × Bool) := []
  fwd : List (Nat × Nat × List B64) := []
  fseqs : List Nat := []
deriving DecidableEq, Repr

/-- A partition: the registers of its interface block (R319) and the state behind them (R320). -/
structure Part where
  tableRoot : B64 := 0
  tlbInv : B64 := 0
  fqBase : B64 := 0
  fqEn : Bool := false
  fqLog2 : Nat := 6
  fqTail : B32 := 0
  fqHead : B32 := 0
  handler : B64 := 0
  /-- CTX.STATE and CTX.RESET (R274). -/
  stopped : Bool := false
  ctxReset : Bool := false
  mbox : B64 := 0
  preempt : B64 := 0x01000000
  savePool : B64 := 0
  rwin : Tab B64 := []
  queues : Tab Queue := []
  /-- The launch count (R289) and the live launches. -/
  count : B64 := 0
  /-- The logical times of the command processor and of the launches that have completed (R254, R290). -/
  cpts : Nat := 0
  relts : Nat := 0
  /-- The latest wts that the partition's parties on the hub dies have read since their last acquire (R254). -/
  cseen : Nat := 0
  launches : Tab Launch := []
  /-- The queue of each priority that was last dealt to in round robin (R291). -/
  lastQueue : Tab Nat := []
  batchNo : Nat := 0
  batches : Tab BatchRec := []
  recSeq : Nat := 0
  recWait : List RecWait := []
  saved : List SavedImg := []
  /-- Reserved runs of save-pool chunks: first and count (R308). -/
  chunks : List (Nat × Nat) := []
  /-- The blocks named at the last PREEMPT GO (R307). -/
  busy : List Nat := []
  /-- Since when the pool has been full with no resident entry (R295). -/
  fullSince : Option Nat := none
  /-- Breakpoints of the monitor: packet VA and the word it replaced (R276). -/
  bkpts : Tab B32 := []
deriving DecidableEq, Repr

/-- A cluster TLB entry (R239): partition, page VA, whether 512 MiB, the leaf entry, and whether it is unreferenced. -/
structure TlbEnt where
  part : Nat
  va : Nat
  big : Bool
  leaf : B64
  entPa : Nat
  unref : Bool := false
deriving DecidableEq, Repr

/-- A physical cluster: CLA and CLM (R321), its TLB, the partition served in the present slice and when it ends. -/
structure Cluster where
  cla : B64 := 0x3E800000000
  clm : B64 := 0
  tlb : List TlbEnt := []
  cur : Option Nat := none
  until_ : Nat := 0
deriving DecidableEq, Repr

/-- A gate's entry (R322) with its queued GSIGs and waiters held by waves. -/
structure Gate where
  depth : Nat := 0
  rate : Nat := 0
  st : Nat := 0
  sat : Bool := false
  owner : Nat := 0
  sig : B64 := 0
  wmask : B64 := 0
  count : B64 := 0
  ts : Nat := 0
  tokens : B32 := 0
  waiters : Nat := 0
  refillAt : Nat := 1600
  /-- GCTL with RATE, DEPTH and OWNER, SIGMASK, WAITMASK written since the entry became FREE (R333). -/
  wroteCtl : Bool := false
  wroteSig : Bool := false
  wroteWait : Bool := false
deriving DecidableEq, Repr

/-- A gate operation under way (R331): OP, GATE and PA as they stood at the write of GO. -/
structure Mig where
  op : Nat
  gate : Nat
  pa : Nat
deriving DecidableEq, Repr

/-- One end of a UCIe module or a link port (R336 to R339). -/
structure LinkEnd where
  next : Nat := 0
  replay : List (Nat × List Byte) := []
  resend : List (List Byte) := []
  expect : Nat := 0
  nakOut : Bool := false
  nakDue : Bool := false
  ready : List Msg := []
  /-- Flits put on the link, oldest first. -/
  wire : List (List Byte) := []
  rcvd : List Msg := []
deriving DecidableEq, Repr

/-- A UCIe module or link port: its counters and state (R338, R339). -/
structure LinkSt where
  crcErr : Nat := 0
  retrains : Nat := 0
  st : Nat := 0
  half : Bool := false
  upper : Bool := false
  peer : Byte := 0
  fails : List Nat := []
  attempts : Nat := 0
deriving DecidableEq, Repr

/-- A partial sum (R343): the sum of the contributions merged so far (an integer sum where the format is an integer), how many
members' contributions they are, and whether one was poisoned. -/
structure AbCell where
  x : Xa := {}
  got : Nat := 0
  poison : Bool := false
deriving DecidableEq, Repr

/-- An abacus unit (R343): its open cells by collective number and element index, the contributions that it has passed on
unmerged, those of its messages that wait to be sent over its port (R258), and XFULL_CNT. -/
structure Abacus where
  cells : Tab AbCell := []
  passed : Tab Nat := []
  out : List Msg := []
  xfull : Nat := 0
deriving DecidableEq, Repr

/-- The fields of a COLL in which the members agree (R346). -/
structure CollKey where
  op : Nat := 0
  fmt : Nat := 0
  count : Nat := 1
  root : Nat := 0
deriving DecidableEq, Repr

/-- A member's part of a collective (R345 to R347): member index, the core, the copy slot, SRC and DST, the logical time of its
start. -/
structure CollPart where
  member : Nat
  core : Nat
  slot : Nat
  src : Nat
  dst : Nat
  ts : Nat := 0
deriving DecidableEq, Repr

/-- An element as it goes to its takers (R344, R346): its bits, the flags of its rounding, its poison. -/
structure CollElem where
  v : Nat := 0
  fl : Nat := 0
  poison : Bool := false
deriving DecidableEq, Repr

/-- A collective of a group (R345 to R347): its group and number; the fields in which the members agree, once one is known; the
members of this device that have issued it, and all members that are known to have. -/
structure Coll where
  group : Nat
  num : Nat
  known : Bool := false
  key : CollKey := {}
  parts : List CollPart := []
  started : List Nat := []
  /-- The fault with which it has ended (R339, R346). -/
  fault : Option FaultInfo := none
  /-- Records that have come before the key was known: the unit and the message. -/
  early : List (Nat × Msg) := []
  /-- The next element to contribute, those passed over for a page that is not present, the next to land, those passed over. -/
  sent : Nat := 0
  lateSent : List Nat := []
  next : Nat := 0
  lateLand : List Nat := []
  /-- Sums at the final reducers for which these had no free cell; elements from other devices; results that wait for the
  rest of their 16-byte unit on the way to other devices. -/
  sums : Tab AbCell := []
  elems : Tab CollElem := []
  out : List (Nat × CollElem) := []
deriving DecidableEq, Repr

/-- A tag in a home's window (R258): the value and ts that its request returned, and its partition. -/
structure TagEnt where
  tag : Nat
  v : List Byte
  ts : Nat
  part : Nat
deriving DecidableEq, Repr

/-- The requests of one source to one home slice (R258): the next tag, those unacknowledged, and the home's window of the
last 64 write tags. -/
structure TagWin where
  next : Nat := 0
  /-- Tag, the NCLK count at which it was last sent, and the request. -/
  unacked : List (Nat × Nat × Msg) := []
  window : List TagEnt := []
deriving DecidableEq, Repr

/-- The metadata of a sector (R348): poison, where CHECK was made, the bits in which CHECK differs from the check word of the
data, and whether its code meets an error that it does not correct. -/
structure SecMeta where
  poison : Bool := false
  origin : Nat := 3
  syn : B32 := 0
  ecc : Bool := false
deriving DecidableEq, Repr

/-- CHECK fails, or ECC finds an error that it does not correct (R349). -/
def SecMeta.bad (m : SecMeta) : Bool := m.syn != 0 || m.ecc

/-- An error of the store that nothing corrects (R272, R349): in a sector's data or check word, or in what a wave holds. -/
inductive Upset where
  | check (sector : Nat) (syn : B32)
  | ecc (sector : Nat)
  | register (blk wave : Nat)
  | held (blk wave : Nat)
  | shadow (blk wave : Nat)
  | checkpoint (blk wave : Nat)
deriving DecidableEq, Repr

/-- What an issue slice is issuing (R28): one chain group of one bundle. `old` is the wave's registers as they stood before
the group (R54); `cur` is the wave as it changes. -/
structure Issue where
  core : Nat := 0
  blk : Nat := 0
  wv : Nat := 0
  pc : Pc := {}
  /-- The bundle's slots, LIVE and helpers, in slot order; and the LIVE slots. -/
  lanes : List Nat := []
  live : List Nat := []
  /-- Slots filled by synthetic helpers for a quad, with the slot they read (R26). -/
  synth : List (Nat × Nat) := []
  old : Arch := {}
  cur : Wave := {}
  /-- Slots in which a scout's word has an unknown source: the word takes no effect there (R265). -/
  skip : List Nat := []
  /-- The guard that holds for the words that follow (R67). -/
  guard : Option (Nat × Bool) := none
  /-- The word being executed, its slot and its EXT, for records. -/
  wslot : Nat := 0
  word : B32 := 0
  extw : B32 := 0
  /-- Flags set by the group's words and the value of an MTS to FLAGS (R93). -/
  fl : Nat := 0
  mts : Option B64 := none
  /-- Taken branches: slot and target (R51). -/
  taken : List (Nat × B32) := []
  /-- Slots that wait at a blocking word of the group. -/
  blocked : List Nat := []
  /-- The group holds a YIELD that takes effect (R152). -/
  yielded : Bool := false
  faults : List FaultInfo := []
  /-- The group holds a cut point (R153). -/
  cut : Bool := false
  /-- The wave runs as a scout (R265): its unknown sets grow in `cur`. -/
  scout : Bool := false
  /-- A retry: the group could not take effect now and stays where it is. -/
  held : Option Hold := none
  /-- A check of the fetch or of the decode failed: no word of the group runs (R55, R70). -/
  bad : Bool := false
  on : Bool := false
deriving DecidableEq, Repr

/-- The security engine (R354, R355). -/
structure Security where
  /-- The fuses: the SVN floor and the key digest. -/
  svnFloor : Nat := 0
  keyDigest : List Byte := []
  /-- The image that the ROM has read, the SVN of the running one, and the digest of its header and code. -/
  image : List Byte := []
  runSvn : Nat := 0
  fwDigest : List Byte := []
  bootCount : B32 := 0
  /-- The private identity key, derived from the fused device secret at every boot; nothing reads it (R355). -/
  identityKey : BitVec 384 := Config.identityKey Config.deviceSecret
  /-- IDE keys by stream (R334). -/
  ide : Tab (List Byte) := []
  /-- The last report. -/
  report : List Byte := []
deriving DecidableEq, Repr

/-- How a request of the host is completed (R277, R334, R353): with its data, with the status that asks to retry, or as
unsupported. -/
inductive HostStatus where
  | ok | retry | unsupported
deriving DecidableEq, Repr

/-- An answer to the host or the sideband: its data, its CXL poison (R349), its status. -/
structure Reply where
  data : List Byte := []
  poison : Bool := false
  status : HostStatus := .ok
deriving DecidableEq, Repr

/-- Power and thermal control (R358). -/
structure Power where
  limit : Nat := 0x640
  watts : Nat := 0
  steps : List Nat := [0, 0, 0, 0]
  /-- Consecutive windows below 95 % of LIMIT and below 100 °C, by die; and whether CCLK has stopped. -/
  calm : List Nat := [0, 0, 0, 0]
  cclkOff : Bool := false
deriving DecidableEq, Repr

/-- The whole machine. -/
structure State where
  /-- Device memory and host memory by physical address (R11, R13). -/
  mem : Memory := []
  /-- wts and rts of each 1024-byte home line (R248). -/
  lease : Tab (Nat × Nat) := []
  meta_ : Tab SecMeta := []
  cores : Tab CoreSt := []
  blocks : Tab Block := []
  parts : Tab Part := []
  clusters : Tab Cluster := []
  gates : Tab Gate := []
  gmigPa : B64 := 0
  /-- GMIG_CTL but for GO, which reads 1 while an operation is under way. -/
  gmigCtl : B64 := 0
  gmig : Option Mig := none
  devnum : Byte := 0
  cgrp : Tab B64 := []
  /-- CORE_EN_D0 to D3 (R15), LCORE_COUNT and LCORE_MAP (R18). -/
  coreEn : List B64 := []
  lcoreCount : Nat := 0
  lcoreMap : Tab B16 := []
  /-- UM0 to UM12 at keys 0 to 12, LP0 to LP11 at keys 32 to 43; ends at 2n and 2n + 1 for modules, at the port's key + 32
  for ports. -/
  links : Tab LinkSt := []
  ends : Tab LinkEnd := []
  abacus : Tab Abacus := []
  colls : List Coll := []
  collCount : Tab Nat := []
  tags : Tab TagWin := []
  /-- Outputs toward the host: interrupts, each a function and a vector (R334). -/
  msi : List (Nat × Nat) := []
  /-- Replies to the host and the sideband, oldest first. -/
  replies : List Reply := []
  hostts : Nat := 0
  e2eCnt : B64 := 0
  bootStat : B32 := 0
  fatal : B32 := 0
  viral : Bool := false
  /-- THE MODEL'S OWN: the step under way needs CXL.cache in the viral state (R277) or a UCIe module that is not up (R11, R338),
  so that it cannot take place now. -/
  noWay : Bool := false
  /-- Compute dies that are lost (R277). -/
  lost : List Nat := []
  cxlUp : Bool := false
  power : Power := {}
  sec : Security := {}
  /-- The hubs' NCLK count, a count of microseconds' worth of NCLK being 1,600. -/
  nclk : Nat := 0
  nextBlk : Nat := 0
  nextAge : Nat := 0
  nextOrder : Nat := 0
  /-- The queue whose record is being executed: partition and queue. -/
  cq : Nat × Nat := (0, 0)
  /-- The block whose sequencer executes a stream word. -/
  sq : Nat := 0
  issue : Issue := {}
  /-- THE MODEL'S OWN: how many free values have been taken (the spec leaves them open). -/
  free : Nat := 0
  /-- THE MODEL'S OWN: the moves that parties outside the cores make next, oldest first. -/
  agenda : List Instr := []
  /-- THE MODEL'S OWN: the errors that the memories suffer next (R272, R349), which no rule foresees. -/
  upsets : List Upset := []
  /-- THE MODEL'S OWN: of a round of due moves those that have yet to be made, and the steps that the round has taken (R48). -/
  round : List Move := []
  roundAge : Nat := 0
deriving DecidableEq, Repr

/-- The machine right after a cold reset (R352): every register at its Reset value, boot about to start (R353). The fuses
name every core slot enabled; other values the spec does not give are named in the assumption log. -/
def State.reset : State :=
  { coreEn := [0xFFFFFFFFF, 0xFFFFFFFFF, 0xFFFFFFFFF, 0xFFFFFFFFF], sec := { keyDigest := Config.fusedKeyDigest } }

end Sys2Proof.Machine
end

