-- ==== Sys2Proof/Machine/Dies.lean ====
section
/-!
DEFINITION. Where things stand (R8, R10, R11, R13): the dies, the modules that join them and the routes between them, the home,
slice and channel of an address, the source numbers of requesters (R258).
-/

namespace Sys2Proof.Machine

/-- The die numbers: CD0 to CD3 are 0 to 3, HD0 is 4, HD1 is 5. -/
def dieHD0 : Nat := 4
/-- HD1. -/
def dieHD1 : Nat := 5

/-- The dies that a UCIe module joins, that of its even end first (R10). -/
def umEnds (k : Nat) : Nat × Nat :=
  if k < 4 then (k, dieHD0) else if k < 8 then (k - 4, dieHD1) else if k < 12 then (k - 8, (k - 7) % 4) else (dieHD0, dieHD1)

/-- The die of a link port (R8). -/
def portDie (p : Nat) : Nat := if p < 6 then dieHD0 else dieHD1
/-- The die of a partition's command processor (R8). -/
def cpDie (p : Nat) : Nat := if p < 32 then dieHD0 else dieHD1
/-- The die of a gate (R8). -/
def gateDie (g : Nat) : Nat := if g < 2048 then dieHD0 else dieHD1

/-- The die at an end of a module, or of a link port (ends 64 to 75). -/
def endDie (e : Nat) : Nat := if e < 26 then (if e % 2 = 0 then (umEnds (e / 2)).1 else (umEnds (e / 2)).2) else portDie (e - 64)

/-- The modules that a message from one die to another passes (R11): opposite compute dies go in increasing die number. -/
def route (a b : Nat) : List Nat :=
  if a = b then []
  else if a < 4 ∧ b < 4 then
    if (a + 1) % 4 = b then [8 + a] else if (b + 1) % 4 = a then [8 + b] else [8 + a, 8 + (a + 1) % 4]
  else if a < 4 then [if b = dieHD0 then a else 4 + a]
  else if b < 4 then [if a = dieHD0 then b else 4 + b]
  else [12]

/-- The end of a module at a die. -/
def endAt (k die : Nat) : Nat := if (umEnds k).1 = die then 2 * k else 2 * k + 1

/-- The die at which an address is homed (R13): host memory at the CXL port on HD0. -/
def homeDie (pa : Nat) : Nat := if pa / 2 ^ 40 ≠ 0 then dieHD0 else bits pa 38 2

/-- The slice hash S within a die (R13). -/
def sliceHash (pa : Nat) : Nat :=
  bits pa 10 5 ^^^ bits pa 15 5 ^^^ bits pa 20 5 ^^^ bits pa 25 5 ^^^ bits pa 30 5 ^^^ bits pa 35 3

/-- The home slice number die × 32 + S of a device address (R13), or 128 for host memory. -/
def sliceOf (pa : Nat) : Nat := if pa / 2 ^ 40 ≠ 0 then 128 else homeDie pa * 32 + sliceHash pa

/-- The LPDDR-6 channel of a device address, counted 64 per die (R8, R13): 2S or 2S + 1 of its die by PA[9]. -/
def channelOf (pa : Nat) : Nat := 64 * homeDie pa + 2 * sliceHash pa + bits pa 9 1

/-! The source numbers (R258). A core's is its logical number; the spec gives no other. DESIGN CHOICE (log entry 105). -/

/-- The source number of a core's copy engine. -/
def engineSrc (c : Nat) : Nat := 0x100 + c
/-- The source number of a partition's command processor. -/
def cpSrc (p : Nat) : Nat := 0x200 + p
/-- The source number of a link port. -/
def portSrc (p : Nat) : Nat := 0x300 + p
/-! The abacus units (R343) are numbered: that of home slice s is s, of link port p 160 + p, of HD0 and HD1 176 and 177, of cluster k
192 + k. DESIGN CHOICE (log entry 106): the spec numbers none. -/

/-- The abacus unit of a cluster hub. -/
def hubUnit (k : Nat) : Nat := 192 + k
/-- The abacus unit of a hub die. -/
def dieUnit (d : Nat) : Nat := 172 + d
/-- The slice number under which requests over a link port are counted (R258), and the port's abacus unit. -/
def portSlice (p : Nat) : Nat := 160 + p
/-- The source number of an abacus unit. -/
def unitSrc (u : Nat) : Nat := 0x400 + u

/-- The die of an abacus unit. -/
def unitDie (u : Nat) : Nat :=
  if u < 128 then u / 32 else if u < 172 then portDie (u - 160) else if u < 192 then u - 172 else (u - 192) / 9

end Sys2Proof.Machine
end

