-- ==== Sys2Proof/Machine/Operands.lean ====
section
/-!
DEFINITION. Reading operands and writing results: the source fields (R62, R63, R77), the registers, predicates and latches
of a fibre (R22, R59, R64, R75).
-/

namespace Sys2Proof.Machine

namespace Arch

/-- A lane slot. -/
def fibre (a : Arch) (l : Nat) : Fibre := a.fib.getD l {}

/-- The registers with a lane slot changed. -/
def setFibre (a : Arch) (l : Nat) (f : Fibre) : Arch := { a with fib := a.fib.set l f }

/-- Vector register v(k) of a fibre's window (R22). -/
def readV (a : Arch) (l k : Nat) : Nat := (a.v.get 0 ((a.fibre l).wb + k)).toNat

/-- Writes v(k) of a fibre's window. -/
def writeV (a : Arch) (l k x : Nat) : Arch := { a with v := a.v.set 0 ((a.fibre l).wb + k) (BitVec.ofNat 32 x) }

/-- `n` registers from v(k) as one number, the low word in the lower register (R75). -/
def readVn (a : Arch) (l k : Nat) : Nat → Nat
  | 0 => 0
  | n + 1 => a.readV l k + 2 ^ 32 * readVn a l (k + 1) n

/-- Writes a number into `n` registers from v(k). -/
def writeVn (a : Arch) (l k : Nat) : Nat → Nat → Arch
  | 0, _ => a
  | n + 1, x => writeVn (a.writeV l k (x % 2 ^ 32)) l (k + 1) n (x / 2 ^ 32)

/-- Scalar s(k). -/
def readS (a : Arch) (k : Nat) : Nat := (a.sc.get 0 k).toNat

/-- Writes scalar s(k). -/
def writeS (a : Arch) (k x : Nat) : Arch := { a with sc := a.sc.set 0 k (BitVec.ofNat 64 x) }

/-- Predicate p(k) of a fibre; p0 reads 1 (R22). -/
def readP (a : Arch) (l k : Nat) : Bool := k == 0 || (a.fibre l).pred.getLsbD k

/-- Writes a predicate; a write to p0 is ignored (R22). -/
def writeP (a : Arch) (l k : Nat) (x : Bool) : Arch :=
  if k = 0 then a
  else
    let f := a.fibre l
    let m : B16 := 1#16 <<< k
    a.setFibre l { f with pred := if x then f.pred ||| m else f.pred &&& ~~~m }

/-- Latch l(k) of a slot: 0 when it is not valid, which no word that issues reads (R65). -/
def readL (a : Arch) (l k : Nat) : Nat :=
  match a.lat.find (4 * l + k) with
  | some e => e.v.toNat
  | none => 0

/-- Writes a latch entry (R64). -/
def writeL (a : Arch) (l k x : Nat) : Arch := { a with lat := a.lat.insert (4 * l + k) ⟨BitVec.ofNat 64 x, 0⟩ }

/-- Clears a latch entry's valid bit (R64). -/
def clearL (a : Arch) (l k : Nat) : Arch := { a with lat := a.lat.erase (4 * l + k) }

end Arch

/-- How an inline constant is read (R63). -/
inductive ConstKind where
  | int | flt (f : FFmt)
deriving DecidableEq, Repr

/-- The F32 patterns of the inline-constant table (R63). -/
def constF32 : List Nat :=
  [0x00000000, 0x3F800000, 0x40000000, 0x40800000, 0x41000000, 0x41800000, 0x3F000000, 0x3E800000,
   0x3E000000, 0xBF800000, 0xC0000000, 0xBF000000, 0x40400000, 0x41200000, 0x42FE0000, 0x437F0000,
   0x40490FDB, 0x40C90FDB, 0x3EA2F983, 0x402DF854, 0x3F317218, 0x3FB8AA3B, 0x3FB504F3, 0x3F3504F3,
   0x7F800000, 0xFF800000, 0x7FC00000, 0x7F7FFFFF, 0x00800000, 0x33800000, 0x3EAAAAAB, 0x40C00000]

/-- Entries 16 to 23 and 30 to 160 fraction bits (R63): pi, twopi, invpi, e, ln2, log2e, sqrt2, rsqrt2 and 1/3, each as
floor(value × 2^160). Those nine are rounded RNE from their exact value. -/
def constExact (i : Nat) : Nat :=
  match i with
  | 16 => 4591442807048218921384805199743311128454155024418
  | 17 => 9182885614096437842769610399486622256908310048836
  | 18 => 465210419836223419549075661095612074161719036620
  | 19 => 3972773343019735188473256715552615314379418048015
  | 20 => 1013035739299659071135698605846798551586536899366
  | 21 => 2108501164428393954197770173035669514763056903505
  | 22 => 2066875436943847413332748968013809022504194195829
  | 23 => 1033437718471923706666374484006904511252097097914
  | _ => 487167212443634306067894944238761006551977514325

/-- Inline constant `i` of the table in a format (R63). -/
def constFlt (f : FFmt) (i : Nat) : Nat :=
  let p := constF32.getD i 0
  if f = f32 then p
  else if (16 ≤ i ∧ i ≤ 23) ∨ i = 30 then (f.round .rne false (constExact i) (-160) true).v
  else match i with
    | 24 => f.infPat false
    | 25 => f.infPat true
    | 26 => f.qnan
    | 27 => f.maxPat false
    | 28 => 2 ^ f.fb
    | _ => (f.write .rne (f32.read p)).v

/-- An inline constant read as 32 bits or as 64 (R63): field 0xE0 + i. -/
def inlineConst (k : ConstKind) (w i : Nat) : Nat :=
  match k with
  | .int => wrap w ((i : Int) - 16)
  | .flt f => if f.width = 16 then constFlt f i * 65537 else constFlt f i

/-- A 32-bit source of a fibre (R62, R77). -/
def src32 (k : ConstKind) (a : Arch) (l : Nat) (b : Byte) : Nat :=
  let x := b.toNat
  if x < 0x80 then a.readV l x
  else if x < 0xC0 then a.readS (x - 0x80) % 2 ^ 32
  else if x < 0xC4 then a.readL l (x - 0xC0) % 2 ^ 32
  else if x < 0xE0 then 0
  else inlineConst k 32 (x - 0xE0)

/-- A 64-bit source of a fibre (R62, R77). -/
def src64 (k : ConstKind) (a : Arch) (l : Nat) (b : Byte) : Nat :=
  let x := b.toNat
  if x < 0x80 then a.readVn l x 2
  else if x < 0xC0 then a.readS (x - 0x80)
  else if x < 0xC4 then a.readL l (x - 0xC0)
  else if x < 0xE0 then 0
  else inlineConst k 64 (x - 0xE0)

/-- A source of an S-pipe word (R77): 64 bits, a vector register zero-extended, all read in fibre `l`, the lowest slot of
the bundle. -/
def ssrc (a : Arch) (l : Nat) (b : Byte) : Nat :=
  if b.toNat < 0x80 then a.readV l b.toNat else src64 .int a l b

namespace Issue

/-- The bundle's lowest slot. -/
def low (e : Issue) : Nat := e.lanes.headD 0

/-- The fibres of the bundle in which the present word takes effect (R67), helpers included. -/
def eff (e : Issue) : List Nat :=
  e.lanes.filter fun l =>
    (match e.guard with
     | none => true
     | some (p, inv) => e.old.readP l p != inv) && !e.skip.contains l

/-- The LIVE fibres in which the present word takes effect. -/
def effLive (e : Issue) : List Nat := e.eff.filter fun l => e.live.contains l

/-- The acting fibre of a once-per-bundle word (R90, R178, R200): the lowest-slot LIVE fibre in which it takes effect. -/
def actor (e : Issue) : Option Nat := e.effLive.head?

/-- Changes the registers of the wave that issues. -/
def onArch (e : Issue) (f : Arch → Arch) : Issue := { e with cur := { e.cur with arch := f e.cur.arch } }

/-- ORs flags for FLAGS when the fibre is LIVE (R111). -/
def addFlags (e : Issue) (l fl : Nat) : Issue := if e.live.contains l then { e with fl := e.fl ||| fl } else e

/-- Clears latch `k` of every fibre of the bundle in which the word takes no effect (R64). -/
def clearLatch (e : Issue) (k : Nat) : Issue :=
  let eff := e.eff
  e.onArch fun a => (e.lanes.filter fun l => !eff.contains l).foldl (fun a l => a.clearL l k) a

/-- Clears the latch of each of a word's pipes in every fibre of the bundle in which its guard makes it take no effect (R64,
R67): l0 of V, l1 of X, l2 of M, l3 of S. A word that a scout skips is not cleared there (R265). -/
def clearPipes (e : Issue) (ps : List Nat) : Issue :=
  let out := e.lanes.filter fun l => !e.eff.contains l && !e.skip.contains l
  e.onArch fun a => out.foldl (fun a l => ps.foldl (fun a k => a.clearL l k) a) a

/-- Writes a result of `k` registers and the latch entry (R59, R64); only the latch when N = 1. -/
def putV (e : Issue) (n : Bit) (d k lt l x : Nat) : Issue :=
  e.onArch fun a => (if n = 1 then a else a.writeVn l d k x).writeL l lt x

/-- A V-pipe or X-pipe word (R76, R124): the result `f` gives in each fibre in which the word takes effect goes to `k`
registers from v(d) and to latch `lt`, and its flags to FLAGS. DESIGN CHOICE (log entry 139): where two words of a group write
one physical register, through the windows of different fibres, the value of the later word remains. -/
def mapV (e : Issue) (n : Bit) (d : BitVec 7) (k lt : Nat) (f : Nat → Res) : Issue :=
  e.eff.foldl (fun e' l => (e'.putV n d.toNat k lt l (f l).v).addFlags l (f l).fl) (e.clearLatch lt)

/-- A word that writes a predicate of each fibre in which it takes effect. -/
def mapP (e : Issue) (p : Nat) (f : Nat → Bool) : Issue :=
  e.eff.foldl (fun e' l => e'.onArch fun a => a.writeP l p (f l)) e

/-- An S-pipe word with a scalar result (R76, R87): written to s(d) unless N = 1, and to latch `lt` of every fibre in which
the word takes effect; nothing when it takes effect in no fibre (R67). -/
def putS (e : Issue) (n : Bit) (d : BitVec 7) (lt x : Nat) : Issue :=
  let eff := e.eff
  let e := e.clearLatch lt
  if eff.isEmpty then e
  else e.onArch fun a => eff.foldl (fun a l => a.writeL l lt x) (if n = 1 then a else a.writeS (d.toNat % 64) x)

/-- Writes a scalar result of a once-per-bundle member (R200). -/
def writeS (e : Issue) (b : Byte) (x : Nat) : Issue := e.onArch fun a => a.writeS (b.toNat % 64) x

/-- Writes a latch entry of every fibre in which the word takes effect (R64). -/
def putLatch (e : Issue) (lt x : Nat) : Issue :=
  let eff := e.eff
  (e.clearLatch lt).onArch fun a => eff.foldl (fun a l => a.writeL l lt x) a

/-- Raises a fault in a fibre (R264): it names the group's PC and the present word. -/
def fault (e : Issue) (f : FaultInfo) : Issue :=
  { e with faults := e.faults ++ [{ f with pc := e.pc, wslot := e.wslot, word := e.word, extw := e.extw }] }

/-- A 32-bit integer source of a fibre, as it stood before the group (R54). -/
def i32 (e : Issue) (b : Byte) (l : Nat) : Nat := src32 .int e.old l b
/-- A 64-bit integer source of a fibre. -/
def i64 (e : Issue) (b : Byte) (l : Nat) : Nat := src64 .int e.old l b
/-- An F32 source of a fibre. -/
def f32 (e : Issue) (b : Byte) (l : Nat) : Nat := src32 (.flt Machine.f32) e.old l b
/-- The 64-bit source of an S-pipe word. -/
def ss (e : Issue) (b : Byte) : Nat := ssrc e.old e.low b

end Issue

/-- Changes what the issue slice is issuing. -/
def State.onIssue (s : State) (f : Issue → Issue) : State := { s with issue := f s.issue }

end Sys2Proof.Machine
end

