-- ==== Sys2Proof/Machine/Ops.lean ====
section
/-!
DEFINITION. The named operations over the machine: its parts, the homes and their leases (R248 to R251), the L1 copies
(R163, R250, R262), the commit and rollback of a region (R154 to R157), and acquires and releases (R250).
-/

namespace Sys2Proof.Machine

/-- A transaction barrier (R196). -/
structure TBar where
  pending : Nat := 0
  remain : Nat := 0
  expect : Nat := 0
  phase : Bool := false
  err : Bool := false
  inv : Bool := false
  poison : Bool := false
  rsv : Nat := 0
deriving DecidableEq, Repr

/-- Reads the 16 bytes of a barrier (R196). -/
def TBar.of (x : Nat) : TBar :=
  { pending := bits x 0 32, remain := bits x 32 16, expect := bits x 48 16, phase := bitAt x 64, err := bitAt x 65
    inv := bitAt x 66, poison := bitAt x 67, rsv := bits x 68 60 }

/-- The 16 bytes of a barrier as a number (R196). -/
def TBar.word (b : TBar) : Nat :=
  b.pending + 2 ^ 32 * b.remain + 2 ^ 48 * b.expect + 2 ^ 64 * b2n b.phase + 2 ^ 65 * b2n b.err + 2 ^ 66 * b2n b.inv +
    2 ^ 67 * b2n b.poison + 2 ^ 68 * b.rsv

/-- The barrier is initialised (R196). -/
def TBar.ready (b : TBar) : Bool := b.expect != 0 && b.rsv == 0

/-- PENDING as I32 is at most zero (R198). -/
def TBar.counted (b : TBar) : Bool := decide (sext 32 b.pending ≤ 0)

/-- A phase that is done (R198): the barrier at the start of the next phase. -/
def TBar.next (b : TBar) : TBar :=
  { b with err := b.err || decide (sext 32 b.pending < 0), pending := 0, remain := b.expect, phase := !b.phase }

namespace State

/-! ### The parts of the machine -/

/-- A logical core. -/
def core (s : State) (n : Nat) : CoreSt := s.cores.get {} n
/-- Changes a logical core. -/
def onCore (s : State) (n : Nat) (f : CoreSt → CoreSt) : State := { s with cores := s.cores.insert n (f (s.core n)) }
/-- A partition. -/
def part (s : State) (p : Nat) : Part := s.parts.get {} p
/-- Changes a partition. -/
def onPart (s : State) (p : Nat) (f : Part → Part) : State := { s with parts := s.parts.insert p (f (s.part p)) }
/-- A resident block. -/
def blk? (s : State) (b : Nat) : Option Block := s.blocks.find b
/-- A block; a missing one reads as an empty block. -/
def blk (s : State) (b : Nat) : Block := (s.blk? b).getD {}
/-- Changes a resident block. -/
def onBlk (s : State) (b : Nat) (f : Block → Block) : State := { s with blocks := Tab.modify f s.blocks b }
/-- A physical cluster. -/
def cluster (s : State) (k : Nat) : Cluster := s.clusters.get {} k
/-- Changes a physical cluster. -/
def onCluster (s : State) (k : Nat) (f : Cluster → Cluster) : State :=
  { s with clusters := s.clusters.insert k (f (s.cluster k)) }
/-- A gate. -/
def gate (s : State) (g : Nat) : Gate := s.gates.get {} g
/-- Changes a gate. -/
def onGate (s : State) (g : Nat) (f : Gate → Gate) : State := { s with gates := s.gates.insert g (f (s.gate g)) }
/-- The die, cluster and core slot of a logical core (R18). -/
def slotOf (s : State) (n : Nat) : Nat × Nat × Nat :=
  let e := (s.lcoreMap.get 0 n).toNat
  (bits e 8 2, bits e 4 4, bits e 0 2)
/-- The physical cluster 9d + c of a logical core (R321). -/
def clusterOf (s : State) (n : Nat) : Nat := let (d, c, _) := s.slotOf n; 9 * d + c
/-- pts of a core for a partition (R248). -/
def pts (s : State) (c p : Nat) : Nat := (s.core c).pts.get 0 p
/-- Raises pts to at least `t`. -/
def raisePts (s : State) (c p t : Nat) : State := s.onCore c fun k => { k with pts := k.pts.set 0 p (max (k.pts.get 0 p) t) }
/-- Takes a free value's number. -/
def takeFree (s : State) : Nat × State := (s.free, { s with free := s.free + 1 })
/-- Takes the next place in issue order. -/
def takeOrder (s : State) : Nat × State := (s.nextOrder, { s with nextOrder := s.nextOrder + 1 })

/-- A wave of a resident block; the wave being issued is the one in `issue`. -/
def wave? (s : State) (b w : Nat) : Option Wave :=
  if s.issue.on && s.issue.blk == b && s.issue.wv == w then some s.issue.cur
  else match s.blk? b with
    | some k => k.waves[w]?
    | none => none

/-- Changes a wave, in `issue` when it is the one being issued. -/
def onWave (s : State) (b w : Nat) (f : Wave → Wave) : State :=
  if s.issue.on && s.issue.blk == b && s.issue.wv == w then { s with issue := { s.issue with cur := f s.issue.cur } }
  else s.onBlk b fun k => { k with waves := k.waves.modify w f }

/-- The block of the issuing wave. -/
def iblk (s : State) : Block := s.blk s.issue.blk
/-- The partition of the issuing wave. -/
def ipart (s : State) : Nat := s.iblk.part

/-- The host's requests are served (R277, R353): boot is complete, the port is up and the device is not viral. -/
def hostOpen (s : State) : Bool := s.cxlUp && s.bootStat.toNat % 16 == 6 && !s.viral

/-- How the port answers a request that it does not serve: in the viral state CXL.io is unsupported and other traffic stops
(R277); before boot is complete the requester is asked to retry, and after a failed stage there is no answer (R353). -/
def hostAnswer (s : State) (io : Bool) : List Reply :=
  if s.viral then (if io then [{ status := .unsupported }] else [])
  else if s.bootStat.toNat / 256 % 256 ≠ 0 then []
  else [{ status := .retry }]

/-- A request of the host by CXL.io, or by CXL.mem or CXL.cache: before boot is complete, and in the viral state, it
changes nothing but for its answer (R277, R353). -/
def byHost (s : State) (f : State → State) (io : Bool := true) : Host.Outcome State Fault Refusal :=
  .next (if s.hostOpen then f s else { s with replies := s.replies ++ s.hostAnswer io })

/-! ### Fault records -/

/-- The 64 bytes of a record's first entry (R271); bytes 22 and 23, SEQ, are filled when it is written. -/
def recordBytes (part : Nat) (precise hdl : Bool) (entries : Nat) (k : Block) (wslot lcore ltime : Nat) (f : FaultInfo) :
    List Byte :=
  toBytes 1 f.cls.code ++ toBytes 1 f.kind.code ++ toBytes 1 (part + 64 * b2n precise + 128 * b2n hdl) ++ toBytes 1 entries ++
  toBytes 4 k.launch.toNat ++ toBytes 2 k.pt.1 ++ toBytes 2 k.pt.2.1 ++ toBytes 2 k.pt.2.2 ++ toBytes 1 wslot ++
  toBytes 1 (f.lane + 32 * f.pc.sl) ++ toBytes 4 f.pc.ix.toNat ++ toBytes 1 lcore ++ toBytes 1 f.wslot ++ toBytes 2 0 ++
  toBytes 8 f.addr ++ toBytes 4 f.word.toNat ++ toBytes 4 f.extw.toNat ++ toBytes 8 f.opa.toNat ++ toBytes 8 f.opb.toNat ++
  toBytes 6 ltime ++ toBytes 2 f.code

/-- Queues a record for a partition's fault queue (R267), with the stopped wave that a handler run serves once it is
written. -/
def pushRecord (s : State) (p : Nat) (data : List Byte) (h : Option (Nat × HPend)) : State :=
  s.onPart p fun x => { x with recWait := x.recWait ++ [⟨data, h, none⟩] }

/-- Queues the record of a fault of a wave (R271). -/
def waveRecord (s : State) (b w : Nat) (precise : Bool) (f : FaultInfo) (h : Option (Nat × HPend)) : State :=
  let k := s.blk b
  let slot := match s.wave? b w with
    | some x => x.slot
    | none => 0
  s.pushRecord k.part (recordBytes k.part precise k.handler 1 k slot k.core (s.pts k.core k.part) f) h

/-- Queues a record that names a partition only. -/
def partRecord (s : State) (p lcore : Nat) (f : FaultInfo) : State :=
  s.pushRecord p (recordBytes p false false 1 {} 0 lcore (s.pts lcore p) f) none

/-- Counts an end-to-end mismatch and queues its E2E record (R349). -/
def e2eRecord (s : State) (p lcore addr : Nat) (kind : AKind) : State :=
  { s.partRecord p lcore { cls := .e2e, kind := kind, addr := addr } with
    e2eCnt := if s.e2eCnt = BitVec.allOnes 64 then s.e2eCnt else s.e2eCnt + 1 }

/-! ### Homes -/

/-- The address of the 1024-byte line (R248). -/
def lineOf (a : Nat) : Nat := a / 1024 * 1024

/-- wts and rts of a home line (R248). -/
def leaseOf (s : State) (pa : Nat) : Nat × Nat := s.lease.get (0, 0) (pa / 1024)

/-- An access to host memory: in the viral state the port carries none (R277). -/
def useCxl (s : State) (pa : Nat) : State := if s.viral && 2 ^ 40 ≤ pa then { s with noWay := true } else s

/-- A request goes from one die to another and its answer comes back (R11): while a module on their routes is not up, they wait
(R338). -/
def cross (s : State) (a b : Nat) : State :=
  if (route a b ++ route b a).all fun k => (s.links.get {} k).st == 0 then s else { s with noWay := true }

/-- The die of a logical core. -/
def coreDie (s : State) (c : Nat) : Nat := (s.slotOf c).1

/-- READ at the home by a core whose pts is `p` (R249). -/
def homeLease (s : State) (pa p : Nat) : State :=
  let l := s.leaseOf pa
  let s := s.useCxl pa
  { s with lease := s.lease.set (0, 0) (pa / 1024) (l.1, max l.2 (p + Config.lease)) }

/-- The sectors that `n` bytes from `pa` touch. -/
def sectorsOf (pa n : Nat) : List Nat :=
  if n = 0 then [] else (List.range ((pa + n - 1) / 128 - pa / 128 + 1)).map (· + pa / 128)

/-- The home lines that `n` bytes from `pa` touch. -/
def linesOf (pa n : Nat) : List Nat :=
  if n = 0 then [] else (List.range ((pa + n - 1) / 1024 - pa / 1024 + 1)).map (· + pa / 1024)

/-- The sectors that pieces of `n` bytes at some addresses cover whole together. -/
def wholeIn (as : List Nat) (n : Nat) : List Nat :=
  if as.length * n < 128 then []
  else ((as.map (· / 128)).eraseDups).filter fun k => (List.range 128).all fun i => as.any fun a => a ≤ 128 * k + i && 128 * k + i < a + n

/-- The metadata of a sector (R348): lines homed on a lost die read as poison (R277). -/
def sector (s : State) (k : Nat) : SecMeta :=
  let m := s.meta_.get {} k
  if k < 2 ^ 33 && s.lost.contains (bits k 31 2) then { m with poison := true } else m

/-- CHECK of a sector (R348). -/
def checkOf (s : State) (k : Nat) : Nat := checkWord (128 * k) (s.mem.read (128 * k) 128) ^^^ (s.sector k).syn.toNat

/-- The 16 metadata bytes of a sector (R348). -/
def sectorMeta (s : State) (k : Nat) : List Byte :=
  let m := s.sector k
  let rest := toBytes 4 (s.checkOf k) ++ toBytes 1 (b2n m.poison) ++ toBytes 1 m.origin ++ toBytes 2 0
  toBytes 8 (Config.eccCode (s.mem.read (128 * k) 128 ++ rest)).toNat ++ rest

/-- The home sets a sector's poison bit (R190, R349), with a check word made afresh. -/
def poisonHome (s : State) (k : Nat) : State :=
  { s with meta_ := s.meta_.set {} k { s.sector k with poison := true, syn := 0, ecc := false } }

/-- Sectors that an access has reached are checked (R349): one that fails is poisoned at its home and reported to the access's
partition, with its VA. -/
def checkSectors (s : State) (p core va pa n : Nat) (k : AKind) : State :=
  (sectorsOf pa n).foldl (fun s i =>
    if (s.sector i).bad then (s.poisonHome i).e2eRecord p core (va + 128 * i - pa) k else s) s

/-- The home checks the old CHECK of a sector before it merges a partial store (R349). -/
def checkMerge (s : State) (p core va pa n : Nat) (whole : List Nat) (k : AKind) : State :=
  (sectorsOf pa n).foldl (fun s i =>
    if (s.sector i).bad && !whole.contains i && !(pa ≤ 128 * i && 128 * i + 128 ≤ pa + n) then
      (s.poisonHome i).e2eRecord p core (va + 128 * i - pa) k
    else s) s

/-- A store clears the poison of a sector that it, or its word, covers whole and leaves that of another (R272); a partial store
into a sector whose check word fails poisons it (R349). The home makes a fresh check word (R349). -/
def storeMeta (s : State) (pa n : Nat) (whole : List Nat := []) : State :=
  (sectorsOf pa n).foldl (fun s k =>
    let m := s.sector k
    if whole.contains k || decide (pa ≤ 128 * k ∧ 128 * k + 128 ≤ pa + n) then { s with meta_ := s.meta_.set {} k {} }
    else if m.bad then
      { s.poisonHome k with e2eCnt := if s.e2eCnt = BitVec.allOnes 64 then s.e2eCnt else s.e2eCnt + 1 }
    else { s with meta_ := s.meta_.set {} k { poison := m.poison, origin := 3 } }) s

/-- WRITE at the home by a party whose pts is `p` (R249), one for each line that the bytes touch: the bytes are applied at ts;
the answer is the last ts. `whole` are sectors that its store word writes whole with it. -/
def homeStore (s : State) (pa : Nat) (data : List Byte) (p : Nat) (whole : List Nat := []) : Nat × State :=
  let ls := linesOf pa data.length
  let ts (k : Nat) : Nat := max p ((s.lease.get (0, 0) k).2 + 1)
  let t := (s.useCxl pa).storeMeta pa data.length whole
  ((ls.map ts).foldl max p,
    { t with mem := t.mem.write pa data, lease := ls.foldl (fun l k => l.set (0, 0) k (ts k, ts k)) t.lease })

/-! ### Tags (R258) -/

/-- The key of a source's tag window at a home slice (R258). -/
def tagKey (src slice : Nat) : Nat := src * 256 + slice

/-- The next tag of a source toward a slice (R258). -/
def nextTag (s : State) (src slice : Nat) : Nat × State :=
  let k := tagKey src slice
  let t := s.tags.get {} k
  (t.next, { s with tags := s.tags.insert k { t with next := (t.next + 1) % 65536 } })

/-- The home keeps the last 64 write tags of a source (R258). -/
def keepTag (s : State) (key : Nat) (e : TagEnt) : State :=
  let t := s.tags.get {} key
  { s with tags := s.tags.insert key { t with window := (t.window ++ [e]).drop (t.window.length + 1 - 64) } }

/-- A READ takes its source's next tag, and no place in the window (R258). -/
def tagRead (s : State) (src pa : Nat) : State := (s.nextTag src (sliceOf pa)).2

/-- The WRITE steps of a store take their source's next tags toward their home slices (R258). Inside the package each is
acknowledged within the step that makes it, so that none stays unacknowledged. -/
def tagWrites (s : State) (src part pa n ts : Nat) : State :=
  (linesOf pa n).foldl (fun s k =>
    let (t, s) := s.nextTag src (sliceOf (1024 * k))
    s.keepTag (tagKey src (sliceOf (1024 * k))) ⟨t, [], ts, part⟩) s

/-- READ by a source on a die (R11, R249, R258). -/
def readFrom (s : State) (src die pa p : Nat) : State := ((s.cross die (homeDie pa)).tagRead src pa).homeLease pa p

/-- WRITE by a source on a die (R11, R249, R258): its ts. -/
def writeFrom (s : State) (src die part pa : Nat) (data : List Byte) (p : Nat) (whole : List Nat := []) : Nat × State :=
  let (ts, s) := (s.cross die (homeDie pa)).homeStore pa data p whole
  (ts, s.tagWrites src part pa data.length ts)

/-- WRITE of a party on a die that uses physical addresses alone (R11, R249): the old check words of sectors that it covers in
part are tested first (R349), and a record of a mismatch, for partition `part`, names the PA with KIND 0 (DESIGN CHOICE, log
entry 131). -/
def placeStore (s : State) (die part pa : Nat) (data : List Byte) (p : Nat) : Nat × State :=
  ((s.cross die (homeDie pa)).checkMerge part 0 pa pa data.length [] .none).homeStore pa data p

/-- WRITE by a core of a partition (R249). -/
def coreStore (s : State) (c part pa : Nat) (data : List Byte) (whole : List Nat := []) : Nat × State :=
  s.writeFrom c (s.coreDie c) part pa data (s.pts c part) whole

/-! ### L1 copies -/

/-- The way of a core's L1 that holds a copy of a partition's line. -/
def l1Find (s : State) (c p va : Nat) : Option (Nat × Line) :=
  (s.core c).lines.find? fun x => match x.2.st with
    | .copy q v _ _ _ _ _ => q == p && v == lineOf va
    | .pinned _ _ _ => false

/-- Writes a dirty sector of an L1 copy of the line at `pa` back to its home (R261, R262); a sector that was stored only in part
stays poisoned (R272). -/
def sendSector (s : State) (c p pa : Nat) (l : Line) (k : Nat) : Nat × State :=
  let (ts, s) := s.coreStore c p (pa + 128 * k) (Memory.read l.data (128 * k) 128)
  (ts, if l.poison.contains k then s.poisonHome (pa / 128 + k) else s)

/-- Writes the dirty sectors of an L1 copy back to the home (R261, R262). -/
def writeBack (s : State) (c : Nat) (l : Line) : State :=
  match l.st with
  | .copy p _ pa _ _ _ dirty => dirty.foldl (fun s k => (s.sendSector c p pa l k).2) s
  | .pinned _ _ _ => s

/-- Drops a way of a core, writing dirty sectors back first. -/
def dropWay (s : State) (c k : Nat) : State :=
  match (s.core c).lines.find k with
  | some l => (s.writeBack c l).onCore c fun x => { x with lines := x.lines.erase k }
  | none => s

/-- The ways of a set that are pinned. -/
def pinnedWays (c : CoreSt) (set : Nat) : List Nat :=
  (List.range 16).filter fun w => match c.lines.find (16 * set + w) with
    | some ⟨.pinned _ _ _, _, _, _⟩ => true
    | _ => false

/-- The tree pseudo-LRU walk over ways `lo` to `lo + 2^k − 1` from tree node `node` (R163): the side a bit points to,
unless every way of it is pinned. -/
def plruVictim (tree : Nat) (pinned : List Nat) : Nat → Nat → Nat → Nat
  | 0, lo, _ => lo
  | k + 1, lo, node =>
    let right := (List.range (2 ^ k)).map (· + lo + 2 ^ k)
    let left := (List.range (2 ^ k)).map (· + lo)
    let goRight := (bitAt tree node && !right.all pinned.contains) || left.all pinned.contains
    if goRight then plruVictim tree pinned k (lo + 2 ^ k) (2 * node + 2) else plruVictim tree pinned k lo (2 * node + 1)

/-- The tree after a use of way `w`: every node on its path points away from it. -/
def plruTouch (w : Nat) : Nat → Nat → Nat → Nat
  | 0, _, tree => tree
  | k + 1, node, tree =>
    let r := bitAt w k
    let t := if r then (if bitAt tree node then tree - 2 ^ node else tree) else (if bitAt tree node then tree else tree + 2 ^ node)
    plruTouch w k (if r then 2 * node + 2 else 2 * node + 1) t

/-- The way that a fill or a pin takes in a set (R163, R164): the lowest invalid way, else the pseudo-LRU unpinned one. -/
def victim (c : CoreSt) (set : Nat) : Nat :=
  match (List.range 16).find? fun w => (c.lines.find (16 * set + w)).isNone with
  | some w => w
  | none => plruVictim (c.plru.get 0 set) (pinnedWays c set) 4 0 0

/-- Marks a use of a way for the replacement order (R163). -/
def touchWay (s : State) (c k : Nat) : State :=
  s.onCore c fun x => { x with plru := x.plru.set 0 (k / 16) (plruTouch (k % 16) 4 0 (x.plru.get 0 (k / 16))) }

/-- The poisoned sectors of a home line (R272); a sector whose check word fails is poisoned at its home first (R349). -/
def linePoison (s : State) (pa : Nat) : List Nat :=
  (List.range 8).filter fun k => let m := s.sector (pa / 128 + k); m.poison || m.bad

/-- Poisons the sectors of a line whose check words fail, and reports each (R349). -/
def checkLine (s : State) (p c va pa : Nat) : State := s.checkSectors p c va pa 1024 .load

/-- Invalidates the copies of a physical line that a cluster holds under another address (R239). -/
def reverseMap (s : State) (c p va pa : Nat) : State :=
  let k := s.clusterOf c
  (s.cores.filter fun x => s.clusterOf x.1 == k).foldl (fun s x =>
    (x.2.lines.filter fun y => match y.2.st with
      | .copy q v a _ _ _ _ => a == lineOf pa && !(q == p && v == lineOf va)
      | .pinned _ _ _ => false).foldl (fun s y => s.dropWay x.1 y.1) s) s

/-- Fills or renews a core's copy of a line by READ (R250): the way used. -/
def fillLine (s : State) (c p va pa : Nat) (cls : Cls) (fmt : Nat := 0) : Nat × State :=
  let s := (s.reverseMap c p va pa).checkLine p c (lineOf va) (lineOf pa)
  let t := s.pts c p
  let s := if cls = .loc then ((s.cross (s.coreDie c) (homeDie pa)).tagRead c pa).useCxl pa else s.readFrom c (s.coreDie c) pa t
  let (wts, rts) := s.leaseOf pa
  let fresh (dirty : List Nat) (data : Tab Byte) : Line :=
    { st := .copy p (lineOf va) (lineOf pa) cls wts rts dirty, data := data, poison := s.linePoison (lineOf pa), fmt := fmt }
  let data := Memory.slice s.mem (lineOf pa) 1024
  match s.l1Find c p va with
  | some (k, _) => (k, (s.dropWay c k).onCore c fun x => { x with lines := x.lines.insert k (fresh [] data) })
  | none =>
    let set := lineOf va / 1024 % 64
    let k := 16 * set + victim (s.core c) set
    (k, (s.dropWay c k).onCore c fun x => { x with lines := x.lines.insert k (fresh [] data) })

/-- The copy that a load of a VA hits (R239, R250, R262): the physical address, the class and the format under which it was
filled. -/
def l1Hit (s : State) (c p va : Nat) : Option (Nat × Cls × Nat) :=
  match s.l1Find c p va with
  | some (_, l) => match l.st with
    | .copy _ _ a cls _ rts _ => if cls = .loc ∨ s.pts c p ≤ rts then some (a + va % 1024, cls, l.fmt) else none
    | .pinned _ _ _ => none
  | none => none

/-- A copy of the line at `pa` that a load of `va` may use as it is, and its way (R250, R262). -/
def lineHit (s : State) (c p va pa : Nat) (cls : Cls) : Option (Nat × Line) :=
  match s.l1Find c p va with
  | some (k, l) => match l.st with
    | .copy _ _ a _ _ rts _ => if a = lineOf pa ∧ (cls = .loc ∨ s.pts c p ≤ rts) then some (k, l) else none
    | .pinned _ _ _ => none
  | none => none

/-- A copy that a load of `va` may use now, renewed or filled first where it must be (R250, R262); its way has been used
(R163). -/
def lineFor (s : State) (c p va pa : Nat) (cls : Cls) (fmt : Nat := 0) : Line × State :=
  match s.lineHit c p va pa cls with
  | some (k, l) => (l, s.touchWay c k)
  | none =>
    let (k, s) := s.fillLine c p va pa cls fmt
    (((s.core c).lines.find k).getD { st := .pinned 0 0 0 }, s.touchWay c k)

/-- Lays bytes stored at `pa` over bytes read from `a`. -/
def overlay (a : Nat) (bs : List Byte) (pa : Nat) (data : List Byte) : List Byte :=
  bs.zipIdx.map fun (b, i) => if pa ≤ a + i ∧ a + i < pa + data.length then data.getD (a + i - pa) 0 else b

/-- Whether stored bytes cover all of the `n` bytes from `a`. -/
def covers (a n : Nat) (ws : List (Nat × List Byte)) : Bool :=
  (List.range n).all fun i => ws.any fun w => decide (w.1 ≤ a + i ∧ a + i < w.1 + w.2.length)

/-- What a load returns: the bytes, wts of the line, and whether it consumed poison (R272). -/
structure Loaded where
  data : List Byte
  wts : Nat
  poison : Bool

/-- The stores of a wave that are not yet at their homes, oldest first: committed ones, then those of its open region. -/
def ownStores (s : State) (c b w : Nat) : List (Nat × List Byte) :=
  (((s.core c).outbox.filter fun r => r.blk == b && r.wave == w).map fun r => (r.pa, r.data)) ++
  match s.wave? b w with
  | some x => x.held.map fun h => (h.pa, h.data)
  | none => []

/-- Updates the core's own L1 copy of a line after its store was acknowledged at `ts` (R250): the copy takes the line as the
home has it, so that its one lease holds for every byte; the way has been used (R163). -/
def updateCopy (s : State) (c p va ts : Nat) : State :=
  match s.l1Find c p va with
  | some (k, l) => match l.st with
    | .copy q v a cls _ _ d =>
      let n : Line := { l with st := .copy q v a cls ts ts d, data := Memory.slice s.mem a 1024, poison := s.linePoison a }
      (s.touchWay c k).onCore c fun x => { x with lines := x.lines.insert k n }
    | .pinned _ _ _ => s
  | none => s

/-- A committed LOCAL store goes into the core's L1 (R262). -/
def localStore (s : State) (r : Req) (c : Nat) : State :=
  let (_, s) := s.lineFor c r.part r.va r.pa .loc
  match s.l1Find c r.part r.va with
  | some (k, l) => match l.st with
    | .copy q v a cls w t d =>
      let ds := (sectorsOf (r.pa % 1024) r.data.length).filter fun x => !d.contains x
      let n : Line :=
        { l with
          st := .copy q v a cls w t (d ++ ds), data := Memory.write l.data (r.pa % 1024) r.data
          poison := l.poison.filter fun j => !r.whole.contains (a / 128 + j) }
      s.onCore c fun x => { x with lines := x.lines.insert k n }
    | .pinned _ _ _ => s
  | none => s

/-- Applies one committed store (R246, R249, R262): its ts joins PEND of its wave. -/
def applyReq (s : State) (c : Nat) (r : Req) : State :=
  if r.cls = .loc then s.localStore r c
  else
    let s := s.checkMerge r.part c r.va r.pa r.data.length r.whole .store
    let (ts, s) := s.coreStore c r.part r.pa r.data r.whole
    (s.updateCopy c r.part r.va ts).onWave r.blk r.wave fun w => { w with pend := max w.pend ts }

/-- Some committed stores of a core with those that come before one of them on the way to its home slice (R351), in their
order; and the rest. -/
def splitDue (mine : Req → Bool) : List Req → List Req × List Req
  | [] => ([], [])
  | r :: rs =>
    let (a, b) := splitDue mine rs
    if mine r || a.any fun x => sliceOf x.pa == sliceOf r.pa then (r :: a, b) else (a, r :: b)

/-- Applies some committed stores of a core, in their order, after those that must come before them. -/
def drainSome (s : State) (c : Nat) (mine : Req → Bool) : State :=
  let (now, later) := splitDue mine (s.core c).outbox
  now.foldl (fun s r => s.applyReq c r) (s.onCore c fun x => { x with outbox := later })

/-- The committed stores of a core that go to the home slice of an address come before a request to it (R351). -/
def catchUp (s : State) (c pa : Nat) : State := s.drainSome c fun r => sliceOf r.pa == sliceOf pa

/-- The stores that come before a READ of a line, where a load needs one (R351): those to its home slice, and those to the slice
of a written line that the fill drives out of its way. -/
def beforeRead (s : State) (c p va pa : Nat) (cls : Cls) : State :=
  if (s.lineHit c p va pa cls).isSome then s
  else
    let set := lineOf va / 1024 % 64
    let s := s.catchUp c pa
    match ((s.core c).lines.find (16 * set + victim (s.core c) set)).map (·.st) with
    | some (LineSt.copy _ _ a _ _ _ (_ :: _)) => s.catchUp c a
    | _ => s

/-- A plain or acquiring load of a wave (R246, R250, R255): forwarded bytes of the wave's own held and committed stores,
which read no line where they cover it; else an L1 copy under its lease, else the home. -/
def loadBytes (s : State) (c p b w va pa : Nat) (cls : Cls) (n : Nat) (fmt : Nat := 0) : Loaded × State :=
  let own := s.ownStores c b w
  let lay (own : List (Nat × List Byte)) (base : List Byte) : List Byte := own.foldl (fun bs x => overlay pa bs x.1 x.2) base
  if covers pa n own then (⟨lay own (List.replicate n 0), 0, false⟩, s)
  else
    let s := s.beforeRead c p va pa cls
    let own := s.ownStores c b w
    let (l, s) := s.lineFor c p va pa cls fmt
    let wts := match l.st with
      | .copy _ _ _ _ t _ _ => t
      | .pinned _ _ _ => 0
    (⟨lay own (Memory.read l.data (pa % 1024) n), wts, l.poison.contains (pa % 1024 / 128)⟩, s)

/-- A LOCAL store goes into the core's L1 now, after the stores that come before the READ that it may need (R262, R351). -/
def localNow (s : State) (r : Req) (c : Nat) : State := (s.beforeRead c r.part r.va r.pa .loc).localStore r c

/-- WRITE by a core of a partition (R249), after its committed stores to the same home slice (R351). -/
def coreStoreNow (s : State) (c part pa : Nat) (data : List Byte) (whole : List Nat := []) : Nat × State :=
  (s.catchUp c pa).coreStore c part pa data whole

/-- Applies every committed store of a wave. -/
def drainWave (s : State) (c b w : Nat) : State := s.drainSome c fun r => r.blk == b && r.wave == w

/-! ### Scopes, acquires and releases of the issuing wave -/

/-- The scope at which an access is carried out: .sys is .part but in partition 0 (R245). -/
def scopeIn (s : State) (sc : Nat) : Nat := if sc = 5 ∧ s.ipart ≠ 0 then 4 else sc

/-- Sets WSTAT.SCOPE_CLAMP when a scope is clamped (R245). -/
def clampScope (s : State) (sc : Nat) : State :=
  if sc = 5 ∧ s.ipart ≠ 0 then s.onIssue fun e => e.onArch fun a => { a with clamp := true } else s

/-- A release of a wave at a scope (R250). -/
def releaseWave (s : State) (c p b w sc : Nat) : State :=
  let s := s.drainWave c b w
  if 2 ≤ sc then match s.wave? b w with
    | some x => s.raisePts c p x.pend
    | none => s
  else s

/-- An acquire of a wave at a scope (R250). -/
def acquireWave (s : State) (c p b w sc : Nat) : State :=
  if 2 ≤ sc then match s.wave? b w with
    | some x => (s.raisePts c p x.seen).onWave b w fun y => { y with seen := 0 }
    | none => s
  else s

/-- A release by the issuing wave. -/
def release (s : State) (sc : Nat) : State :=
  (s.clampScope sc).releaseWave s.issue.core s.ipart s.issue.blk s.issue.wv (s.scopeIn sc)

/-- An acquire by the issuing wave. -/
def acquire (s : State) (sc : Nat) : State :=
  (s.clampScope sc).acquireWave s.issue.core s.ipart s.issue.blk s.issue.wv (s.scopeIn sc)

/-! ### Commit and rollback -/

/-- A wave whose region has committed with the registers it has now (R154): the flags of finished engine operations are
delivered (R112) and the checkpoint is taken afresh. -/
def commitWave (w : Wave) : Wave :=
  let a := { w.arch with flags := orFlags w.arch.flags w.engFl }
  { w with arch := a, entry := a, engFl := 0, held := [], shadows := [], heldIn := [], sigIn := 0, pkts := 0, sig := 0, mism := 0
           poisonAt := none, first := none, gear := .fast, epoch := w.epoch + 1
           bound := false, cutLanes := none }

/-- The global stores of a region that are handed over at its commit (R154). The twin that is not primary applies none
(R272). -/
def heldReqs (k : Block) (b wv : Nat) (w : Wave) : List Req :=
  if k.primary then w.held.map fun h => ⟨k.part, h.va, h.pa, h.cls, h.data, b, wv, h.own, h.whole⟩ else []

/-- The LOCAL stores of a region go into the core's L1 at its commit (R262). -/
def commitLocal (s : State) (c : Nat) (rs : List Req) : State :=
  rs.foldl (fun s r => if r.cls = .loc then s.localNow r c else s) s

/-- Commits the region of a wave (R154): its DEV and SYS stores are on their way to their homes, its LOCAL ones in the L1. -/
def commit (s : State) (b wv : Nat) : State :=
  match s.wave? b wv with
  | some w =>
    let k := s.blk b
    (((s.commitLocal k.core (heldReqs k b wv w)).onCore k.core fun c => { c with
        outbox := c.outbox ++ (heldReqs k b wv w).filter fun r => r.cls != .loc
        oplog := c.oplog.map fun x => (x.1, x.2.filter fun o => !(o.blk == b && o.wave == wv)) }).onBlk b fun k =>
      { k with fwd := k.fwd.filter fun x => x.1 != wv || w.arch.fseq ≤ x.2.1 }).onWave b wv commitWave
  | none => s

/-- The way that holds a line of a block's space (R167). -/
def spaceWay (s : State) (b space ix : Nat) : Option (Nat × Line) :=
  (s.core (s.blk b).core).lines.find? fun x => x.2.st == .pinned b space ix

/-- Changes the contents of a pinned line. -/
def onSpaceLine (s : State) (b space ix : Nat) (f : Line → Line) : State :=
  if (s.spaceWay b space ix).isNone then s
  else s.onCore (s.blk b).core fun c => { c with lines := Tab.modifyFirst (fun l => l.st == .pinned b space ix) f c.lines }

/-! ### Transaction barriers and waits -/

/-- Changes every wave of a block, the issuing one in `issue`. -/
def onWaves (s : State) (b : Nat) (f : Nat → Wave → Wave) : State :=
  (List.range (s.blk b).waves.length).foldl (fun s i => s.onWave b i (f i)) s

/-- A wait for a gate that ends with no answer is no longer among its waiters (R326). -/
def leaveGate (s : State) (x : Waiting) : State :=
  match x.kind with
  | .gwait g _ _ => if x.woken.isSome then s else s.onGate g fun y => { y with waiters := y.waiters - 1 }
  | _ => s

/-- Every wait of a block's waves, with the wave. -/
def blockWaits (s : State) (b : Nat) : List (Nat × Waiting) :=
  (List.range (s.blk b).waves.length).flatMap fun i => (((s.wave? b i).map (·.waits)).getD []).map fun x => (i, x)

/-- Marks waits of a block as woken (R198, R202). -/
def wake (s : State) (b : Nat) (p : Nat → Waiting → Option Bool) : State :=
  s.onWaves b fun i w => { w with waits := w.waits.map fun x => match p i x with
    | some v => if x.woken.isNone then { x with woken := some v } else x
    | none => x }

/-- The barrier at an S-space address of a block. -/
def tbar (s : State) (b ea : Nat) : TBar :=
  match s.spaceWay b 0 (ea / 1024) with
  | some (_, l) => TBar.of (ofBytes (Memory.read l.data (ea % 1024) 16))
  | none => {}

/-- The barrier unit tests every waiter on some 16-byte parts of a block's S-space against their new contents (R197). -/
def testBars (s : State) (b : Nat) (parts : List Nat) : State :=
  if !(s.blockWaits b).any fun x => match x.2.kind with
    | .bwait a _ _ => parts.contains (a / 16)
    | _ => false
  then s
  else s.wake b fun _ x => match x.kind with
    | .bwait a q _ =>
      let t := s.tbar b a
      if parts.contains (a / 16) && (t.phase != q || t.inv) then some (!(t.err || t.inv)) else none
    | _ => none

/-- Writes a shadow sector back with its poison (R157, R272), but the 16-byte parts that the barrier unit has updated since
(R197). -/
def restoreShadow (s : State) (b : Nat) (h : Shadow) : State :=
  s.onSpaceLine b h.space h.ix fun l =>
    { l with data := (List.range 8).foldl (fun d i =>
        if h.skip.contains i then d
        else Memory.write d (128 * h.sector + 16 * i) (Memory.read h.data (16 * i) 16)) l.data
             poison := if h.poison then (if l.poison.contains h.sector then l.poison else l.poison ++ [h.sector])
               else l.poison.erase h.sector }

/-- The checkpoint as a rollback restores it (R157): every latch is invalid, and the wait counts of R30 start again. -/
def cleanEntry (a : Arch) : Arch := { a with lat := [], fib := a.fib.map fun f => { f with wait := 0, run := 0 } }

/-- A wave put back to its region entry (R157): every latch is invalid; the stores that stood at the entry stay. -/
def rollWave (w : Wave) : Wave :=
  { w with arch := cleanEntry w.entry, entry := cleanEntry w.entry, held := w.heldIn, shadows := [], pkts := 0
           sig := w.sigIn, forced := none, bound := false, hold := none }

/-- Rolls a wave back to its region entry (R157). -/
def rollback (s : State) (b wv : Nat) : State :=
  match s.wave? b wv with
  | some w =>
    let s := w.shadows.foldl (fun s h =>
      let s := s.restoreShadow b h
      if h.space = 0 then s.testBars b ((List.range 8).map fun i => 64 * h.ix + 8 * h.sector + i) else s) s
    (s.onCore (s.blk b).core fun c => { c with
        oplog := c.oplog.map fun x => (x.1, x.2.filter fun o => !(o.blk == b && o.wave == wv)) }).onWave b wv rollWave
  | none => s

end State

end Sys2Proof.Machine
end

