-- ==== Sys2Proof/Machine/Translate.lean ====
section
/-!
DEFINITION. Virtual addresses (R230 to R243): the walk, its checks, the accessed and dirty bits, the cluster TLB.
-/

namespace Sys2Proof.Machine

/-- What an access asks of its page (R233): its kind, whether it reads, writes or fetches, the classes (R235) and formats
(R237) it is allowed on, and whether it is a demand access (R234, R241). -/
structure Access where
  kind : AKind
  rd : Bool := false
  wr : Bool := false
  ex : Bool := false
  cls : List Cls := [.loc, .dev, .sys]
  fmt : List Nat := [0]
  demand : Bool := true
deriving DecidableEq, Repr

/-- A translation: physical address, class, format, the leaf's level and the leaf. -/
structure Trans where
  pa : Nat
  cls : Cls
  fmt : Nat
  big : Bool
  leaf : B64
  entPa : Nat
deriving DecidableEq, Repr

/-- A fault of a walk: class and level (R233). -/
structure WalkFault where
  cls : FClass
  lvl : Nat
deriving DecidableEq, Repr

/-- The index of a level in a VA (R230). -/
def walkIndex (va : Nat) : Nat → Nat
  | 0 => bits va 55 2
  | 1 => bits va 42 13
  | 2 => bits va 29 13
  | _ => bits va 16 13

/-- The entry grants no access, so it is a table entry at levels 0 to 2 (R232). -/
def entryIsTable (e : Nat) : Bool := bits e 2 3 == 0

/-- The malformed entries of R233, item 4. -/
def entryMalformed (lvl e : Nat) : Bool :=
  if entryIsTable e then
    lvl == 3 || bits e 2 14 != 0 || bits e 52 12 != 0
  else
    let host := bits e 40 12 != 0
    let sys := bits e 7 2 == 2
    let fmt := bits e 9 4
    lvl ≤ 1 || bits e 52 4 != 0 || bits e 13 3 != 0 || (bitAt e 3 && !bitAt e 2) || 4 ≤ fmt || bits e 7 2 == 3 ||
      (lvl == 2 && fmt != 0) || (fmt != 0 && sys) || (sys != host) || (lvl == 2 && bits e 16 13 != 0)

/-- The class of a leaf (R232). -/
def leafCls (e : Nat) : Cls :=
  match bits e 7 2 with
  | 0 => .loc
  | 1 => .dev
  | _ => .sys

/-- Walks the levels `lvl`, `lvl + 1`, … from a table page (R230, R233): the leaf with its level and address, or the fault.
`n` is the number of levels left. -/
def walkFrom (m : Memory) (va : Nat) : Nat → Nat → Nat → Except WalkFault (Nat × Nat × Nat)
  | 0, lvl, _ => .error ⟨.invalid, lvl⟩
  | n + 1, lvl, page =>
    let at_ := page + 8 * walkIndex va lvl
    let e := m.readNat at_ 8
    if !bitAt e 0 then .error ⟨.invalid, lvl⟩
    else if !bitAt e 1 then .error ⟨.notPresent, lvl⟩
    else if entryMalformed lvl e then .error ⟨.invalid, lvl⟩
    else if entryIsTable e then walkFrom m va n (lvl + 1) (bits e 16 36 * 2 ^ 16)
    else .ok (e, lvl, at_)

/-- The addresses of the entries that such a walk reads. -/
def walkPath (m : Memory) (va : Nat) : Nat → Nat → Nat → List Nat
  | 0, _, _ => []
  | n + 1, lvl, page =>
    let at_ := page + 8 * walkIndex va lvl
    let e := m.readNat at_ 8
    at_ :: if bitAt e 0 && bitAt e 1 && !entryMalformed lvl e && entryIsTable e then walkPath m va n (lvl + 1) (bits e 16 36 * 2 ^ 16)
      else []

/-- The address is canonical: VA[63:57] equals VA[56] (R230). -/
def canonical (va : Nat) : Bool := bits va 57 7 == (if bitAt va 56 then 127 else 0)

/-- The walk of a partition's tables (R230, R231): leaf, level, the entry's address. -/
def State.walk (s : State) (p va : Nat) : Except WalkFault (Nat × Nat × Nat) :=
  let root := (s.part p).tableRoot.toNat
  if !canonical va then .error ⟨.invalid, 0⟩
  else if !bitAt root 0 then .error ⟨.invalid, 0⟩
  else walkFrom s.mem va 4 0 (bits root 16 36 * 2 ^ 16)

/-- A party on a die walks a partition's tables (R11, R230): it reads every entry at its home. -/
def State.walkFor (s : State) (die p va : Nat) : Except WalkFault (Nat × Nat × Nat) × State :=
  let root := (s.part p).tableRoot.toNat
  (s.walk p va,
    if !canonical va || !bitAt root 0 then s
    else (walkPath s.mem va 4 0 (bits root 16 36 * 2 ^ 16)).foldl (fun s a => (s.useCxl a).cross die (homeDie a)) s)

/-- The page of a VA: 64 KiB, or 512 MiB for a large leaf. -/
def pageOf (big : Bool) (va : Nat) : Nat := if big then va / 2 ^ 29 * 2 ^ 29 else va / 2 ^ 16 * 2 ^ 16

/-- The checks 5 to 8 of R233 on a leaf. -/
def leafCheck (p : Nat) (a : Access) (e lvl : Nat) : Option WalkFault :=
  if bits e 56 8 != p then some ⟨.permission, lvl⟩
  else if (a.rd && !bitAt e 2) || (a.wr && !bitAt e 3) || (a.ex && !bitAt e 4) then some ⟨.permission, lvl⟩
  else if !a.cls.contains (leafCls e) then some ⟨.cls, lvl⟩
  else if !a.fmt.contains (bits e 9 4) then some ⟨.format, lvl⟩
  else none

/-- The translation that a leaf gives (R230, R232). -/
def leafTrans (va e : Nat) (big : Bool) (at_ : Nat) : Trans :=
  { pa := bits e 16 36 * 2 ^ 16 + (if big then bits va 0 29 else bits va 0 16)
    cls := leafCls e, fmt := bits e 9 4, big := big, leaf := BitVec.ofNat 64 e, entPa := at_ }

/-- The cluster TLB's entry for a partition's page (R239). -/
def Cluster.tlbFind (k : Cluster) (p va : Nat) : Option TlbEnt :=
  k.tlb.find? fun t => t.part == p && t.va == pageOf t.big va

/-- Sets bits of a page-table entry in place, an atomic read-modify-write at its home (R234). -/
def State.setEntryBits (s : State) (src die part at_ mask : Nat) : State :=
  let e := s.mem.readNat at_ 8
  if e &&& mask = mask then s else (s.writeFrom src die part at_ (toBytes 8 (e ||| mask)) 0).2

/-- The A and D bits that a demand access needs (R234): bit 5, and bit 6 for a write. -/
def Access.adMask (a : Access) : Nat := if a.wr then 0x60 else 0x20

/-- Translates an access of a partition through a core's cluster TLB (R230 to R234, R239, R241). -/
def State.translate (s : State) (core p : Nat) (a : Access) (va : Nat) : Except WalkFault Trans × State :=
  let k := s.clusterOf core
  if !canonical va || !bitAt (s.part p).tableRoot.toNat 0 then (.error ⟨.invalid, 0⟩, s)
  else match (s.cluster k).tlbFind p va with
  | some t =>
    let e := t.leaf.toNat
    match leafCheck p a e (if t.big then 2 else 3) with
    | some f => (.error f, s)
    | none =>
      let r := leafTrans va e t.big t.entPa
      let need := a.adMask
      if a.demand && (t.unref || e &&& need != need) then
        let t' := { t with unref := false, leaf := BitVec.ofNat 64 (e ||| need) }
        (.ok r, (s.setEntryBits core (s.coreDie core) p t.entPa need).onCluster k fun c =>
          { c with tlb := c.tlb.map fun x => if x == t then t' else x })
      else (.ok r, s)
  | none =>
    match s.walkFor (s.coreDie core) p va with
    | (.error f, s) => (.error f, s)
    | (.ok (e, lvl, at_), s) =>
      match leafCheck p a e lvl with
      | some f => (.error f, s)
      | none =>
        let big := lvl == 2
        let e' := if a.demand then e ||| a.adMask else e
        let s := if a.demand then s.setEntryBits core (s.coreDie core) p at_ a.adMask else s
        let t : TlbEnt := ⟨p, pageOf big va, big, BitVec.ofNat 64 e', at_, !a.demand⟩
        (.ok (leafTrans va e big at_), s.onCluster k fun c => { c with tlb := (c.tlb ++ [t]).drop (c.tlb.length + 1 - 4096) })

/-- A read by a hub or engine party through the partition's tables, outside any core's TLB. -/
def State.walkAccess (s : State) (p : Nat) (a : Access) (va : Nat) : Except WalkFault Trans × State :=
  match s.walkFor (cpDie p) p va with
  | (.error f, s) => (.error f, s)
  | (.ok (e, lvl, at_), s) =>
    match leafCheck p a e lvl with
    | some f => (.error f, s)
    | none => (.ok (leafTrans va e (lvl == 2) at_), s.setEntryBits (cpSrc p) (cpDie p) p at_ a.adMask)

/-- A plain read of raw data. -/
def Access.load : Access := { kind := .load, rd := true }
/-- A plain write of raw data. -/
def Access.store : Access := { kind := .store, wr := true }
/-- An instruction fetch. -/
def Access.fetch : Access := { kind := .fetch, ex := true }

end Sys2Proof.Machine
end

