-- ==== Sys2Proof/Machine/Home.lean ====
section
/-!
DEFINITION. Requests at the homes (R249, R256 to R259): the read-modify-write functions, the tag window that keeps a
request from being applied twice (R258), and requests and responses as messages (R350, R351).
-/

namespace Sys2Proof.Machine

/-- NEW of R172 and R256 for FUNC 0x00 to 0x0C on `w`-bit values, with the flags of fadd. -/
def rmwNew (fn w old d d2 : Nat) : Res :=
  match fn with
  | 0x00 => ⟨d, 0⟩
  | 0x01 => ⟨if old = d then d2 else old, 0⟩
  | 0x02 => ⟨addW w old d, 0⟩
  | 0x03 => ⟨old &&& d, 0⟩
  | 0x04 => ⟨old ||| d, 0⟩
  | 0x05 => ⟨old ^^^ d, 0⟩
  | 0x06 => ⟨sminmax w false old d, 0⟩
  | 0x07 => ⟨sminmax w true old d, 0⟩
  | 0x08 => ⟨nminmax false old d, 0⟩
  | 0x09 => ⟨nminmax true old d, 0⟩
  | 0x0A => f32.add .rne old d
  | 0x0B => ⟨f32.minmax false old d, 0⟩
  | _ => ⟨f32.minmax true old d, 0⟩

/-- The format of an exact add or read by its FUNC (R256). -/
def xaFmt (fn : Nat) : FFmt :=
  match fn with
  | 0x11 | 0x19 => b16
  | 0x12 | 0x1A => f16
  | 0x1B => e4m3
  | 0x1C => e5m2
  | _ => f32

/-- The function works on a 48-byte cell (R256). -/
def isCellFn (fn : Nat) : Bool := 0x10 ≤ fn

/-- Bytes that an access of a function takes in memory, and its alignment (R121, R256). -/
def rmwSpan (fn size : Nat) : Nat × Nat := if isCellFn fn then (48, 16) else (2 ^ size, 2 ^ size)

/-- The result of a WRITE step: the value returned, the bytes written, the flags. -/
structure RmwRes where
  v : Nat
  data : List Byte
  fl : Nat := 0
deriving DecidableEq, Repr

/-- The read-modify-write that a function makes of the old bytes (R257). -/
def rmwApply (fn size : Nat) (old : List Byte) (d d2 : Nat) : RmwRes :=
  if fn < 0x10 then
    let w := 8 * 2 ^ size
    let r := rmwNew fn w (ofBytes old) (d % 2 ^ w) (d2 % 2 ^ w)
    ⟨ofBytes old, toBytes (2 ^ size) r.v, r.fl⟩
  else if fn < 0x13 then
    let r := (Xa.ofBytes old).round (xaFmt fn)
    ⟨r.v, old, r.fl⟩
  else if fn = 0x13 then ⟨0, toBytes 48 0, 0⟩
  else ⟨0, ((Xa.ofBytes old).add ((xaFmt fn).read (d % 2 ^ (xaFmt fn).width))).bytes, 0⟩

namespace State

/-- A WRITE step that reads and writes at the home (R249, R257): the result and its ts. -/
def homeRmw (s : State) (pa fn size d d2 p : Nat) : RmwRes × Nat × State :=
  let r := rmwApply fn size (s.mem.read pa (rmwSpan fn size).1) d d2
  let (ts, s) := s.homeStore pa r.data p
  (r, ts, s)

/-- The data units of an ATOM request (R350). -/
def rmwUnits (fn d d2 p : Nat) : List Byte :=
  toBytes 8 d ++ toBytes 6 p ++ toBytes 2 0 ++ (if fn = 1 then toBytes 16 d2 else [])

/-- An ATOM request (R335, R350). -/
def rmwMsg (src tag part ord scope fn size pa d d2 p : Nat) : Msg :=
  { kind := 0x03, func := BitVec.ofNat 5 fn, size := BitVec.ofNat 3 size, tag := BitVec.ofNat 16 tag, src := BitVec.ofNat 12 src
    part := BitVec.ofNat 6 part, ord := BitVec.ofNat 2 ord, scope := BitVec.ofNat 3 scope, poison := false
    addr := BitVec.ofNat 64 pa, data := rmwUnits fn d d2 p }

/-- The response to a request (R350). -/
def rspMsg (m : Msg) (ts : Nat) (v : List Byte) : Msg :=
  { m with kind := 0x04, addr := BitVec.ofNat 64 (ts % 2 ^ 48), data := v, poison := false }

/-- HOME_ATOM (R257, R258, R350): a request of a source whose tag is in the window is answered with the stored value and
ts; any other is applied once. The answer, the flags of the operation, and the state. -/
def homeAtomOf (s : State) (src : Nat) (m : Msg) : Msg × Nat × State :=
  let k := tagKey src (sliceOf m.addr.toNat)
  match (s.tags.get {} k).window.find? fun w => w.tag == m.tag.toNat with
  | some w => (rspMsg m w.ts w.v, 0, s)
  | none =>
    let (r, ts, s) := s.homeRmw m.addr.toNat m.func.toNat m.size.toNat (ofBytes (m.data.take 8))
      (ofBytes ((m.data.drop 16).take 8)) (ofBytes ((m.data.drop 8).take 6))
    let v := toBytes 16 (r.v % 2 ^ 64)
    (rspMsg m ts v, r.fl, s.keepTag k ⟨m.tag.toNat, v, ts, m.part.toNat⟩)

/-- HOME_ATOM of a request inside the package. -/
def homeAtom (s : State) (m : Msg) : Msg × Nat × State := s.homeAtomOf m.src.toNat m

/-- The operand of a function as its request carries it (R350): the datum, zero-extended. -/
def rmwOperand (fn size d : Nat) : Nat := if fn < 0x10 then d % 2 ^ (8 * 2 ^ size) else d % 2 ^ (xaFmt fn).width

/-- Sends a request of a core and takes the first response (R11, R351): the value, ts and flags. -/
def request (s : State) (src part ord scope fn size pa d d2 p : Nat) : Nat × Nat × Nat × State :=
  let s := (s.cross (s.coreDie src) (homeDie pa)).catchUp src pa
  let (tag, s) := s.nextTag src (sliceOf pa)
  let (r, fl, s) := s.homeAtom (rmwMsg src tag part ord scope fn size pa (rmwOperand fn size d) (rmwOperand fn size d2) p)
  (ofBytes (r.data.take 8), r.addr.toNat, fl, s)

/-- Whether `n` bytes of memory from `pa` lie in a sector that is poisoned or whose check word fails (R272, R349). -/
def poisoned (s : State) (pa n : Nat) : Bool :=
  (sectorsOf pa n).any fun k => let m := s.sector k; m.poison || m.bad

/-- A wave of a P2 primary forwards values to its twin (R272); those of a re-run take the place of those of the first run. -/
def forwardTo (s : State) (b w : Nat) (vs : List Nat) : State :=
  match (s.blk b).twin with
  | some t =>
    let n := ((s.wave? b w).map (·.arch.fseq)).getD 0
    (s.onBlk t fun k =>
      { k with fwd := (k.fwd.filter fun x => !(x.1 == w && x.2.1 == n)) ++ [(w, n, vs.map (BitVec.ofNat 64))] }).onWave b w
        fun v => { v with arch := { v.arch with fseq := n + 1 } }
  | none => s

/-- An operation that only the primary of a P2 pair carries out (R272): the twin takes the forwarded values instead, and
`none` says that they are not there yet. -/
def asPrimary (s : State) (op : State → List Nat × State) : Option (List Nat × State) :=
  if s.iblk.primary then
    let (vs, s) := op s
    some (vs, s.forwardTo s.issue.blk s.issue.wv vs)
  else
    match s.iblk.fwd.find? fun x => x.1 == s.issue.wv && x.2.1 == s.issue.cur.arch.fseq with
    | some x => some (x.2.2.map (·.toNat), s.onIssue fun e => e.onArch fun a => { a with fseq := a.fseq + 1 })
    | none => none

/-- The present group cannot take effect now and is tried again (R28). -/
def retry (s : State) (h : Hold) : State := s.onIssue fun e => { e with held := some h }

end State

end Sys2Proof.Machine
end

