-- ==== Sys2Proof/Machine/IntV.lean ====
section
/-!
DEFINITION. The per-fibre integer instructions of the V pipe (R76 to R86) and the dot products (R135).
-/

namespace Sys2Proof.Machine

/-- The outcome of a step. -/
abbrev Out : Type := Host.Outcome State Fault Refusal

/-- A two-source 32-bit V-pipe word (R79). -/
def vop2 (f : FmtA) (g : Nat → Nat → Nat) (s : State) : Out :=
  .next (s.onIssue fun e => e.mapV f.n f.d 1 0 fun l => ⟨g (e.i32 f.a l) (e.i32 f.b l), 0⟩)

/-- A one-source 32-bit V-pipe word (R80). -/
def vop1 (f : FmtA1) (g : Nat → Nat) (s : State) : Out :=
  .next (s.onIssue fun e => e.mapV f.n f.d 1 0 fun l => ⟨g (e.i32 f.a l), 0⟩)

/-- A V-pipe word that reads its 32-bit destination too (R79, R83, R135). -/
def vop3 (f : FmtD) (g : Nat → Nat → Nat → Nat) (s : State) : Out :=
  .next (s.onIssue fun e => e.mapV 0 f.d 1 0 fun l => ⟨g (e.i32 f.a l) (e.i32 f.b l) (e.old.readV l f.d.toNat), 0⟩)

/-- MOV (R78). -/
def execMov (f : FmtA1) (s : State) : Out :=
  vop1 f (id) s

/-- IABS (R80). -/
def execIabs (f : FmtA1) (s : State) : Out :=
  vop1 f (iabs) s

/-- INEG (R80). -/
def execIneg (f : FmtA1) (s : State) : Out :=
  vop1 f (subW 32 0) s

/-- NOT (R80). -/
def execNot (f : FmtA1) (s : State) : Out :=
  vop1 f (notW 32) s

/-- POPC (R80). -/
def execPopc (f : FmtA1) (s : State) : Out :=
  vop1 f (fun a => popCount a 32) s

/-- CLZ (R80). -/
def execClz (f : FmtA1) (s : State) : Out :=
  vop1 f (clz32) s

/-- BREV (R80). -/
def execBrev (f : FmtA1) (s : State) : Out :=
  vop1 f (fun a => bitReverse a 32) s

/-- MOVI (R78): the payload over FN. -/
def execMovi (f : FmtI) (s : State) : Out :=
  .next (s.onIssue fun e => e.mapV f.n f.d 1 0 fun _ => ⟨f.x.p.toNat * 256 + f.i.toNat, 0⟩)

/-- SEL (R78): A where the predicate of the payload, inverted by its bit 4, is 1, else B. -/
def execSel (f : FmtS) (s : State) : Out :=
  .next (s.onIssue fun e => e.mapV f.n f.d 1 0 fun l =>
    ⟨if e.old.readP l (bits f.x.p.toNat 0 4) != bitAt f.x.p.toNat 4 then e.i32 f.a l else e.i32 f.b l, 0⟩)

/-- IADD (R79). -/
def execIadd (f : FmtA) (s : State) : Out :=
  vop2 f (addW 32) s

/-- ISUB (R79). -/
def execIsub (f : FmtA) (s : State) : Out :=
  vop2 f (subW 32) s

/-- IMUL (R79). -/
def execImul (f : FmtA) (s : State) : Out :=
  vop2 f (mulW 32) s

/-- IMULH (R79). -/
def execImulh (f : FmtA) (s : State) : Out :=
  vop2 f (mulHigh) s

/-- IMIN (R79). -/
def execImin (f : FmtA) (s : State) : Out :=
  vop2 f (sminmax 32 false) s

/-- IMAX (R79). -/
def execImax (f : FmtA) (s : State) : Out :=
  vop2 f (sminmax 32 true) s

/-- NMIN (R79). -/
def execNmin (f : FmtA) (s : State) : Out :=
  vop2 f (nminmax false) s

/-- NMAX (R79). -/
def execNmax (f : FmtA) (s : State) : Out :=
  vop2 f (nminmax true) s

/-- AND (R79). -/
def execAnd (f : FmtA) (s : State) : Out :=
  vop2 f ((· &&& ·)) s

/-- OR (R79). -/
def execOr (f : FmtA) (s : State) : Out :=
  vop2 f ((· ||| ·)) s

/-- XOR (R79). -/
def execXor (f : FmtA) (s : State) : Out :=
  vop2 f ((· ^^^ ·)) s

/-- ANDN (R79). -/
def execAndn (f : FmtA) (s : State) : Out :=
  vop2 f (fun a b => a &&& notW 32 b) s

/-- SHL (R81, R82). -/
def execShl (f : FmtA) (s : State) : Out :=
  vop2 f (shlW 32) s

/-- SHR (R81, R82). -/
def execShr (f : FmtA) (s : State) : Out :=
  vop2 f (shrW 32) s

/-- SAR (R81, R82). -/
def execSar (f : FmtA) (s : State) : Out :=
  vop2 f (sar32) s

/-- ROT (R81, R82). -/
def execRot (f : FmtA) (s : State) : Out :=
  vop2 f (rotl32) s

/-- BFX (R83). -/
def execBfx (f : FmtA) (s : State) : Out :=
  vop2 f (bfx) s

/-- IMAD (R79). -/
def execImad (f : FmtD) (s : State) : Out :=
  vop3 f (fun a b d => (a * b + d) % 2 ^ 32) s

/-- BFI (R83). -/
def execBfi (f : FmtD) (s : State) : Out :=
  vop3 f bfi s

/-- ICMP (R84): COND[3] selects 64-bit operands. -/
def execIcmp (f : FmtC) (s : State) : Out :=
  .next (s.onIssue fun e => e.mapP f.p.toNat fun l =>
    if bitAt f.k.toNat 3 then cmpTest true 64 (f.k.toNat % 8) (e.i64 f.a l) (e.i64 f.b l)
    else cmpTest true 32 (f.k.toNat % 8) (e.i32 f.a l) (e.i32 f.b l))

/-- NCMP (R84): COND[3] selects 64-bit operands. -/
def execNcmp (f : FmtC) (s : State) : Out :=
  .next (s.onIssue fun e => e.mapP f.p.toNat fun l =>
    if bitAt f.k.toNat 3 then cmpTest false 64 (f.k.toNat % 8) (e.i64 f.a l) (e.i64 f.b l)
    else cmpTest false 32 (f.k.toNat % 8) (e.i32 f.a l) (e.i32 f.b l))

/-- IADD64 (R85). -/
def execIadd64 (f : FmtA) (s : State) : Out :=
  .next (s.onIssue fun e => e.mapV f.n f.d 2 0 fun l => ⟨addW 64 (e.i64 f.a l) (e.i64 f.b l), 0⟩)

/-- ISUB64 (R85). -/
def execIsub64 (f : FmtA) (s : State) : Out :=
  .next (s.onIssue fun e => e.mapV f.n f.d 2 0 fun l => ⟨subW 64 (e.i64 f.a l) (e.i64 f.b l), 0⟩)

/-- IMAD64 (R85). -/
def execImad64 (f : FmtD) (s : State) : Out :=
  .next (s.onIssue fun e => e.mapV 0 f.d 2 0 fun l =>
    ⟨(e.i64 f.a l * e.i64 f.b l + e.old.readVn l f.d.toNat 2) % 2 ^ 64, 0⟩)

/-- SHL64 (R85): the count is a 32-bit operand. -/
def execShl64 (f : FmtA) (s : State) : Out :=
  .next (s.onIssue fun e => e.mapV f.n f.d 2 0 fun l => ⟨shlW 64 (e.i64 f.a l) (e.i32 f.b l), 0⟩)

/-- LEA (R86). -/
def execLea (f : FmtAx) (s : State) : Out :=
  .next (s.onIssue fun e => e.mapV f.n f.d 2 0 fun l => ⟨leaAddr (e.i64 f.a l) (e.i32 f.b l) (payload f.x), 0⟩)

/-- DOT4 (R135). -/
def execDot4 (f : FmtD) (s : State) : Out :=
  vop3 f (fun a b d => wrap 32 (d + dotSum true 8 8 0 a b 4)) s

/-- DOT4N (R135). -/
def execDot4n (f : FmtD) (s : State) : Out :=
  vop3 f (fun a b d => wrap 32 (d + dotSum false 8 8 0 a b 4)) s

/-- DOT8 (R135). -/
def execDot8 (f : FmtD) (s : State) : Out :=
  vop3 f (fun a b d => wrap 32 (d + dotSum true 4 4 0 a b 8)) s

/-- DOT84L (R135). -/
def execDot84l (f : FmtD) (s : State) : Out :=
  vop3 f (fun a b d => wrap 32 (d + dotSum true 8 4 0 a b 4)) s

/-- DOT84H (R135). -/
def execDot84h (f : FmtD) (s : State) : Out :=
  vop3 f (fun a b d => wrap 32 (d + dotSum true 8 4 4 a b 4)) s


end Sys2Proof.Machine
end

