-- ==== Sys2Proof/Machine/Access.lean ====
section
/-!
DEFINITION. What the memory and space words share (R60, R169, R255, R279): the address of a fibre, the per-fibre results of a
load, the check of every fibre before a cut word takes effect.
-/

namespace Sys2Proof.Machine

/-- The signed offset of an M-format word, in units of SIZE (R60). -/
def memOff (o : BitVec 3) (x : Ext) : Int := sext 19 (x.offhi * 8 + o.toNat)

namespace Issue

/-- The base of a fibre's address (R60). -/
def base (e : Issue) (g : Byte) (l : Nat) : Nat :=
  if g.toNat < 0x80 then e.old.readVn l g.toNat 2 else e.old.readS (g.toNat % 64)

/-- The effective address of a fibre for units of `n` bytes (R60). -/
def ea (e : Issue) (g : Byte) (off : Int) (n l : Nat) : Nat := wrap 64 ((e.base g l : Int) + off * n)

end Issue

/-- What the access of one fibre gives: a value with wts of the line read and whether the line is LOCAL, or a fault. -/
inductive LaneRes where
  | ok (v wts : Nat) (loc : Bool)
  | bad (f : FaultInfo)
deriving DecidableEq, Repr

/-- The fault of a result. -/
def LaneRes.fault? : LaneRes → Option FaultInfo
  | .ok _ _ _ => none
  | .bad f => some f

namespace State

/-- The results of a word's access in each of some fibres, in slot order. -/
def eachLane (get : State → Nat → LaneRes × State) : List Nat → State → List (Nat × LaneRes) × State
  | [], s => ([], s)
  | l :: ls, s =>
    let (r, s) := get s l
    let (rs, s) := eachLane get ls s
    ((l, r) :: rs, s)

/-- The faults of LIVE fibres among results (R25, R264). -/
def liveFaults (s : State) (rs : List (Nat × LaneRes)) : List FaultInfo :=
  rs.filterMap fun x => if s.issue.live.contains x.1 then x.2.fault? else none

/-- Raises faults in the order of their fibres. -/
def raise (s : State) (fs : List FaultInfo) : State := s.onIssue fun e => fs.foldl Issue.fault e

/-- Raises the SEEN of the issuing wave (R250); a scout's loads leave nothing behind (R265). -/
def see (s : State) (wts : Nat) : State :=
  if s.issue.scout then s else s.onIssue fun e => { e with cur := { e.cur with seen := max e.cur.seen wts } }

/-- Writes the results of a vector load or atomic (R169, R255): registers unless N = 1, and l2 for up to 64 bits. A
helper's load that would fault gives zero (R25). -/
def putLoads (s : State) (n : Bit) (d : BitVec 7) (size : Nat) (rs : List (Nat × LaneRes)) : State :=
  let k := sizeRegs size
  s.onIssue fun e => rs.foldl (fun e x =>
    let put (v : Nat) : Issue :=
      if size ≤ 3 then e.putV n d.toNat k 2 x.1 v else e.onArch fun a => a.writeVn x.1 d.toNat k v
    match x.2 with
    | .ok v _ _ => put v
    | .bad _ => if e.live.contains x.1 then e else put 0) (if size ≤ 3 then e.clearLatch 2 else e)

/-- The largest wts of some results. -/
def maxWts (rs : List (Nat × LaneRes)) : Nat :=
  rs.foldl (fun m x => match x.2 with
    | .ok _ w _ => max m w
    | .bad _ => m) 0

/-- The scope at which an ordered access orders (R235): .wave when every line it reached is LOCAL. -/
def ordScope (sc : Nat) (rs : List (Nat × LaneRes)) : Nat :=
  if rs.all fun x => match x.2 with
    | .ok _ _ loc => loc
    | .bad _ => true then 0 else sc

/-- Every check of an access in some fibres, in slot order, before any effect (R279). -/
def checkEach {α : Type} (chk : State → Nat → Except FaultInfo α × State) :
    List Nat → State → List (Nat × Except FaultInfo α) × State
  | [], s => ([], s)
  | l :: ls, s =>
    let (r, s) := chk s l
    let (rs, s) := checkEach chk ls s
    ((l, r) :: rs, s)

/-- The access of a fibre that follows its check; a helper's failed check gives a failed access (R25). -/
def afterCheck {α : Type} (rd : State → Nat → α → LaneRes × State) (cs : List (Nat × Except FaultInfo α)) (s : State) (l : Nat) :
    LaneRes × State :=
  match cs.find? fun x => x.1 == l with
  | some (_, .ok a) => rd s l a
  | some (_, .error f) => (.bad f, s)
  | none => (.ok 0 0 true, s)

/-- The faults of LIVE fibres among checks. -/
def checkFaults {α : Type} (s : State) (cs : List (Nat × Except FaultInfo α)) : List FaultInfo :=
  cs.filterMap fun x => match x.2 with
    | .error f => if s.issue.live.contains x.1 then some f else none
    | .ok _ => none

/-- The accesses of a load word in some fibres. A plain one checks and reads fibre by fibre. An ordered one is a cut: every
check comes before every access, and where one fails in a LIVE fibre nothing is read (R279); a .sc form reads after its
release (R250, R252), at the scope that the lines it reaches give. -/
def loads {α : Type} (s : State) (o : BitVec 2) (sc : Nat) (lanes : List Nat) (chk : State → Nat → Except FaultInfo α × State)
    (loc : α → Bool) (rd : State → Nat → α → LaneRes × State) : List (Nat × LaneRes) × State :=
  if o == 0 then
    let (rs, s) := eachLane (fun s l => match chk s l with
      | (.ok a, s) => rd s l a
      | (.error f, s) => (.bad f, s)) lanes s
    (rs, s.raise (s.liveFaults rs))
  else
    let (cs, s) := checkEach chk lanes s
    if !(s.checkFaults cs).isEmpty then ([], s.raise (s.checkFaults cs))
    else
      let near := cs.all fun x => match x.2 with
        | .ok a => loc a
        | .error _ => true
      let s := if o == 3 then s.release (if near then 0 else sc) else s
      let (rs, s) := eachLane (afterCheck rd cs) lanes s
      (rs, s.raise (s.liveFaults rs))

/-- A vector load word (R170, R255): every fibre's access; then, unless it is a cut in which a LIVE fibre faults (R279), the
results and the acquire of an ordered form. -/
def vload {α : Type} (s : State) (f : FmtM) (chk : State → Nat → Except FaultInfo α × State) (loc : α → Bool)
    (rd : State → Nat → α → LaneRes × State) : State :=
  let n := s.issue.faults.length
  let (rs, s) := s.loads f.o f.x.scope s.issue.eff chk loc rd
  if f.o != 0 && s.issue.faults.length != n then s
  else
    let s := (s.putLoads f.n f.d f.s.toNat rs).see (maxWts rs)
    if (f.o == 1 || f.o == 3) && !rs.isEmpty then (s.clampScope f.x.scope).acquire (ordScope f.x.scope rs) else s

/-- The 8-byte address, size and data of a store in its wave's signature (R272). -/
def sigOf (a : Nat) (data : List Byte) : B64 := BitVec.ofNat 64 (crc64 (toBytes 8 a ++ toBytes 1 data.length ++ data))

/-- Adds a store to the region's signature (R272). -/
def sign (s : State) (a : Nat) (data : List Byte) : State :=
  if s.iblk.plevel = 2 then s.onIssue fun e => { e with cur := { e.cur with sig := e.cur.sig + sigOf a data } } else s

/-- The wave runs as a scout (R265). -/
def isScout (s : State) : Bool := s.issue.scout

end State

end Sys2Proof.Machine
end

