-- ==== Sys2Proof/Machine/Group.lean ====
section
/-!
DEFINITION. The words of a chain group as they stand in a packet (R50 to R56, R67), and which fibres of a wave are ready (R26,
R27, R140).
-/

namespace Sys2Proof.Machine

/-- A word of a chain group with its slot, its EXT word and the guard over it (R56, R67). -/
structure GWord where
  slot : Nat
  word : B32
  extw : Option B32 := none
  guard : Option (Nat × Bool) := none
deriving DecidableEq, Repr

/-- The chain bit of a word (R52). -/
def chained (w : B32) : Bool := bitAt w.toNat 31

/-- The words of a chain group from a slot on: up to the first with C = 0 (R52). -/
def groupRaw : List B32 → Nat → List (Nat × B32)
  | [], _ => []
  | w :: r, sl => (sl, w) :: (if chained w then groupRaw r (sl + 1) else [])

/-- The opcode takes an EXT (R68). -/
def takesExt (w : B32) : Bool := extKind (bits w.toNat 24 7) (bits w.toNat 16 7) != 0

/-- The guard over the words after this one (R67). -/
def guardAfter (w : B32) (g : Option (Nat × Bool)) : Option (Nat × Bool) :=
  if bits w.toNat 16 15 = 0x7D09 then some (bits w.toNat 0 4, bitAt w.toNat 4) else g

/-- The words of a chain group, each EXT joined to its word (R56). -/
def groupOf : Option (Nat × Bool) → List (Nat × B32) → List GWord
  | _, [] => []
  | g, [(sl, w)] => [⟨sl, w, none, g⟩]
  | g, (sl, w) :: (sl2, w2) :: rest =>
    if takesExt w && (Ext.of w2).isSome then ⟨sl, w, some w2, g⟩ :: groupOf (guardAfter w g) rest
    else ⟨sl, w, none, g⟩ :: groupOf (guardAfter w g) ((sl2, w2) :: rest)

namespace GWord

/-- The instruction that the word's opcode names, unchecked. -/
def raw (g : GWord) : Option Instr := readWord g.word (g.extw.bind Ext.of)

/-- The word is an EXT that no word before it takes (R55). -/
def stray (g : GWord) : Bool := bits g.word.toNat 24 7 == 0x7F

/-- The word is a GRD. -/
def isGrd (g : GWord) : Bool := bits g.word.toNat 16 15 == 0x7D09

/-- What the word's fields name, as far as its opcode says (R53, R68). -/
def shape (w : Nat) (g : GWord) : Shape :=
  match g.raw with
  | some i => i.shape w
  | none => match bits g.word.toNat 24 7 with
    | 0x79 | 0x7A | 0x7B => { pipes := [.m] }
    | 0x7D => { pipes := [.s] }
    | _ => {}

/-- Two words that may not stand in one group (R55): a pipe in common, a register in common that both write, two GRDs. DESIGN
CHOICE (log entry 138): two words that both name p0 as PD clash, though a write of p0 has no effect (R22, R58). -/
def clash (w : Nat) (a b : GWord) : Bool :=
  let x := a.shape w
  let y := b.shape w
  x.pipes.any y.pipes.contains || x.sw.any y.sw.contains || x.pw.any y.pw.contains || (a.isGrd && b.isGrd) ||
    x.vw.any fun p => y.vw.any fun q => p.1 < q.1 + q.2 && q.1 < p.1 + p.2

/-- The word's own decode fault (R70): ILLEGAL-INSTRUCTION, then ILLEGAL-OPERAND. -/
def fault? (w : Nat) (hdl : Bool) (g : GWord) : Option FClass :=
  match decode (g.word :: g.extw.toList) with
  | .error _ => some .illegalInstruction
  | .ok (i, _) =>
    if i.slot63Only && !hdl then some .illegalInstruction
    else if (i.shape w).ok w then none else some .illegalOperand

/-- The word occupies the M pipe. -/
def isMem (w : Nat) (g : GWord) : Bool := (g.shape w).pipes.contains .m

end GWord

/-- The group has a word that reads a latch (R66). -/
def readsLatch (w : Nat) (ws : List GWord) : Bool := ws.any fun g => !(g.shape w).latchesRead.isEmpty

/-- How the words of a group hold their fibres (R26, R140, R144, R200): 2 for every LIVE fibre below, 1 for those of the
same quad, 0 for none. -/
def holdKind (ws : List GWord) (slow : Bool) : Nat :=
  let is := ws.filterMap GWord.raw
  if is.any fun i => i.isLane || (slow && i.oneStep) then 2 else if is.any Instr.isQuad then 1 else 0

/-- The wave runs in the slow gear. -/
def Wave.isSlow (w : Wave) : Bool :=
  match w.gear with
  | .slow _ _ _ => true
  | .fast | .scout _ => false

/-- The wave runs as a scout (R265). -/
def Wave.isScout (w : Wave) : Bool :=
  match w.gear with
  | .scout _ => true
  | .fast | .slow _ _ _ => false

/-- The shadow sectors that a wave waits for (R368): one that is stopped waits for none. -/
def Wave.shadowWait (w : Wave) : Option Nat :=
  match w.mode, w.hold with
  | .run, some (.shadows n) => some n
  | _, _ => none

/-- The LIVE slots of some registers. -/
def Arch.liveSlots (a : Arch) : List Nat := (List.range 32).filter fun l => (a.fibre l).st == .live

namespace State

/-- The words of the packet at an index, read without a fault, for choices (R26, R66, R140). -/
def peekPacket (s : State) (b : Nat) (ix : B32) : Option (List B32) :=
  let k := s.blk b
  (List.range 3).foldr (fun i r => match r with
    | none => none
    | some ws =>
      let va := (k.codeBase + 12 * ix.toNat + 4 * i) % 2 ^ 64
      match s.walk k.part va with
      | .ok (e, lvl, _) => some (BitVec.ofNat 32 (s.mem.readNat (leafTrans va e (lvl == 2) 0).pa 4) :: ws)
      | .error _ => none) (some [])

/-- The words of the chain group at a PC; none where they cannot be read. -/
def peekGroup (s : State) (b : Nat) (pc : Pc) : List GWord :=
  match s.peekPacket b pc.ix with
  | some ws => groupOf none (groupRaw (ws.drop pc.sl) pc.sl)
  | none => []

/-- The fibre is held at its PC by a LIVE fibre below (R26, R140, R144, R200). -/
def isHeld (s : State) (b : Nat) (w : Wave) (lv : List Nat) (l : Nat) : Bool :=
  let pc := (w.arch.fibre l).pc
  let below := lv.filter fun m => (w.arch.fibre m).pc.key < pc.key
  if below.isEmpty then false
  else match holdKind (s.peekGroup b pc) (Wave.isSlow w) with
    | 2 => true
    | 1 => below.any fun m => m / 4 == l / 4
    | _ => false

/-- The ready fibres of a wave that may issue (R27). -/
def readySlots (s : State) (b : Nat) (w : Wave) : List Nat :=
  let lv := Arch.liveSlots w.arch
  lv.filter fun l => (w.arch.fibre l).blocked.isNone && !s.isHeld b w lv l

/-- Waves of a core with their blocks: those that hold a reservation. -/
def residentWaves (s : State) (c : Nat) : List (Nat × Block × Nat × Wave) :=
  (s.blocks.filter fun x => x.2.core == c && !x.2.handler).flatMap fun x =>
    (List.range x.2.waves.length).filterMap fun i => match s.wave? x.1 i with
      | some w => match w.mode with
        | .ended | .desched _ => none
        | _ => some (x.1, x.2, i, w)
      | none => none

/-- Bytes that a wave reserves in the hold buffer (R156). -/
def reserve (plevel : Nat) : Nat := if plevel = 2 then 16384 else 4096

/-- Bytes that a wave holds. -/
def heldBytes (w : Wave) : Nat := w.held.foldl (fun n h => n + h.data.length) 0

/-- Free bytes of the shared part of a core's hold buffer (R156): held and committed bytes that stand in no reservation of a
resident wave use it. -/
def sharedFree (s : State) (c : Nat) : Nat :=
  let ws := s.residentWaves c
  let shared := 262144 - ws.foldl (fun n x => n + reserve x.2.1.plevel) 0
  let used := ws.foldl (fun n x => x.2.2.2.held.foldl (fun n h => if h.own then n else n + h.data.length) n) 0
  let out := (s.core c).outbox.foldl (fun n r =>
    if r.own && ws.any (fun x => x.1 == r.blk && x.2.2.1 == r.wave) then n else n + r.data.length) 0
  shared - (used + out)

/-- Committed bytes of a wave that still fill its reservation (R156). -/
def ownCommitted (s : State) (c b i : Nat) : Nat :=
  (s.core c).outbox.foldl (fun n r => if r.own && r.blk == b && r.wave == i then n + r.data.length else n) 0

/-- A store word of `n` bytes finds hold room (R156): in the shared part, which no P2 wave uses, or in the wave's
reservation. It waits only while committed bytes of its own wave fill that. -/
def hasRoom (s : State) (c b i : Nat) (w : Wave) (n : Nat) : Bool :=
  let pl := (s.blk b).plevel
  let mine := w.held.foldl (fun n h => if h.own then n + h.data.length else n) 0
  s.ownCommitted c b i == 0 ||
    decide (n ≤ (if pl = 2 then 0 else s.sharedFree c) + (reserve pl - (mine + s.ownCommitted c b i)))

end State

end Sys2Proof.Machine
end

