-- ==== Sys2Proof/Machine/Space.lean ====
section
/-!
DEFINITION. The local array and its spaces (R162 to R177): pinning, space addresses, LDS, STS, LDA, STA, ATOMS, LALLOC and
LQRY.
-/

namespace Sys2Proof.Machine

/-- The way holds a pinned line. -/
def Line.isPinned (l : Line) : Bool :=
  match l.st with
  | .pinned _ _ _ => true
  | .copy _ _ _ _ _ _ _ => false

namespace State

/-- The lines of a core that its blocks may still pin (R164). -/
def freePinnable (s : State) (c : Nat) : Nat := 896 - ((s.core c).lines.filter fun x => x.2.isPinned).length

/-- The line indices a block holds in a space, in rising order. -/
def spaceIxs (s : State) (b space : Nat) : List Nat :=
  (((s.core (s.blk b).core).lines.foldl (fun t x => match x.2.st with
    | .pinned k sp ix => if k = b ∧ sp = space ∧ ix < 1024 then Tab.insert t ix () else t
    | .copy _ _ _ _ _ _ _ => t) ([] : Tab Unit))).map (·.1)

/-- The lowest run of `n` free indices from `lo`, given the indices taken from there on (R175). -/
def freeRun (n : Nat) : List Nat → Nat → Option Nat
  | [], lo => if lo + n ≤ 1024 then some lo else none
  | t :: r, lo => if lo + n ≤ t ∧ lo + n ≤ 1024 then some lo else freeRun n r (t + 1)

/-- The longest run of free indices (R177). -/
def longestRun : List Nat → Nat → Nat
  | [], lo => 1024 - lo
  | t :: r, lo => max (t - lo) (longestRun r (t + 1))

/-- The first set from the cursor with fewer than 14 pinned ways (R164). -/
def pinSet (c : CoreSt) : Nat → Nat → Nat
  | 0, k => k
  | n + 1, k => if (pinnedWays c k).length = 14 then pinSet c n ((k + 1) % 64) else k

/-- PIN_ONE of R164 at line index `ix` of a space. -/
def pinOne (s : State) (b space ix : Nat) : State :=
  let k := s.blk b
  let set := pinSet (s.core k.core) 64 k.cursor
  let way := 16 * set + victim (s.core k.core) set
  ((s.dropWay k.core way).onCore k.core fun c =>
    { c with lines := c.lines.insert way { st := .pinned b space ix } }).onBlk b fun k => { k with cursor := (set + 1) % 64 }

/-- Pins `n` lines from an index. -/
def pinLines (s : State) (b space ix : Nat) : Nat → State
  | 0 => s
  | n + 1 => pinLines (s.pinOne b space ix) b space (ix + 1) n

/-- Unpins the lines of a block that satisfy a test (R165, R176): their ways become invalid. -/
def unpin (s : State) (b : Nat) (p : Nat → Nat → Bool) : State :=
  s.onCore (s.blk b).core fun c => { c with lines := c.lines.filter fun x => match x.2.st with
    | .pinned k sp ix => !(k == b && p sp ix)
    | .copy _ _ _ _ _ _ _ => true }

/-- The byte of a space is at a pinned line (R167). -/
def spaceHas (s : State) (b space ea : Nat) : Bool := ea < 2 ^ 20 && (s.spaceWay b space (ea / 1024)).isSome

/-- One byte of a space (R167). -/
def spaceByte (s : State) (b space ea : Nat) : Byte :=
  match s.spaceWay b space (ea / 1024) with
  | some (_, l) => Memory.readByte l.data (ea % 1024)
  | none => 0

/-- `n` bytes of one line of a space. -/
def spaceRead (s : State) (b space ea n : Nat) : List Byte :=
  match s.spaceWay b space (ea / 1024) with
  | some (_, l) => Memory.read l.data (ea % 1024) n
  | none => List.replicate n 0

/-- Writes bytes into one line of a space; a whole sector written clears its poison (R272). -/
def spaceWrite (s : State) (b space ea : Nat) (data : List Byte) : State :=
  s.onSpaceLine b space (ea / 1024) fun l =>
    { l with
      data := Memory.write l.data (ea % 1024) data
      poison := if ea % 128 = 0 ∧ data.length = 128 then l.poison.erase (ea % 1024 / 128) else l.poison }

/-- A thread's store to a space (R170): the barrier unit tests the waiters on the bytes' barriers (R197). -/
def threadWrite (s : State) (b space ea : Nat) (data : List Byte) : State :=
  let s := s.spaceWrite b space ea data
  if space = 0 then s.testBars b [ea / 16] else s

/-- The sectors that a store word or an engine write has covered whole without poison are clean (R272). -/
def clearSectors (s : State) (b : Nat) (ks : List (Nat × Nat)) : State :=
  ks.foldl (fun s k => s.onSpaceLine b k.1 (k.2 / 8) fun l => { l with poison := l.poison.erase (k.2 % 8) }) s

/-- The sector of a space byte is poisoned (R272). -/
def spacePoison (s : State) (b space ea : Nat) : Bool :=
  match s.spaceWay b space (ea / 1024) with
  | some (_, l) => l.poison.contains (ea % 1024 / 128)
  | none => false

/-- Sets the poison of a space sector (R190). -/
def poisonSpace (s : State) (b space ea : Nat) : State :=
  s.onSpaceLine b space (ea / 1024) fun l =>
    { l with poison := if l.poison.contains (ea % 1024 / 128) then l.poison else l.poison ++ [ea % 1024 / 128] }

/-- Alignment and space of a thread access of `n` bytes by the issuing wave (R167, R170), then poison of a reader (R272). -/
def spaceCheck (s : State) (space ea n : Nat) (rd : Bool) : Option FClass :=
  if ea % n ≠ 0 then some .alignment
  else if !s.spaceHas s.issue.blk space ea then some .space
  else if rd && !s.isScout && s.spacePoison s.issue.blk space ea then some .poison
  else none

/-- The check of LDS or LDA in a fibre (R170): its address. -/
def spaceReach (space : Nat) (f : FmtM) (s : State) (l : Nat) : Except FaultInfo Nat × State :=
  let n := 2 ^ f.s.toNat
  let e := s.issue
  let ea := e.ea f.g (memOff f.e f.x) n l
  match s.spaceCheck space ea n true with
  | some c => (.error { cls := c, kind := .load, lane := l, addr := ea, opa := BitVec.ofNat 64 (e.base f.g l) }, s)
  | none => (.ok ea, s)

/-- The result of LDS or LDA in a fibre (R170). -/
def spaceLoad (space : Nat) (f : FmtM) (s : State) (_l ea : Nat) : LaneRes × State :=
  (.ok (ofBytes (s.spaceRead s.issue.blk space ea (2 ^ f.s.toNat))) 0 false, s)

/-- The shadow sectors that the waves of a core hold (R155). -/
def shadowsUsed (s : State) (c : Nat) : Nat :=
  (s.blocks.filter fun x => x.2.core == c).foldl (fun n x =>
    (List.range x.2.waves.length).foldl (fun n w => match s.wave? x.1 w with
      | some v => n + v.shadows.length
      | none => n) n) 0

/-- A wave may take `n` shadow sectors of its core now (R368): they are free, and no older wave waits for some. A word that
needs none never waits. -/
def shadowRoom (s : State) (c n : Nat) (w : Wave) : Bool :=
  n == 0 || (decide (s.shadowsUsed c + n ≤ 512) &&
    (s.residentWaves c).all fun x => (Wave.shadowWait x.2.2.2).isNone || w.age ≤ x.2.2.2.age)

/-- A region has shadowed a sector of a space address (R155). -/
def isShadowed (w : Wave) (space ea : Nat) : Bool :=
  w.shadows.any fun h => h.space == space && h.ix == ea / 1024 && h.sector == ea % 1024 / 128

/-- Takes a shadow of the sector at a space address, once a region (R155). -/
def shadow (s : State) (space ea : Nat) : State :=
  if isShadowed s.issue.cur space ea then s
  else
    let data := match s.spaceWay s.issue.blk space (ea / 1024) with
      | some (_, l) => Memory.slice l.data (ea % 1024 / 128 * 128) 128
      | none => []
    s.onIssue fun e => { e with cur := { e.cur with
      shadows := e.cur.shadows ++ [{ space := space, ix := ea / 1024, sector := ea % 1024 / 128, data := data
                                     poison := s.spacePoison s.issue.blk space ea }] } }

/-- The distinct sectors of some space addresses that the region has not shadowed yet. -/
def newShadows (w : Wave) (space : Nat) (eas : List Nat) : List Nat :=
  ((eas.filter fun a => !isShadowed w space a).map (· / 128)).eraseDups

/-- STS and STA (R155, R170, R368): every LIVE fibre's check, then each fibre's store in slot order. A plain store that finds
too few free shadow sectors is tried again; a scout stores nothing (R265). -/
def spaceStore (space : Nat) (f : FmtMs) (s : State) : State :=
  let n := 2 ^ f.s.toNat
  let e := s.issue
  let ea (l : Nat) : Nat := e.ea f.g (memOff f.e f.x) n l
  let data (l : Nat) : Nat := e.old.readVn l f.d.toNat (sizeRegs f.s.toNat) % 2 ^ (8 * n)
  let bad := e.effLive.filterMap fun l => (s.spaceCheck space (ea l) n false).map fun c =>
    ({ cls := c, kind := .store, lane := l, addr := ea l, opa := BitVec.ofNat 64 (e.base f.g l)
       opb := BitVec.ofNat 64 (data l) } : FaultInfo)
  let need := if f.o == 0 then (newShadows e.cur space (e.effLive.map ea)).length else 0
  if s.isScout || e.effLive.isEmpty then s
  else if !bad.isEmpty then s.raise bad
  else if !s.shadowRoom e.core need e.cur then s.retry (.shadows need)
  else
    let s := if f.o == 2 || f.o == 3 then s.release f.x.scope else s
    let s := e.effLive.foldl (fun s l =>
      let s := if f.o == 0 then s.shadow space (ea l) else s
      let bs := toBytes n (data l)
      (s.threadWrite e.blk space (ea l) bs).sign (ea l) bs) s
    let s := s.clearSectors e.blk ((wholeIn (e.effLive.map ea) n).map fun k => (space, k))
    if f.o == 3 then s.acquire f.x.scope else s

/-- The data registers of an atomic in a fibre: data and data′ (R172). -/
def rmwData (e : Issue) (d : BitVec 7) (size fn l : Nat) : Nat × Nat :=
  let k := sizeRegs size
  (e.old.readVn l d.toNat k, if fn = 1 then e.old.readVn l (d.toNat + k) k else 0)

/-- ATOMS (R173): every LIVE fibre's check, then the read-modify-writes in slot order. -/
def spaceAtomic (f : FmtM) (s : State) : State :=
  let n := 2 ^ f.s.toNat
  let e := s.issue
  let ea (l : Nat) : Nat := e.ea f.g (memOff f.e f.x) n l
  let bad := e.effLive.filterMap fun l => (s.spaceCheck 0 (ea l) n (f.n == 0)).map fun c =>
    ({ cls := c, kind := .atomic, lane := l, addr := ea l, opa := BitVec.ofNat 64 (e.base f.g l)
       opb := BitVec.ofNat 64 (rmwData e f.d f.s.toNat f.x.func l).1 } : FaultInfo)
  if !bad.isEmpty then s.raise bad
  else if e.effLive.isEmpty then (if f.n == 0 then s.onIssue fun e => e.clearLatch 2 else s)
  else
    let s := if f.o == 2 || f.o == 3 then s.release f.x.scope else s
    let s := if f.n == 0 then s.onIssue fun e => e.clearLatch 2 else s
    let s := e.effLive.foldl (fun s l =>
      let old := s.spaceRead e.blk 0 (ea l) n
      let (d, d2) := rmwData e f.d f.s.toNat f.x.func l
      let r := rmwApply f.x.func f.s.toNat old d d2
      let s := s.threadWrite e.blk 0 (ea l) r.data
      s.onIssue fun e =>
        (if f.n == 0 then e.putV 0 f.d.toNat (sizeRegs f.s.toNat) 2 l r.v else e).addFlags l r.fl) s
    if f.o == 1 || f.o == 3 then s.acquire f.x.scope else s

end State

/-- LDS (R169, R170). -/
def execLds (f : FmtM) (s : State) : Out := .next (s.vload f (State.spaceReach 0 f) (fun _ => false) (State.spaceLoad 0 f))

/-- LDA (R169, R170). -/
def execLda (f : FmtM) (s : State) : Out := .next (s.vload f (State.spaceReach 1 f) (fun _ => false) (State.spaceLoad 1 f))

/-- STS (R169, R170). -/
def execSts (f : FmtMs) (s : State) : Out := .next (s.spaceStore 0 f)

/-- STA (R169, R170). -/
def execSta (f : FmtMs) (s : State) : Out := .next (s.spaceStore 1 f)

/-- ATOMS (R172, R173). -/
def execAtoms (f : FmtM) (s : State) : Out := .next (s.spaceAtomic f)

/-- LALLOC (R175). -/
def execLalloc (f : FmtAbx) (s : State) : Out :=
  let e := s.issue
  let n := e.ss f.a % 2 ^ 32
  let space := bits f.x.p.toNat 4 2
  let pd := bits f.x.p.toNat 0 4
  let answer (s : State) (v : Option Nat) (ok : Bool) : State := s.onIssue fun e =>
    (match v with
     | some x => e.writeS f.b x
     | none => e).mapP pd fun _ => ok
  match e.actor with
  | none => .next s
  | some _ =>
    if s.iblk.pre.isSome then .next (s.retry .lalloc)
    else if n = 0 then .next (answer s none true)
    else
      match if n ≤ s.freePinnable e.core then State.freeRun n (s.spaceIxs e.blk space) 0 else none with
      | some ix => .next (answer (s.pinLines e.blk space ix n) (some (ix * 1024)) true)
      | none => .next (answer s (some (2 ^ 64 - 1)) false)

/-- The word of LQRY (R177). -/
def State.lqryWord (s : State) (b space : Nat) : Nat :=
  let ixs := s.spaceIxs b space
  s.freePinnable (s.blk b).core * 2 ^ 32 + State.longestRun ixs 0 * 2 ^ 16 + ixs.length

/-- LQRY (R177). -/
def execLqry (f : FmtAb) (s : State) : Out :=
  match s.issue.actor with
  | none => .next s
  | some _ =>
    let k := s.issue.ss f.a % 2 ^ 32
    .next (s.onIssue fun e => e.writeS f.b (if k ≤ 2 then s.lqryWord e.blk k else 0))

end Sys2Proof.Machine
end

