-- ==== Sys2Proof/Machine/System.lean ====
section
/-!
DEFINITION. The system registers (R44, R92 to R96): MFS, MTS and CLOCK.
-/

namespace Sys2Proof.Machine

/-- The code of a lane state (R95). -/
def LaneSt.code : LaneSt → Nat
  | .empty => 0
  | .live => 1
  | .helper => 2

/-- WSTAT (R94). -/
def wstatWord (k : Block) (w : Wave) (a : Arch) : Nat :=
  w.slice * 2 ^ 16 + k.w / 8 * 2 ^ 8 + b2n a.vanished * 32 + k.plevel * 8 + b2n k.det * 4 +
    (match w.gear with
     | .slow _ _ _ => 2
     | .fast | .scout _ => 0) + b2n a.clamp

/-- ROLE (R44). -/
def roleWord (w : Wave) : Nat := b2n w.flex * 4 + w.role.code

/-- TPC (R95). -/
def tpcWord (f : Fibre) : Nat := f.st.code * 2 ^ 34 + f.pc.sl * 2 ^ 32 + f.pc.ix.toNat

namespace State

/-- A wave that a handler may examine and restart: it is stopped by a trap, a fault, a HALT or the mailbox (R95, R276). -/
def isHandled (w : Wave) : Bool :=
  match w.mode with
  | .stopped .handler | .stopped .halt | .stopped .mailbox => true
  | _ => false

/-- The wave in wave slot `n` of a core and partition, stopped for its handler. -/
def stoppedAt (s : State) (c p n : Nat) : Option (Nat × Nat) :=
  s.blocks.findSome? fun x =>
    if x.2.core = c ∧ x.2.part = p ∧ !x.2.handler then
      ((List.range x.2.waves.length).find? fun i => match x.2.waves[i]? with
        | some w => w.slot == n && isHandled w
        | none => false).map fun i => (x.1, i)
    else none

/-- The target of the handler run of the issuing core, when TGT.EN is 1 and the wave is stopped for it (R95). -/
def target (s : State) : Option (Nat × Nat) :=
  let t := (s.core s.issue.core).tgt.toNat
  if s.iblk.handler && bitAt t 7 then s.stoppedAt s.issue.core s.ipart (bits t 0 6) else none

/-- TGT.FIBRE. -/
def tgtFibre (s : State) : Nat := bits (s.core s.issue.core).tgt.toNat 8 5
/-- TGT.REG. -/
def tgtReg (s : State) : Nat := bits (s.core s.issue.core).tgt.toNat 16 7

/-- Selectors 0x00 to 0x11 of a wave whose registers are `a`, read in fibre `l` (R92). -/
def sysReg (s : State) (b w : Nat) (a : Arch) (l sel : Nat) : Nat :=
  let k := s.blk b
  let v := (s.wave? b w).getD {}
  let (d, c, _) := s.slotOf k.core
  match sel with
  | 0x00 => l
  | 0x01 => v.slot
  | 0x02 => w * 32 + l
  | 0x03 => k.pt.1
  | 0x04 => k.pt.2.1
  | 0x05 => k.pt.2.2
  | 0x06 => k.gang
  | 0x07 => k.core
  | 0x08 => c
  | 0x09 => d
  | 0x0A => k.part
  | 0x0B => k.launch.toNat
  | 0x0C => roleWord v
  | 0x0D => a.flags.toNat
  | 0x0E => wstatWord k v a
  | 0x0F => k.eff * 8 + k.prio
  | 0x10 => s.pts k.core k.part
  | _ => (s.core k.core).cycle % 2 ^ 64

/-- Selectors 0x20 to 0x23 of a stopped wave (R92, R95). DESIGN CHOICE (log entry 111): TVREG of a register at or beyond
the wave's W reads 0, and a write of it is ignored. -/
def targetReg (s : State) (b w l reg sel : Nat) : Nat :=
  let a := ((s.wave? b w).getD {}).arch
  match sel with
  | 0x20 => a.readS (reg % 64)
  | 0x21 => if reg < (s.blk b).w then a.readV l reg else 0
  | 0x22 => (a.fibre l).pred.toNat ||| 1
  | _ => tpcWord (a.fibre l)

/-- What MFS reads (R92, R95). -/
def mfsVal (s : State) (sel : Nat) : Nat :=
  let e := s.issue
  let c := s.core e.core
  if sel ≤ 0x11 then
    match s.target with
    | some (b, w) => s.sysReg b w ((s.wave? b w).getD {}).arch s.tgtFibre sel
    | none => s.sysReg e.blk e.wv e.old e.low sel
  else if sel = 0x12 then (if s.iblk.handler then c.tgt.toNat else 0)
  else if sel < 0x20 then (if s.iblk.handler then (c.hsave.get 0 (sel - 0x18)).toNat else 0)
  else match s.target with
    | some (b, w) => s.targetReg b w s.tgtFibre s.tgtReg sel
    | none => 0

/-- WSTAT after a write: VANISHED and SCOPE_CLAMP are cleared by ones (R94). -/
def clearStat (v : Nat) (a : Arch) : Arch :=
  { a with vanished := a.vanished && !bitAt v 5, clamp := a.clamp && !bitAt v 0 }

/-- A fibre after a write of TPC (R95): a STATE or SLOT of 3 is ignored. DESIGN CHOICE (log entry 132): a fibre that waits at a
blocking word goes on waiting there while it stays LIVE at its PC, and waits no more otherwise. -/
def writeTpc (v : Nat) (f : Fibre) : Fibre :=
  let st := match bits v 34 2 with
    | 0 => LaneSt.empty
    | 1 => .live
    | 2 => .helper
    | _ => f.st
  let pc : Pc := { ix := BitVec.ofNat 32 (bits v 0 32), sl := if bits v 32 2 = 3 then f.pc.sl else bits v 32 2 }
  { f with st := st, pc := pc, blocked := if pc = f.pc ∧ st = f.st then f.blocked else none }

/-- The waits of a wave in which a fibre still waits (R27). -/
def standing (w : Wave) : List Waiting := w.waits.filter fun x => x.eff.any fun l => (w.arch.fibre l).blocked.isSome

/-- A wave loses the waits in which no fibre waits any more, and the fibres that have left those that stand (R27). -/
def trimWaits (w : Wave) : Wave :=
  { w with waits := (standing w).map fun x => { x with eff := x.eff.filter fun l =>
      (w.arch.fibre l).st != .live || (w.arch.fibre l).blocked.isSome } }

/-- A wave keeps the waits in which a fibre still waits; the others leave their gates (R27, R326). -/
def dropWaits (s : State) (b w : Nat) : State :=
  let gone := ((s.wave? b w).map fun x => x.waits.filter fun y => !(standing x).contains y).getD []
  (gone.foldl leaveGate s).onWave b w trimWaits

/-- Writes selectors 0x20 to 0x23 of a stopped wave (R95). -/
def writeTarget (s : State) (b w l reg sel v : Nat) : State :=
  let win := (s.blk b).w
  let s := s.onWave b w fun x => { x with arch := match sel with
    | 0x20 => x.arch.writeS (reg % 64) v
    | 0x21 => if reg < win then x.arch.writeV l reg v else x.arch
    | 0x22 => x.arch.setFibre l { x.arch.fibre l with pred := BitVec.ofNat 16 v ||| 1 }
    | _ => x.arch.setFibre l (writeTpc v (x.arch.fibre l)) }
  if sel = 0x23 then s.dropWaits b w else s

/-- Writes selectors FLAGS and WSTAT of a stopped wave; the others are read-only (R92, R95). -/
def writeSys (s : State) (b w sel v : Nat) : State :=
  s.onWave b w fun x => { x with arch := match sel with
    | 0x0D => { x.arch with flags := writeFlags (BitVec.ofNat 64 v) }
    | 0x0E => clearStat v x.arch
    | _ => x.arch }

/-- What MTS writes (R92, R95). A write of FLAGS takes its place when the group closes (R93). DESIGN
CHOICE (log entry 140): a write of WSTAT takes its place in the order of the words of the group, before or after an M-pipe word
whose scope is clamped. -/
def mtsWrite (s : State) (sel v : Nat) : State :=
  let e := s.issue
  if sel ≤ 0x11 then
    match s.target with
    | some (b, w) => s.writeSys b w sel v
    | none =>
      if sel = 0x0D then s.onIssue fun e => { e with mts := some (BitVec.ofNat 64 v) }
      else if sel = 0x0E then s.onIssue fun e => e.onArch (clearStat v)
      else s
  else if !s.iblk.handler then s
  else if sel = 0x12 then s.onCore e.core fun c => { c with tgt := BitVec.ofNat 64 v &&& 0x7F1FBF }
  else if sel < 0x20 then s.onCore e.core fun c => { c with hsave := c.hsave.set 0 (sel - 0x18) (BitVec.ofNat 64 v) }
  else match s.target with
    | some (b, w) => s.writeTarget b w s.tgtFibre s.tgtReg sel v
    | none => s

end State

/-- MFS (R92). -/
def execMfs (f : FmtMfs) (s : State) : Out :=
  let v := s.mfsVal f.f.toNat
  .next (s.onIssue fun e => e.putS f.n f.d 3 v)

/-- MTS (R92): nothing when it takes effect in no LIVE fibre (R25, R67). -/
def execMts (f : FmtMts) (s : State) : Out :=
  if s.issue.effLive.isEmpty then .next s else .next (s.mtsWrite f.f.toNat (s.issue.ss f.a))

/-- CLOCK (R96): in a P2 pair the twin takes the primary's count (R272). -/
def execClock (f : FmtClk) (s : State) : Out :=
  match s.asPrimary fun s => ([(s.core s.issue.core).cycle % 2 ^ 64], s) with
  | none => .next (s.retry .value)
  | some (vs, s) => .next (s.onIssue fun e => e.putS f.n f.d 3 (vs.headD 0))

end Sys2Proof.Machine
end

