-- ==== Sys2Proof/Machine/Stop.lean ====
section
/-!
DEFINITION. Stops (R159, R268, R273 to R276): kills, stopped contexts, precise faults, fault batches and the ends of
handler runs, each once for all that cause it.
-/

namespace Sys2Proof.Machine

/-- The wave has ended (R31). -/
def Wave.isEnded (w : Wave) : Bool :=
  match w.mode with
  | .ended => true
  | _ => false

/-- A wave ended by a kill: its open region is not committed (R273). -/
def Wave.kill (w : Wave) : Wave :=
  { w with mode := .ended, held := [], shadows := [], heldIn := [], sigIn := 0, waits := [], gear := .fast, first := none, single := false }

/-- A wave that has stopped (R159, R273). -/
def Wave.stop (why : StopWhy) (w : Wave) : Wave := { w with mode := .stopped why, single := false }

/-- A wave that something other than its own word stops (R151, R159, R275): a descheduled one keeps its phase record and stands
stopped once it is back (R34). -/
def Wave.stopFor (why : StopWhy) (w : Wave) : Wave :=
  match w.mode with
  | .run | .asleep _ => w.stop why
  | .desched _ => { w with stopAs := some why }
  | .stopped _ | .ended => w

/-- Stops the firing of a frontier launch of which a block was killed (R306). -/
def Launch.kill (l : Launch) : Launch :=
  { l with killed := true, frontier := l.frontier.map fun f => { f with stopped := true, faulted := true } }

/-- The wave goes on issuing unless it is stopped: it has not ended and is not stopped. -/
def Wave.isLoose (w : Wave) : Bool :=
  match w.mode with
  | .ended | .stopped _ => false
  | _ => true

/-- The classes whose records always kill (R273). -/
def FClass.alwaysKills : FClass → Bool
  | .noConverge | .silent | .poison => true
  | _ => false

namespace State

/-- Changes a launch (R289). -/
def onLaunch (s : State) (p n : Nat) (f : Launch → Launch) : State :=
  s.onPart p fun x => { x with launches := Tab.modify f x.launches n }

/-- The gates for which a wave waits lose that waiter (R326). -/
def leaveGatesOf (s : State) (b i : Nat) : State :=
  (((s.wave? b i).map (·.waits)).getD []).foldl leaveGate s

/-- The gates for which the waves of a block wait lose those waiters (R326). -/
def leaveGates (s : State) (b : Nat) : State :=
  (List.range (s.blk b).waves.length).foldl (fun s i => s.leaveGatesOf b i) s

/-- No handler run is due any more for the waves of a block. -/
def dropHandlers (s : State) (b : Nat) : State :=
  let k := s.blk b
  let s := s.onCore k.core fun c => { c with hpend := c.hpend.filter fun h => h.blk != b }
  s.onPart k.part fun x => { x with recWait := x.recWait.map fun r => match r.handler with
    | some (_, h) => if h.blk = b then { r with handler := none } else r
    | none => r }

/-- The chunks of the save pool that a block holds, reserved or as phase records, are free (R308). -/
def dropChunks (s : State) (b : Nat) : State :=
  let k := s.blk b
  let ds := (List.range k.waves.length).filterMap fun i => match (s.wave? b i).map (·.mode) with
    | some (WaveMode.desched c) => some (c, 1)
    | _ => none
  let rs := match k.pre with
    | some p => (p.chunk, p.chunks) :: ds
    | none => ds
  s.onPart k.part fun x => { x with chunks := x.chunks.filter fun r => !rs.contains r }

/-- Kills one block (R273): its waves end uncommitted, its copies' space accesses and barrier counts are dropped, its
sequencer stops, its lines are unpinned, its launch carries ERR. -/
def killOne (s : State) (b : Nat) : State :=
  match s.blk? b with
  | none => s
  | some k =>
    if k.killed then s
    else
      let s := ((s.leaveGates b).dropHandlers b).dropChunks b
      let s := s.onWaves b fun _ => Wave.kill
      let s := s.unpin b fun _ _ => true
      let s := s.onCore k.core fun c => { c with
        copies := (c.copies.filter fun x => !(x.2.blk == b && x.2.st == .suspended)).map fun x =>
          if x.2.blk = b then (x.1, { x.2 with dropped := true, detached := true }) else x }
      let s := s.onBlk b fun k => { k with
        killed := true, pre := none, ask := none, seqr := { k.seqr with st := .idle, mma := none, epi := none, land := none, asleep := none } }
      s.onLaunch k.part k.launch.toNat Launch.kill

/-- Kills a block and its twin (R273). -/
def killBlock (s : State) (b : Nat) : State :=
  match (s.blk b).twin with
  | some t => (s.killOne b).killOne t
  | none => s.killOne b

/-- The twin of a block has a record that kills them both (R272, R273). -/
def twinDoomed (s : State) (b : Nat) : Bool :=
  match (s.blk b).twin with
  | some t => (s.blk t).doomed
  | none => false

/-- A wave stands still until the record that kills its block is written; a descheduled wave stands still as it is. -/
def freeze (w : Wave) : Wave :=
  match w.mode with
  | .run | .asleep _ => w.stop .record
  | .stopped _ | .desched _ | .ended => w

/-- Queues a record after which a block is killed with its twin (R267, R270, R273); until it is written their waves stand
still. -/
def pushKill (s : State) (b : Nat) (data : List Byte) : State :=
  let k := s.blk b
  let s := if s.twinDoomed b then s
    else (s.onPart k.part fun x => { x with recWait := x.recWait ++ [⟨data, none, some b⟩] }).onBlk b fun k => { k with doomed := true }
  let halt (s : State) (b : Nat) : State := s.onWaves b fun _ => freeze
  match k.twin with
  | some t => halt (halt s b) t
  | none => halt s b

/-- Queues the record of a wave's fault, after which its block is killed (R271, R273). -/
def waveKill (s : State) (b w : Nat) (precise : Bool) (f : FaultInfo) : State :=
  let k := s.blk b
  let slot := ((s.wave? b w).map (·.slot)).getD 0
  s.pushKill b (recordBytes k.part precise k.handler 1 k slot k.core (s.pts k.core k.part) f)

/-- PA of a partition's mailbox (R276). -/
def mboxPa (s : State) (p : Nat) : Nat := bits (s.part p).mbox.toNat 12 40 * 2 ^ 12

/-- The record with its SEQ (R271): the records that the partition has written before it. -/
def withSeq (s : State) (p : Nat) (r : List Byte) : List Byte := r.take 22 ++ toBytes 2 (s.part p).recSeq ++ r.drop 24

/-- Counts a record that a partition has written (R271). -/
def countRecord (s : State) (p : Nat) : State := s.onPart p fun x => { x with recSeq := (x.recSeq + 1) % 65536 }

/-- A core puts a record into the mailbox's stop record (R276). -/
def putStop (s : State) (c p : Nat) (r : List Byte) : State :=
  (s.placeStore (s.coreDie c) p (s.mboxPa p + 0xF00) ((s.withSeq p r).take 64) 0).2

/-- A core writes the stop record of the mailbox (R276). -/
def stopRecord (s : State) (c p : Nat) (r : List Byte) : State := (s.putStop c p r).countRecord p

/-- A wave of a context that stops (R159, R275): rolled back to its region entry, a stopped one too, and at full speed. -/
def stopBack (s : State) (b i : Nat) : State :=
  match s.wave? b i with
  | none => s
  | some v => match v.mode with
    | .ended => s
    | .desched _ => s.onWave b i (Wave.stopFor .context)
    | .run | .asleep _ | .stopped _ => (s.rollback b i).onWave b i fun w => { w.stopFor .context with gear := .fast }

/-- Stops a partition's context (R159, R275): every wave but `me` is rolled back and stands stopped. -/
def stopContext (s : State) (p : Nat) (me : Nat × Nat) : State :=
  let s := s.onPart p fun x => { x with stopped := true }
  s.blocks.foldl (fun s x =>
    if x.2.part ≠ p then s
    else (List.range x.2.waves.length).foldl (fun s i =>
      if (x.1, i) == me then s else s.stopBack x.1 i) s) s

/-- A fault, trap or assert of a handler wave (R275): its record, and the context stops. A fetch fault of the first packet
is class HANDLER-FETCH. -/
def handlerFault (s : State) (b w : Nat) (precise : Bool) (f : FaultInfo) : State :=
  let k := s.blk b
  let g : FaultInfo :=
    if f.kind = .fetch ∧ f.pc = {} then { cls := .handlerFetch, kind := .fetch, addr := k.codeBase }
    else { f with cls := .handler, code := f.cls.code }
  let s := s.waveRecord b w precise g none
  let r := recordBytes k.part precise true 1 k 63 k.core (s.pts k.core k.part) g
  let s := s.putStop k.core k.part r
  (s.stopContext k.part (b, w)).onWave b w (Wave.stop .context)

/-- The HANDLER bit of a partition (R274). -/
def handlerBit (s : State) (p i : Nat) : Bool := bitAt (s.part p).handler.toNat i

/-- Stops a wave and queues its record, after which a handler run serves it (R273, R274). -/
def stopForHandler (s : State) (b w : Nat) (f : FaultInfo) : State :=
  (s.waveRecord b w true f (some ((s.blk b).core, ⟨b, w, 0, [], 0⟩))).onWave b w (Wave.stop .handler)

/-- TRAP and BKPT (R159, R274): the wave stops for the handler, or the block is killed where the handler is not enabled. -/
def trapWave (s : State) (b w : Nat) (f : FaultInfo) : State :=
  let k := s.blk b
  if k.handler then s.handlerFault b w true f
  else if s.handlerBit k.part 3 then s.stopForHandler b w f
  else s.waveKill b w true f

/-- A precise fault of a wave (R273): the handler runs or the block is killed. -/
def preciseFault (s : State) (b w : Nat) (f : FaultInfo) : State :=
  let k := s.blk b
  if k.handler then s.handlerFault b w true f
  else if !FClass.alwaysKills f.cls && s.handlerBit k.part 3 && s.handlerBit k.part 5 then s.stopForHandler b w f
  else s.waveKill b w true f

/-- A fault that stops the whole block (R31, R151, R189, R224): with the handler its waves stop, else the block is killed. -/
def blockFault (s : State) (b w : Nat) (r : List Byte) : State :=
  let k := s.blk b
  if s.handlerBit k.part 3 && s.handlerBit k.part 5 then
    let s := s.pushRecord k.part r (some (k.core, ⟨b, w, 0, [], 0⟩))
    s.onWaves b fun _ => Wave.stopFor .handler
  else s.pushKill b r

/-- Kills a block with a record that always kills (R273): PRECISE tells that it comes from the slow gear (R271). -/
def killWith (s : State) (b w : Nat) (f : FaultInfo) : State :=
  s.waveKill b w (((s.wave? b w).map Wave.isSlow).getD false) f

/-- The entries of a BATCH record after the first (R268): eight page words each. -/
def pageWords (pages : List (Nat × Bool)) : List Byte :=
  let ws := pages.flatMap fun p => toBytes 8 (p.1 * 2 ^ 16 + b2n p.2)
  ws ++ List.replicate (roundUp ws.length 64 - ws.length) 0

/-- A BATCH record (R268, R369). -/
def batchBytes (k : Block) (wslot ltime batch handle : Nat) (precise : Bool) (f : FaultInfo) (pages : List (Nat × Bool)) :
    List Byte :=
  recordBytes k.part precise k.handler (1 + (pages.length + 7) / 8) k wslot k.core ltime
    { cls := .batch, kind := f.kind, lane := f.lane, pc := f.pc, wslot := f.wslot, addr := f.addr
      word := BitVec.ofNat 32 pages.length, extw := BitVec.ofNat 32 handle, code := batch } ++ pageWords pages

/-- Opens a fault batch (R268): its number, its record queued, its sleeper asleep on it. -/
def openBatch (s : State) (b wslot handle : Nat) (precise : Bool) (f : FaultInfo) (pages : List (Nat × Bool)) (who : Sleeper) :
    Nat × State :=
  let k := s.blk b
  let n := (s.part k.part).batchNo
  let s := s.pushRecord k.part (batchBytes k wslot (s.pts k.core k.part) n handle precise f pages) none
  (n, s.onPart k.part fun x =>
    { x with batchNo := (n + 1) % 65536, batches := x.batches.insert n ⟨pages.map (·.1), [who]⟩ })

/-- A wave sleeps on a batch (R268). -/
def waveBatch (s : State) (b w : Nat) (precise : Bool) (f : FaultInfo) (pages : List (Nat × Bool)) : State :=
  let slot := ((s.wave? b w).map (·.slot)).getD 0
  let (n, s) := s.openBatch b slot 0 precise f pages (.wave b w)
  s.onWave b w fun x => { x with mode := .asleep n }

/-- A VANISHED record (R270, R278). -/
def vanished (s : State) (b w : Nat) (f : FaultInfo) : State :=
  let c := (s.blk b).core
  ((s.waveRecord b w false { f with cls := .vanished, code := f.cls.code + 256 * f.code } none).onCore c fun k =>
    { k with vanishCnt := k.vanishCnt + 1 }).onWave b w fun x => { x with arch := { x.arch with vanished := true } }

/-- A doorbell run of a partition is over (R276, R334): DOOR returns to 0, with interrupt 2. -/
def lowerDoor (s : State) (p : Nat) : State :=
  { s.onPart p fun x => { x with mbox := x.mbox &&& ~~~1#64 } with msi := s.msi ++ [(p, 2)] }

/-- A handler run ends (R160, R274, R276): its wave's region commits, its block goes, and a doorbell run lowers DOOR and
interrupts. -/
def endHandler (s : State) (c : Nat) : State :=
  match (s.core c).hrun with
  | some (b, h) =>
    let p := (s.blk b).part
    let s := (s.commit b 0).onCore c fun k => { k with hrun := none }
    let s := { s with blocks := s.blocks.erase b, issue := if s.issue.on && s.issue.blk == b then {} else s.issue }
    if h.code = 0xFFFE then s.lowerDoor p else s
  | none => s

end State

end Sys2Proof.Machine
end

