-- ==== Sys2Proof/Machine/Control.lean ====
section
/-!
DEFINITION. Control flow, phases and stops (R145 to R160): branches, FORK, EXIT, BAR and the completion of a phase, YIELD,
CUT, PRE, GRD, ASSERT, TRAP, BKPT, HALT, RFE, ROLEQ.
-/

namespace Sys2Proof.Machine

/-- A packet index moved by a signed offset, modulo 2^32 (R51). -/
def branchTo (ix : B32) (off : Int) : B32 := BitVec.ofNat 32 (wrap 32 ((ix.toNat : Int) + off))

/-- BRA or CALL takes the branch in a fibre (R146). -/
def branchTaken (e : Issue) (f : FmtB) (l : Nat) : Bool := e.old.readP l f.p.toNat != (f.s == 1)

/-- Marks fibres as taking a branch (R146): only LIVE fibres have a PC (R25). -/
def takeBranches (e : Issue) (ls : List Nat) (t : Nat → B32) : Issue :=
  { e with taken := e.taken ++ (ls.filter e.live.contains).map fun l => (l, t l) }

/-- Writes the link, the packet index after the branch's own, in some fibres (R146). -/
def writeLinks (e : Issue) (ls : List Nat) (k : Nat) : Issue :=
  e.onArch fun a => ls.foldl (fun a l => a.writeV l k ((e.pc.ix.toNat + 1) % 2 ^ 32)) a

/-- BRA (R146). -/
def execBra (f : FmtB) (s : State) : Out :=
  .next (s.onIssue fun e =>
    takeBranches e (e.eff.filter (branchTaken e f)) fun _ => branchTo e.pc.ix (sext 19 f.o.toNat))

/-- CALL (R146): the link goes to v(W−1) where the branch is taken. -/
def execCall (f : FmtB) (s : State) : Out :=
  let w := s.iblk.w
  .next (s.onIssue fun e =>
    let ls := e.eff.filter (branchTaken e f)
    takeBranches (writeLinks e ls (w - 1)) ls fun _ => branchTo e.pc.ix (sext 19 f.o.toNat))

/-- A jump to a packet index in a register of each fibre (R146). -/
def jump (a : Byte) (e : Issue) : Issue := takeBranches e e.eff fun l => BitVec.ofNat 32 (e.i32 a l)

/-- BRX (R146). -/
def execBrx (f : FmtAb) (s : State) : Out := .next (s.onIssue (jump f.a))

/-- RET (R146): its effect is that of BRX. -/
def execRet (f : FmtAb) (s : State) : Out := .next (s.onIssue (jump f.a))

/-- CALLX (R146). -/
def execCallx (f : FmtAb) (s : State) : Out :=
  .next (s.onIssue fun e => jump f.a (writeLinks e e.eff f.b.toNat))

/-- The lowest EMPTY lane slot (R24). -/
def emptySlot (a : Arch) : Option Nat := (List.range 32).find? fun l => (a.fibre l).st == .empty

/-- FORK in one fibre (R147): the registers after it, and what l3 takes. -/
def forkOne (w : Nat) (e : Issue) (f : FmtAb) (a : Arch) (l : Nat) : Arch × Nat :=
  let t := e.i32 f.a l
  let base := e.i32 f.b l
  if base % 8 ≠ 0 ∨ 32 * w < base + w then (a, 2 ^ 64 - 2)
  else match emptySlot a with
    | none => (a, 2 ^ 64 - 1)
    | some n =>
      let x : Fibre := { st := .live, pc := ⟨BitVec.ofNat 32 t, 0⟩, pred := (e.old.fibre l).pred, wb := base }
      ((List.range 4).foldl (fun a k => a.clearL n k) (a.setFibre n x), n)

/-- FORK (R147): one fibre for each LIVE fibre in which it takes effect, in slot order. -/
def execFork (f : FmtAb) (s : State) : Out :=
  let w := s.iblk.w
  .next (s.onIssue fun e => e.effLive.foldl (fun e l =>
    let (a, v) := forkOne w e f e.cur.arch l
    { e with cur := { e.cur with arch := a.writeL l 3 v } })
    (e.onArch fun a => (e.lanes.filter fun l => !e.effLive.contains l).foldl (fun a l => a.clearL l 3) a))

/-- EXIT of one fibre (R24): HELPER while another slot of its quad is LIVE, else EMPTY with the quad's helpers. -/
def exitOne (a : Arch) (l : Nat) : Arch :=
  let quad := (List.range 4).map (· + l / 4 * 4)
  let set (a : Arch) (k : Nat) (st : LaneSt) : Arch := a.setFibre k { a.fibre k with st := st, blocked := none, wait := 0 }
  if quad.any fun k => k != l && (a.fibre k).st == .live then set a l .helper
  else quad.foldl (fun a k => if k = l ∨ (a.fibre k).st = .helper then set a k .empty else a) a

/-- EXIT (R148). -/
def execExit (_f : FmtAb) (s : State) : Out :=
  .next (s.onIssue fun e => e.onArch fun a => e.effLive.foldl exitOne a)

/-- NOP (R57). -/
def execNop (_f : FmtC0) (s : State) : Out := .next s

/-- CUT (R158): its commit comes before it. -/
def execCut (_f : FmtAb) (s : State) : Out := .next s

/-- GRD (R67, R149): guards the words chained after it. -/
def execGrd (f : FmtAb) (s : State) : Out :=
  .next (s.onIssue fun e => { e with guard := some (f.b.toNat % 16, bitAt f.b.toNat 4) })

/-- ROLEQ (R150). -/
def execRoleq (f : FmtAb) (s : State) : Out :=
  let b := f.b.toNat
  .next (s.onIssue fun e => e.mapP (bits b 4 4) fun _ =>
    if bitAt b 3 then e.cur.flex else e.cur.role == Role.ofCode (bits b 0 2))

/-- A LIVE fibre that can issue (R27): it is not blocked. -/
def Fibre.isOpen (f : Fibre) : Bool := f.st == .live && f.blocked.isNone

/-- A wave that has a ready fibre (R27, R268). -/
def Wave.canIssue (w : Wave) : Bool :=
  match w.mode with
  | .run => w.arch.fib.any Fibre.isOpen
  | _ => false

/-- The mask of a wait at a BAR. -/
def WaitKind.barMask? : WaitKind → Option Nat
  | .bar m => some m
  | _ => none

/-- The carry mask of the BAR at which a wave waits. -/
def Wave.barMask (w : Wave) : Nat := (w.waits.findSome? fun x => WaitKind.barMask? x.kind).getD 0

/-- The LIVE fibres of a wave that wait at a BAR. -/
def Wave.atBar (w : Wave) : List Nat := (List.range 32).filter fun l =>
  (w.arch.fibre l).st == .live && w.waits.any fun x => (WaitKind.barMask? x.kind).isSome && x.eff.contains l

/-- A wave has arrived when all of its LIVE fibres wait at a BAR (R151). -/
def Wave.arrived (w : Wave) : Bool := let ls := Arch.liveSlots w.arch; !ls.isEmpty && ls.all (Wave.atBar w).contains

/-- The carry set of a wave (R33): the registers that the mask's groups name in the windows of LIVE and HELPER slots. -/
def carried (win mask : Nat) (a : Arch) (r : Nat) : Bool :=
  (List.range 32).any fun l =>
    let f := a.fibre l
    f.st != .empty && f.wb ≤ r && r < f.wb + win && bitAt mask ((r - f.wb) / 8)

/-- The registers of a wave after the carry of its BAR (R33); each fibre stands after the BAR, its latches out of reach. -/
def carry (win mask : Nat) (a : Arch) : Arch :=
  { a with
    v := a.v.filter fun x => carried win mask a x.1
    lat := []
    fib := a.fib.map fun f => match f.blocked with
      | some pc => { f with pc := pc, blocked := none }
      | none => f }

/-- A marked FLEX wave takes its other role and its LIVE fibres resume at that role's entry (R43). -/
def takeRole (w : Wave) : Wave :=
  if w.mark then
    let load := w.role != .load
    { w with
      role := if load then .load else .vec, mark := false
      arch := { w.arch with fib := w.arch.fib.map fun f =>
        if f.st = .live then { f with pc := ⟨if load then w.loadPc else w.entryPc, 0⟩ } else f } }
  else w

/-- A wave released from a completed BAR (R33, R43, R112, R151, R158): carry, engine flags, role; the new region starts
here. With a pre-emption pending the wave stops (R309). -/
def leaveBar (win : Nat) (pend : Bool) (w : Wave) : Wave :=
  if Wave.isEnded w then w
  else
    let mask := Wave.barMask w
    let a := carry win mask w.arch
    let w := takeRole { w with
      arch := { a with flags := orFlags a.flags w.engFl }, engFl := 0, waits := [], live := none, forced := none, atPhase := true, phaseMask := mask % 2 ^ (win / 8) }
    let w := { w with entry := w.arch, pkts := 0 }
    if pend then { w with mode := .stopped (.preempt 1) } else w

namespace State

/-- The waves of a block that have a ready fibre (R26, R27, R140), in rising order. -/
def readyWaves (s : State) (b : Nat) : List Nat :=
  (List.range (s.blk b).waves.length).filter fun i => match s.wave? b i with
    | some w => Wave.canIssue w && !(s.readySlots b w).isEmpty
    | none => false

/-- The baton of a DET block goes to its lowest-indexed ready wave (R45): at a YIELD, other than the yielder `but`, which keeps
it where there is none. Where no wave is ready the baton waits for the first that becomes so. -/
def passBaton (s : State) (b : Nat) (but : Option Nat) : State :=
  match (s.readyWaves b).filter fun i => but != some i with
  | i :: _ => s.onBlk b fun k => { k with baton := i }
  | [] => if but.isSome then s else s.onBlk b fun k => { k with baton := 16 }

/-- A wave has come to a blocking wait (R27, R45): it runs, and each of its fibres waits or is held (R26, R140). -/
def comesToWait (s : State) (b w : Nat) : Bool :=
  match s.wave? b w with
  | some v => (match v.mode, v.gear, v.hold with
      | .run, .fast, none | .run, .slow _ none _, none => true
      | _, _, _ => false) && !(Arch.liveSlots v.arch).isEmpty && (s.readySlots b v).isEmpty
  | none => false

/-- A baton that waits, or whose holder has come to wait, goes to the lowest-indexed ready wave (R45). -/
def settleBaton (s : State) (b : Nat) : State :=
  if (s.blk b).det && (16 ≤ (s.blk b).baton || s.comesToWait b (s.blk b).baton) then s.passBaton b none else s

/-- A wave yields (R45, R152): in DET the baton passes to another ready wave, else the wave takes a new age. -/
def yieldWave (s : State) (b w : Nat) : State :=
  if (s.blk b).det then s.passBaton b (some w)
  else { s with nextAge := s.nextAge + 1 }.onWave b w fun v => { v with age := s.nextAge }

/-- The block is in DET mode and the wave holds its baton (R45). -/
def hasBaton (s : State) (b w : Nat) : Bool := (s.blk b).det && (s.blk b).baton == w

/-- No further wave of a block stops for its pre-emption now (R309): one is stopped for the handler, the context is STOPPED, or
the sequencer is FAULTED. -/
def stopHeld (s : State) (b : Nat) : Bool :=
  (s.part (s.blk b).part).stopped || (s.blk b).seqr.st == .faulted ||
    (List.range (s.blk b).waves.length).any fun i => ((s.wave? b i).map (·.mode)) == some (.stopped .handler)

/-- The waves of a block stop at the events of R309 now: it is pending and nothing holds that off. -/
def stopping (s : State) (b : Nat) : Bool := (s.blk b).pre.isSome && !s.stopHeld b

/-- The record of a wave's armed-flag TRAP (R93, R369). -/
def armedTrap (w : Wave) (flags : Nat) (word : B32) (slot : Nat) : FaultInfo :=
  let l := (Wave.atBar w).headD 0
  { cls := .trap, lane := l, pc := (w.arch.fibre l).pc, wslot := slot, word := word, code := flags }

/-- The word in a packet of a block's code, read from memory without a fault (R50): for records that name it. -/
def codeWord (s : State) (b : Nat) (pc : Pc) (slot : Nat) : B32 :=
  let k := s.blk b
  match s.walk k.part ((k.codeBase + 12 * pc.ix.toNat + 4 * slot) % 2 ^ 64) with
  | .ok (e, lvl, _) =>
    let va := (k.codeBase + 12 * pc.ix.toNat + 4 * slot) % 2 ^ 64
    BitVec.ofNat 32 (s.mem.readNat (leafTrans va e (lvl == 2) 0).pa 4)
  | .error _ => 0

/-- The slot of the BAR in the group at a PC (R145, R369). -/
def barSlot (s : State) (b : Nat) (pc : Pc) : Nat :=
  ((List.range 3).find? fun i => pc.sl ≤ i && bits (s.codeWord b pc i).toNat 16 15 == 0x7D06).getD pc.sl

/-- The phase of a block completes (R151): every wave leaves its BAR; waves whose armed flags are set trap (R93). -/
def phaseComplete (s : State) (b : Nat) : State :=
  let k := s.blk b
  let traps : List (Nat × FaultInfo) := (List.range k.waves.length).filterMap fun i => match s.wave? b i with
    | some w =>
      let fl := armedFlags (orFlags w.arch.flags w.engFl)
      if Wave.isEnded w || fl == 0 then none
      else
        let pc := (w.arch.fibre ((Wave.atBar w).headD 0)).pc
        let sl := s.barSlot b pc
        some (i, armedTrap w fl (s.codeWord b pc sl) sl)
    | none => none
  let s := s.onWaves b fun _ => leaveBar k.w (s.stopping b && traps.isEmpty)
  let s := s.settleBaton b
  match traps with
  | [] => s
  | (i, f) :: rest =>
    if k.handler then s.handlerFault b i true f
    else if s.handlerBit k.part 3 then
      let s := traps.foldl (fun s x => s.waveRecord b x.1 true x.2 (some (k.core, ⟨b, x.1, 0, [], 0⟩))) s
      s.onWaves b fun _ => Wave.stopFor .handler
    else rest.foldl (fun s x => s.waveKill b x.1 true x.2) (s.waveKill b i true f)

/-- PC fields of a record's operand (R369): packet index and slot. -/
def pcWord (p : Pc) : B64 := BitVec.ofNat 64 (p.ix.toNat + p.sl * 2 ^ 32)

/-- The two lowest PCs at which a wave's fibres wait, when they differ (R151). -/
def twoPcs (w : Wave) : Option (Pc × Pc) :=
  let ps := (Arch.liveSlots w.arch).map fun l => (w.arch.fibre l).pc
  match ps with
  | [] => none
  | p :: r =>
    let lo := r.foldl (fun m q => if q.key < m.key then q else m) p
    match ps.filter fun q => q != lo with
    | [] => none
    | q :: t => some (lo, t.foldl (fun m q => if q.key < m.key then q else m) q)

/-- The test of a phase after a wave of the block has arrived or ended (R151): fibres of one wave at different BARs stop the
block; else, when every wave that has not ended has arrived, the phase completes. -/
def barTest (s : State) (b : Nat) : State :=
  let k := s.blk b
  let ws := (List.range k.waves.length).filterMap fun i => (s.wave? b i).map fun w => (i, w)
  match ws.find? fun x => Wave.arrived x.2 && (twoPcs x.2).isSome with
  | some (i, w) =>
    let (lo, hi) := (twoPcs w).getD ({}, {})
    let l := ((Arch.liveSlots w.arch).find? fun l => (w.arch.fibre l).pc == lo).getD 0
    let sl := s.barSlot b lo
    let f : FaultInfo := { cls := .barrier, lane := l, pc := lo, wslot := sl, word := s.codeWord b lo sl, opa := pcWord hi }
    s.blockFault b i (recordBytes k.part true k.handler 1 k w.slot k.core (s.pts k.core k.part) f)
  | none =>
    let live := ws.filter fun x => !Wave.isEnded x.2
    if !live.isEmpty && live.all fun x => Wave.arrived x.2 then s.phaseComplete b else s

/-! ### The sequencer's stop -/

/-- The stream address of the word at WPOS (R214). -/
def seqAt (q : Seqr) : Nat := wrap 64 ((q.sa.toNat : Int) + 8 * sext 32 q.wpos.toNat)

/-- The stream word at an address, read without a fault, for records and choices. -/
def peekStream (s : State) (p va : Nat) : Option B64 :=
  match s.walk p va with
  | .ok (e, lvl, _) => some (BitVec.ofNat 64 (s.mem.readNat (leafTrans va e (lvl == 2) 0).pa 8))
  | .error _ => none

/-- The wave that a sequencer's record names (R112, R369). -/
def seqWave (s : State) (b : Nat) : Option Nat :=
  let k := s.blk b
  (k.seqr.flagWave :: List.range k.waves.length).find? fun i => ((s.wave? b i).map fun x => !Wave.isEnded x).getD false

/-- What a sequencer's record holds (R224, R369): `w` the stream word, none where its fetch faulted. -/
def seqInfo (q : Seqr) (c : FClass) (w : Option B64) : FaultInfo :=
  let x := (w.getD 0).toNat
  { cls := c, kind := .mstream, addr := (seqAt q), word := BitVec.ofNat 32 x, extw := BitVec.ofNat 32 (x / 2 ^ 32)
    opa := BitVec.ofNat 64 q.wpos.toNat, page := (seqAt q) / 2 ^ 16 }

/-- A block stops with a record of its sequencer (R31, R224, R273). -/
def seqStop (s : State) (b : Nat) (f : FaultInfo) : State :=
  let k := s.blk b
  let i := s.seqWave b
  let slot := ((i.bind fun i => s.wave? b i).map (·.slot)).getD 0
  let r := recordBytes k.part true k.handler 1 k slot k.core (s.pts k.core k.part) f
  match i with
  | some i => s.blockFault b i r
  | none => s.pushKill b r

/-- An operation under way of a sequencer may still arrive on a numbered barrier (R31). -/
def mayArrive (q : Seqr) (nb : Nat) : Bool :=
  (match q.mma with
   | some o => bitAt o.word.toNat 10 && bits o.word.toNat 6 4 == nb
   | none => false) ||
  (match q.epi with
   | some o => bitAt o.word.toNat 23 && bits o.word.toNat 19 4 == nb
   | none => false)

/-- Every wave of a block has ended. -/
def allEnded (s : State) (b : Nat) : Bool :=
  (List.range (s.blk b).waves.length).all fun i => ((s.wave? b i).map Wave.isEnded).getD true

/-- A sequencer that waits at MWAIT when the last wave ends, or comes to wait when nothing can arrive any more, stops its
block (R31). -/
def seqStuck (s : State) (b : Nat) (last : Bool) : State :=
  let q := (s.blk b).seqr
  match q.st with
  | .waiting nb =>
    if s.allEnded b && !(s.blk b).doomed && !q.woken && (last || !mayArrive q nb) then
      s.seqStop b (seqInfo q .barrier (s.peekStream (s.blk b).part (seqAt q)))
    else s
  | _ => s

/-- A held group waits as R27 or LALLOC does (R309). -/
def Hold.waits : Hold → Bool
  | .slot _ | .seal _ | .lfree _ _ _ _ | .lalloc => true
  | .shadows _ | .value | .sign | .room _ | .oplog => false

/-- The wait is one for an entry of the launch pool (R295). -/
def WaitKind.isPool : WaitKind → Bool
  | .launch _ _ _ _ | .waitchPool _ _ => true
  | _ => false

/-- A wait that a stop as WAIT or FORCED leaves standing: for an entry of the launch pool (R295), or for the answer of a RATOM,
which is never applied twice (R342) and for which the save waits (R310). -/
def WaitKind.stands : WaitKind → Bool
  | .ratom _ _ _ => true
  | k => WaitKind.isPool k

/-- A wave is blocked by R27 or at LALLOC (R309): no LIVE fibre is ready, each waits or is held (R26, R140), and not all that
wait are at a BAR. One in the slow gear or asleep is not. -/
def waitBlocked (s : State) (b : Nat) (w : Wave) : Bool :=
  match w.mode with
  | .run =>
    !Wave.isSlow w && ((w.hold.map Hold.waits).getD false ||
      (s.readySlots b w).isEmpty && w.waits.any fun x => (WaitKind.barMask? x.kind).isNone)
  | _ => false

/-- A wave stopped as WAIT (R309): its fibres stand at their waiting words, which they will issue again, but for those of a wait
that stands. -/
def stopAsWait (w : Wave) : Wave :=
  let keep := w.waits.filter fun x => WaitKind.stands x.kind
  let free (x : Fibre × Nat) : Fibre := if keep.any fun y => y.eff.contains x.2 then x.1 else { x.1 with blocked := none }
  let a := { w.arch with fib := w.arch.fib.zipIdx.map free }
  { w with mode := .stopped (.preempt 2), arch := a, entry := a, hold := none, waits := keep }

/-- A wave of a pending block that is, or has become, blocked stops (R309). -/
def settleWait (s : State) (b i : Nat) : State :=
  match s.wave? b i with
  | some w => if s.stopping b && s.waitBlocked b w then (s.leaveGatesOf b i).onWave b i stopAsWait else s
  | none => s

/-- A wave ends when it has no LIVE slot (R31): its region commits, and the phase and the baton are looked at. -/
def endWave (s : State) (b i : Nat) : State :=
  let det := s.hasBaton b i
  let s := (s.commit b i).onWave b i fun w => { w with mode := .ended, waits := [], single := false }
  let s := if det then s.passBaton b none else s
  (s.barTest b).seqStuck b true

/-- Lanes of the bundle as a mask (R369). -/
def bundleMask (e : Issue) : Nat := e.lanes.foldl (fun m l => m + 2 ^ l) 0

/-- The record of a TRAP, BKPT, HALT or ASSERT (R369): `l` its fibre. -/
def stopInfo (e : Issue) (c : FClass) (l code : Nat) (opa : B64) : FaultInfo :=
  { cls := c, lane := l, pc := e.pc, wslot := e.wslot, word := e.word, opa := opa
    opb := BitVec.ofNat 64 (bundleMask e), code := code }

/-- Blocks the LIVE fibres in which the present word takes effect, to wait for something (R27). -/
def wait (s : State) (k : WaitKind) : State :=
  let (n, s) := s.takeOrder
  s.onIssue fun e => { e with
    blocked := e.blocked ++ e.effLive
    cur := { e.cur with waits := e.cur.waits ++ [{ kind := k, eff := e.eff, order := n }] } }

/-- The failing LIVE fibres of an ASSERT (R159). -/
def assertFails (e : Issue) (b : Nat) : List Nat :=
  e.effLive.filter fun l => e.old.readP l (b % 16) == bitAt b 4

/-- The 64 bytes of a record of the issuing wave. -/
def issueRecord (s : State) (f : FaultInfo) : List Byte :=
  let k := s.iblk
  recordBytes k.part true k.handler 1 k s.issue.cur.slot k.core (s.pts k.core k.part) f

end State

/-- BAR (R151): the LIVE fibres in which it takes effect wait; the wave's committed stores reach visibility first. -/
def execBar (f : FmtAb) (s : State) : Out :=
  if s.issue.effLive.isEmpty then .next s
  else .next ((s.release 1).wait (.bar (f.a.toNat * 256 + f.b.toNat)))

/-- YIELD (R45, R152): the wave yields once its group's effects stand. -/
def execYield (_f : FmtAb) (s : State) : Out :=
  if s.issue.effLive.isEmpty then .next s else .next (s.onIssue fun e => { e with yielded := true })

/-- A range word of a liveness map as it is kept: a malformed one is SPACE 3 (R158). -/
def rangeWord (x : Nat) : B32 :=
  if bits x 27 3 ≠ 0 ∨ bits x 10 6 ≠ 0 ∨ 1024 < bits x 16 11 then 0xC0000000 else BitVec.ofNat 32 x

/-- PRE (R158): records the liveness map; with a pre-emption pending, whose commit came before it, the wave stops after it
(R309). -/
def execPre (f : FmtAbo) (s : State) : Out :=
  if s.issue.effLive.isEmpty then .next s
  else
    let p := payload f.x
    let mask := (f.a.toNat * 256 + f.b.toNat) % 2 ^ (s.iblk.w / 8)
    let pend := s.stopping s.issue.blk
    .next (s.onIssue fun e =>
      let v := e.old.readS (p % 64)
      let (r0, r1) := if bitAt p 6 then (rangeWord (v % 2 ^ 32), rangeWord (v / 2 ^ 32)) else (0xC0000000, 0xC0000000)
      { e with cur := { e.cur with
          live := some (BitVec.ofNat 16 mask, r0, r1)
          mode := if pend then .stopped (.preempt 0) else e.cur.mode } })

/-- ASSERT (R159): where it fails in a LIVE fibre the context stops. -/
def execAssert (f : FmtAb) (s : State) : Out :=
  let e := s.issue
  match State.assertFails e f.b.toNat with
  | [] => .next s
  | l :: _ =>
    let i := State.stopInfo e .assert l 0 (BitVec.ofNat 64 (e.old.readS (f.a.toNat % 64)))
    if s.iblk.handler then .next (s.handlerFault e.blk e.wv true i)
    else
      let s := s.stopRecord s.issue.core s.ipart (s.issueRecord i)
      .next ((s.stopContext s.ipart (e.blk, e.wv)).onWave e.blk e.wv (Wave.stop .context))

/-- A word that stops its wave for the handler (R159). -/
def stopWord (c : FClass) (f : FmtAb) (s : State) : Out :=
  let e := s.issue
  if e.effLive.isEmpty then .next s
  else .next (s.trapWave e.blk e.wv (State.stopInfo e c (e.live.headD 0) (f.a.toNat * 256 + f.b.toNat) 0))

/-- TRAP (R159). -/
def execTrap (f : FmtAb) (s : State) : Out := stopWord .trap f s

/-- BKPT (R159). -/
def execBkpt (f : FmtAb) (s : State) : Out := stopWord .bkpt f s

/-- HALT (R159): the block's waves stop and the mailbox takes the record; in slot 63 the handler's run ends. DESIGN CHOICE (log
entry 96): the open regions of the block's other waves stay open, neither committed nor rolled back. -/
def execHalt (_f : FmtAb) (s : State) : Out :=
  let e := s.issue
  if e.effLive.isEmpty then .next s
  else if s.iblk.handler then .next (s.endHandler e.core)
  else
    let i := { State.stopInfo e .trap (e.live.headD 0) 0 0 with word := 0x7D0E0000 }
    .next ((s.stopRecord s.issue.core s.ipart (s.issueRecord i)).onWaves e.blk fun _ => Wave.stopFor .halt)

/-- The wave that RFE restarts goes on from the state the handler left in it (R160), in a new region, its open one having been
committed; with HANDLER.STEP for one slow-gear step (R274). -/
def State.restart (step : Bool) (w : Wave) : Wave :=
  { w with
    mode := .run, single := step, gear := if step then .slow 0 none [] else .fast
    arch := { w.arch with lat := [] }, entry := { w.arch with lat := [] }, pkts := 0, forced := none, hold := none
    cutDone := none, heldIn := [], sigIn := 0 }

/-- A wave that its handler or the monitor restarts (R160): its open region commits first; it may have no LIVE slot left, and it
has arrived or not as its fibres now stand (R31, R151). -/
def State.resumeWave (s : State) (b w : Nat) (step : Bool) : State :=
  let s := (s.commit b w).onWave b w (State.restart step)
  if ((s.wave? b w).map fun v => (Arch.liveSlots v.arch).isEmpty).getD false then s.endWave b w else s.barTest b

/-- RFE (R160, R274): restarts wave TGT.WSLOT where it is stopped for this handler, and ends the run. -/
def execRfe (_f : FmtAb) (s : State) : Out :=
  let e := s.issue
  if e.effLive.isEmpty then .next s
  else
    let p := s.ipart
    match s.stoppedAt e.core p (bits (s.core e.core).tgt.toNat 0 6) with
    | some (b, w) =>
      let step := s.handlerBit p 4
      let s := (s.resumeWave b w step).onPart p fun x => { x with handler := x.handler &&& ~~~16#64 }
      .next (s.endHandler e.core)
    | none => .next (s.endHandler e.core)

end Sys2Proof.Machine
end

