-- ==== Sys2Proof/Machine/Sync.lean ====
section
/-!
DEFINITION. Transaction barriers, numbered barriers and stage rings (R196 to R208), and the return of a waiting bundle
(R27).
-/

namespace Sys2Proof.Machine

/-- The barrier that a copy names (R179, R346): its S-space address over 16. -/
def Copy.tbar? (c : Copy) : Option Nat :=
  let p := c.ext.toNat
  if c.fn = 0x19 then none
  else if c.fn = 0x18 then (if bitAt p 16 then none else some (bits p 0 16))
  else if bitAt p 20 then none else some (bits p 0 16)

/-- A copy is in flight: it is neither done nor faulted (R188). -/
def Copy.inFlight (c : Copy) : Bool :=
  match c.st with
  | .done | .faulted => false
  | _ => true

/-- A slot published on a barrier phase becomes FULL (R198, R201, R205). -/
def Ring.fill (bar : Nat) (phase : Option Bool) (err : Bool) (r : Ring) : Ring :=
  { r with st := r.st.map fun x => match x.2 with
    | .pubw b p => if b = bar ∧ (phase = none ∨ phase = some p) then (x.1, .full err) else x
    | _ => x }

/-- The address of a slot: home slot i by key i, pool slot j by key 64 + j (R203). -/
def slotAddr (r : Ring) (p : Pool) (key : Nat) : Nat :=
  if key < 64 then r.base + key * r.size * 128 else p.base + (key - 64) * p.size * 128

/-- The key of the slot of a ring that starts at an address (R205). -/
def slotKey (r : Ring) (p : Pool) (a : Nat) : Option Nat :=
  ((List.range r.slots) ++ (List.range p.count).map (· + 64)).find? fun k => slotAddr r p k = a

/-- The number of slots of a ring in some state. -/
def Ring.count (r : Ring) (f : SlotSt → Bool) : Nat := (r.st.filter fun x => f x.2).length

/-- The pool slots that a ring holds (R204). -/
def Ring.lent (r : Ring) : Nat := (r.st.filter fun x => 64 ≤ x.1).length

/-- FULL slots of a ring (R206). -/
def Ring.full (r : Ring) : Nat := r.count fun x => match x with
  | .full _ => true
  | _ => false

/-- The word of RQRY (R206). -/
def Ring.word (r : Ring) : Nat :=
  let home := (r.st.filter fun x => x.1 < 64).length
  let held := r.count fun x => match x with
    | .held | .pubw _ _ => true
    | _ => false
  2 ^ 47 * b2n (bitAt r.phase r.acq) + 2 ^ 40 * r.count (· == .taken) + 2 ^ 32 * r.acq + 2 ^ 24 * r.lent +
    2 ^ 16 * (r.slots - home) + 2 ^ 8 * held + r.full

namespace State

/-! ### Returns of waiting bundles -/

/-- Changes the registers of a wave both as they are and in the checkpoint: the effect of a cut point that lies behind. -/
def onBoth (s : State) (b w : Nat) (f : Arch → Arch) : State :=
  s.onWave b w fun x => { x with arch := f x.arch, entry := f x.entry }

/-- A waiting bundle goes on after its word (R27). -/
def resume (ls : List Nat) (a : Arch) : Arch :=
  ls.foldl (fun a l => match (a.fibre l).blocked with
    | some pc => a.setFibre l { a.fibre l with pc := pc, blocked := none, wait := 0 }
    | none => a) a

/-- A waiting bundle returns (R27): its scalar and predicate results are written and its fibres go on. -/
def finishWait (s : State) (b w : Nat) (x : Waiting) (sd : Option (Nat × Nat)) (pd : Option (Nat × Bool)) : State :=
  let write (a : Arch) : Arch :=
    let a := match sd with
      | some (k, v) => a.writeS k v
      | none => a
    match pd with
    | some (p, v) => x.eff.foldl (fun a l => a.writeP l p v) a
    | none => a
  (s.onBoth b w fun a => resume x.eff (write a)).onWave b w fun v => { v with waits := v.waits.erase x }

/-- The waits of a wave that can return: it is neither stopped nor ended. -/
def openWaits (s : State) (b w : Nat) : List Waiting :=
  match s.wave? b w with
  | some x => if Wave.isLoose x then x.waits else []
  | none => []

/-! ### Transaction barriers -/

/-- Writes a barrier (R197): no shadow of the sector puts its 16-byte part back. -/
def setTbar (s : State) (b ea : Nat) (t : TBar) : State :=
  (s.spaceWrite b 0 ea (toBytes 16 t.word)).onWaves b fun _ w => { w with shadows := w.shadows.map fun h =>
    if h.space = 0 ∧ h.ix = ea / 1024 ∧ h.sector = ea % 1024 / 128 then { h with skip := ea % 128 / 16 :: h.skip } else h }

/-- CHECK_DONE (R198). -/
def checkDone (s : State) (b ea : Nat) : State :=
  let t := s.tbar b ea
  if t.remain = 0 ∧ t.counted then
    let n := t.next
    ((s.setTbar b ea n).wake b fun _ x => match x.kind with
      | .bwait a q _ => if a = ea ∧ q = t.phase then some (!(n.err || n.inv)) else none
      | _ => none).onBlk b fun k => { k with rings := k.rings.map (Ring.fill (ea / 16) (some t.phase) n.err) }
  else s

/-- COUNT of R198 for a copy that names a barrier. -/
def countBytes (s : State) (c : Copy) (core n : Nat) (err poison : Bool) : State :=
  match c.tbar? with
  | none => s
  | some t =>
    let ea := 16 * t
    let x := s.tbar c.blk ea
    if c.detached || x.expect == 0 || x.inv || !s.spaceHas c.blk 0 ea then
      s.onCore core fun k => { k with cpyLate := k.cpyLate + 1 }
    else
      let x := { x with pending := wrap 32 ((x.pending : Int) - n), err := x.err || err || poison, poison := x.poison || poison }
      (s.setTbar c.blk ea x).checkDone c.blk ea

/-- The fault of a once-per-bundle member: `l` its acting fibre. -/
def memberFault (c : FClass) (l addr opa opb : Nat) : FaultInfo :=
  { cls := c, lane := l, addr := addr, opa := BitVec.ofNat 64 opa, opb := BitVec.ofNat 64 opb }

/-- Alignment and space of a barrier address of the issuing block (R200). -/
def barCheck (s : State) (ea : Nat) : Option FClass :=
  if ea % 16 ≠ 0 then some .alignment else if !s.spaceHas s.issue.blk 0 ea then some .space else none

/-- A member on a barrier (R200, R201): the address checks, BARRIER where it must be initialised and is not, then its effect
`f` of the barrier, which may raise BARRIER. -/
def barMember (s : State) (a : Byte) (b : Option Byte) (init : Bool) (f : State → Nat → Nat → Nat → TBar → Option State) : Out :=
  match s.issue.actor with
  | none => .next s
  | some l =>
    let ea := s.issue.ss a
    let n := (b.map s.issue.ss).getD 0
    match s.barCheck ea with
    | some c => .next (s.raise [memberFault c l ea ea n])
    | none =>
      let t := s.tbar s.issue.blk ea
      if init && !t.ready then .next (s.raise [memberFault .barrier l ea ea n])
      else match f (s.release 1) s.issue.blk ea (n % 2 ^ 32) t with
        | some s' => .next s'
        | none => .next (s.raise [memberFault .barrier l ea ea n])

/-- The blocks of the gang of a block, its own among them, that a multicast of it writes (R191). -/
def gangOf (s : State) (b : Nat) : List Nat :=
  let k := s.blk b
  (s.blocks.filter fun x => x.2.part == k.part && x.2.launch == k.launch && x.2.gang == k.gang && !x.2.handler &&
    x.2.primary == k.primary).map (·.1)

/-- A copy in flight names the barrier of the block and is not detached from it (R201): one of the block, or a multicast of
its gang, which names the barrier of every block (R183). -/
def copyNames (s : State) (b ea : Nat) : Bool :=
  s.cores.any fun k => k.2.copies.any fun x => x.2.inFlight && x.2.tbar? == some (ea / 16) &&
    if x.2.blk = b then !x.2.detached else x.2.fn == 2 && !x.2.detIn.contains b && (s.gangOf x.2.blk).contains b

/-- Detaches every copy in flight that names a barrier of a block from it (R201). -/
def detach (s : State) (b ea : Nat) : State :=
  let f (c : Copy) : Copy :=
    if !c.inFlight || c.tbar? != some (ea / 16) then c
    else if c.blk = b then { c with detached := true }
    else if c.fn == 2 && (s.gangOf c.blk).contains b then { c with detIn := b :: c.detIn.filter (· != b) } else c
  { s with cores := s.cores.map fun k => (k.1, { k.2 with copies := k.2.copies.map fun x => (x.1, f x.2) }) }

/-- A wave of the block waits on the barrier (R201): one that has been woken waits no more. -/
def barWaited (s : State) (b ea : Nat) : Bool :=
  (s.blockWaits b).any fun x => match x.2.kind with
    | .bwait a _ _ => a == ea && x.2.woken.isNone
    | _ => false

/-! ### Numbered barriers -/

/-- Bit `k` of the wait parities of a wave (R202). -/
def wpBit (s : State) (b w k : Nat) : Bool :=
  match s.wave? b w with
  | some x => x.wp.getLsbD k
  | none => false

/-- An arrival on a numbered barrier of a block (R202). -/
def nbArrive (s : State) (b k : Nat) : State :=
  let x := (s.blk b).nb.getD k {}
  let flip := x.remain ≤ 1
  let y : NBar := if flip then { x with remain := x.expect, phase := !x.phase } else { x with remain := x.remain - 1 }
  let s := s.onBlk b fun c => { c with nb := c.nb.set k y }
  if flip then
    (s.wake b fun i w => match w.kind with
      | .nbwait j => if j = k ∧ (s.wpBit b i k) ≠ y.phase then some true else none
      | _ => none).onBlk b fun c =>
        if c.seqr.st = .waiting k ∧ c.seqr.sp.getLsbD k ≠ y.phase then { c with seqr := { c.seqr with woken := true } } else c
  else s

/-- Flips wait parity `k` of a wave (R202). -/
def flipWp (s : State) (b w k : Nat) : State := s.onWave b w fun x => { x with wp := x.wp ^^^ (1#16 <<< k) }

/-! ### Rings -/

/-- A ring of a block; an undeclared one has no slot. -/
def ring (s : State) (b k : Nat) : Ring := (s.blk b).rings.getD k {}

/-- Changes a ring. -/
def onRing (s : State) (b k : Nat) (f : Ring → Ring) : State :=
  s.onBlk b fun c => { c with rings := c.rings.set k (f (c.rings.getD k {})) }

/-- The lowest free pool slot of a block (R205). -/
def freePool (s : State) (b : Nat) : Option Nat :=
  (List.range (s.blk b).pool.count).find? fun j => (s.blk b).rings.all fun r => (r.st.find (64 + j)).isNone

/-- The slot that RACQ would take (R205). -/
def acqSlot (s : State) (b k : Nat) : Option Nat :=
  let r := s.ring b k
  if (r.st.find r.acq).isNone then some r.acq
  else if r.lent < r.lend then (s.freePool b).map (· + 64) else none

/-- RACQ takes a slot (R205): its address. -/
def takeSlot (s : State) (b k key : Nat) : Nat × State :=
  let r := s.ring b k
  let r' : Ring := if key < 64 then { r with phase := r.phase ^^^ 2 ^ key, acq := (r.acq + 1) % r.slots } else r
  (slotAddr r (s.blk b).pool key, s.onRing b k fun _ => { r' with st := r'.st.insert key .held, queue := r'.queue ++ [key] })

/-- The oldest slot of a ring's queue, when it is FULL: its key and ERR (R205). -/
def headFull (s : State) (b k : Nat) : Option (Nat × Bool) :=
  let r := s.ring b k
  match r.queue with
  | key :: _ => match r.st.find key with
    | some (.full err) => some (key, err)
    | _ => none
  | [] => none

/-- RTAKE takes the oldest slot (R205): its result. -/
def popSlot (s : State) (b k key : Nat) (err : Bool) : Nat × State :=
  (slotAddr (s.ring b k) (s.blk b).pool key + 2 ^ 63 * b2n err,
   s.onRing b k fun r => { r with st := r.st.insert key .taken, queue := r.queue.drop 1 })

/-- A RACQ of the block that waits and must be served before a new one on ring `k` (R200, R205). -/
def racqAhead (s : State) (b k : Nat) (before : Option Nat) : Bool :=
  (s.blockWaits b).any fun x => match x.2.kind with
    | .racq j _ => (j == k || ((s.ring b k).st.find (s.ring b k).acq).isSome && (s.acqSlot b j).isSome) &&
        (match before with
         | none => true
         | some n => x.2.order < n)
    | _ => false

/-- An RTAKE of the block that waits on a ring before a given one (R200). -/
def rtakeAhead (s : State) (b k : Nat) (before : Option Nat) : Bool :=
  (s.blockWaits b).any fun x => match x.2.kind with
    | .rtake j _ => j == k && (match before with
        | none => true
        | some n => x.2.order < n)
    | _ => false

/-- A ring member (R205): RING for a number above 7 or a ring with no slot; then its effect, which may raise a fault. -/
def ringMember (s : State) (a : Byte) (b : Option Byte) (f : State → Nat → Nat → Nat → Except FClass State) : Out :=
  match s.issue.actor with
  | none => .next s
  | some l =>
    let k := s.issue.ss a % 2 ^ 32
    let v := (b.map s.issue.ss).getD 0
    if 7 < k ∨ (s.ring s.issue.blk k).slots = 0 then .next (s.raise [memberFault .ring l 0 (s.issue.ss a) v])
    else match f (s.release 1) s.issue.blk k v with
      | .ok s' => .next s'
      | .error c => .next (s.raise [memberFault c l 0 (s.issue.ss a) v])

/-- Writes PD of every fibre in which the member takes effect (R200). -/
def putPd (s : State) (pd : Nat) (v : Bool) : State := s.onIssue fun e => e.mapP pd fun _ => v

end State

/-- BINIT (R201). -/
def execBinit (f : FmtAb) (s : State) : Out :=
  s.barMember f.a (some f.b) false fun s b ea n t =>
    if s.barWaited b ea || t.pending != 0 || s.copyNames b ea || n == 0 || 65535 < n then none
    else some (s.setTbar b ea { remain := n, expect := n })

/-- BEXP (R201). -/
def execBexp (f : FmtAb) (s : State) : Out :=
  s.barMember f.a (some f.b) true fun s b ea n t =>
    if t.inv then some s
    else
      let x := sext 32 t.pending + n
      some (s.setTbar b ea { t with pending := wrap 32 x, err := t.err || decide ((2 ^ 31 : Nat) - 1 < x) })

/-- BARV (R201). -/
def execBarv (f : FmtAb) (s : State) : Out :=
  s.barMember f.a (some f.b) true fun s b ea n t =>
    if n = 0 ∨ 65535 < n then none
    else if t.inv then some s
    else some ((s.setTbar b ea { t with remain := t.remain - n, err := t.err || decide (t.remain < n) }).checkDone b ea)

/-- BWAIT (R201). -/
def execBwait (f : FmtAbx) (s : State) : Out :=
  s.barMember f.a (some f.b) true fun s _ ea n t =>
    let q := n % 2 == 1
    if t.phase == q && !t.inv then some (s.wait (.bwait ea q (pdOf f.x)))
    else some (s.putPd (pdOf f.x) (!(t.err || t.inv)))

/-- BTRY (R201). -/
def execBtry (f : FmtAbx) (s : State) : Out :=
  s.barMember f.a (some f.b) true fun s _ _ n t =>
    some (s.putPd (pdOf f.x) (t.phase != (n % 2 == 1) && !(t.err || t.inv)))

/-- BINV (R201). -/
def execBinv (f : FmtAb) (s : State) : Out :=
  s.barMember f.a none true fun s b ea _ t =>
    if t.inv then some s
    else
      let s := (s.setTbar b ea { t with inv := true }).wake b fun _ x => match x.kind with
        | .bwait a _ _ => if a = ea then some false else none
        | _ => none
      some ((s.detach b ea).onBlk b fun k => { k with rings := k.rings.map (Ring.fill (ea / 16) none true) })

/-- A member on a numbered barrier (R202). -/
def nbMember (f : FmtAb) (g : State → Nat → State) (s : State) : Out :=
  match s.issue.actor with
  | none => .next s
  | some l =>
    let k := f.b.toNat % 16
    if (s.iblk.nb.getD k {}).expect = 0 then .next (s.raise [State.memberFault .barrier l 0 0 0])
    else .next (g (s.release 1) k)

/-- NBARV (R202). -/
def execNbarv (f : FmtAb) (s : State) : Out := nbMember f (fun s k => s.nbArrive s.issue.blk k) s

/-- NBWAIT (R202). -/
def execNbwait (f : FmtAb) (s : State) : Out :=
  nbMember f (fun s k =>
    if (s.iblk.nb.getD k {}).phase == s.issue.cur.wp.getLsbD k then s.wait (.nbwait k)
    else s.flipWp s.issue.blk s.issue.wv k) s

/-- RACQ (R205). -/
def execRacq (f : FmtAb) (s : State) : Out :=
  s.ringMember f.a none fun s b k _ =>
    match if s.racqAhead b k none then none else s.acqSlot b k with
    | some key => let (a, s) := s.takeSlot b k key; .ok (s.onIssue fun e => e.writeS f.b a)
    | none => .ok (s.wait (.racq k (scalarOf f.b)))

/-- RPUB (R205): the ring checks, the slot check, the barrier's initialisation. -/
def execRpub (f : FmtAbo) (s : State) : Out :=
  let p := payload f.x
  let onb := bitAt p 16
  let ea := bits p 0 16 * 16
  match s.issue.actor with
  | none => .next s
  | some l =>
    match if onb then s.barCheck ea else none with
    | some c => .next (s.raise [State.memberFault c l ea (s.issue.ss f.a) (s.issue.ss f.b)])
    | none => s.ringMember f.a (some f.b) fun s b k a =>
        let r := s.ring b k
        match slotKey r (s.blk b).pool a with
        | none => .error .ring
        | some key =>
          if r.st.find key ≠ some .held then .error .ring
          else
            let put (x : SlotSt) : State := s.onRing b k fun r => { r with st := r.st.insert key x }
            if !onb then .ok (put (.full false))
            else
              let t := s.tbar b ea
              if !t.ready then .error .barrier
              else if t.inv then .ok (put (.full true))
              else .ok (put (.pubw (ea / 16) t.phase))

/-- RTAKE (R205). -/
def execRtake (f : FmtAb) (s : State) : Out :=
  s.ringMember f.a none fun s b k _ =>
    match if s.rtakeAhead b k none then none else s.headFull b k with
    | some (key, err) => let (v, s) := s.popSlot b k key err; .ok (s.onIssue fun e => e.writeS f.b v)
    | none => .ok (s.wait (.rtake k (scalarOf f.b)))

/-- RREL (R205). -/
def execRrel (f : FmtAb) (s : State) : Out :=
  s.ringMember f.a (some f.b) fun s b k a =>
    let r := s.ring b k
    match slotKey r (s.blk b).pool a with
    | none => .error .ring
    | some key =>
      if r.st.find key ≠ some .taken then .error .ring
      else .ok (s.onRing b k fun r => { r with st := r.st.erase key })

/-- RQRY (R206). -/
def execRqry (f : FmtAb) (s : State) : Out :=
  s.ringMember f.a none fun s b k _ => .ok (s.onIssue fun e => e.writeS f.b (s.ring b k).word)

/-- BWAIT_WAKE (R201): a BWAIT that the barrier unit has woken returns. -/
def execBwaitWake (blk wave : Nat) (s : State) : Out :=
  match (s.openWaits blk wave).findSome? fun x => match x.kind with
    | .bwait _ _ pd => x.woken.map fun v => (x, pd, v)
    | _ => none with
  | some (x, pd, v) => .next (s.finishWait blk wave x none (some (pd, v)))
  | none => .next s

/-- NBWAIT_WAKE (R202): an NBWAIT whose barrier has flipped returns, and WP flips. -/
def execNbwaitWake (blk wave : Nat) (s : State) : Out :=
  match (s.openWaits blk wave).findSome? fun x => match x.kind with
    | .nbwait k =>
      if x.woken.isSome || ((s.blk blk).nb.getD k {}).phase != s.wpBit blk wave k then some (x, k)
      else none
    | _ => none with
  | some (x, k) => .next ((s.finishWait blk wave x none none).flipWp blk wave k)
  | none => .next s

/-- RTAKE_WAKE (R205): the RTAKE that has waited longest on its ring takes the oldest slot once it is FULL. -/
def execRtakeWake (blk wave : Nat) (s : State) : Out :=
  match (s.openWaits blk wave).findSome? fun x => match x.kind with
    | .rtake k sd =>
      if s.rtakeAhead blk k (some x.order) then none
      else (s.headFull blk k).map fun h => (x, k, sd, h)
    | _ => none with
  | some (x, k, sd, (key, err)) =>
    let (v, s) := s.popSlot blk k key err
    .next (s.finishWait blk wave x (some (sd, v)) none)
  | none => .next s

/-- RACQ_WAKE (R205): the RACQ that has waited longest takes a slot that has become free. -/
def execRacqWake (blk wave : Nat) (s : State) : Out :=
  match (s.openWaits blk wave).findSome? fun x => match x.kind with
    | .racq k sd =>
      if s.racqAhead blk k (some x.order) then none
      else (s.acqSlot blk k).map fun key => (x, k, sd, key)
    | _ => none with
  | some (x, k, sd, key) =>
    let (v, s) := s.takeSlot blk k key
    .next (s.finishWait blk wave x (some (sd, v)) none)
  | none => .next s

end Sys2Proof.Machine
end

