-- ==== Sys2Proof/Machine/Issue.lean ====
section
/-!
DEFINITION. Issue (R26 to R30, R50 to R56, R64 to R67, R70): the fetch and the checks of a chain group, the bundle, what
follows when the group has run; commits (R153, R154, R272), scouts (R264, R265), the slow gear (R269, R270, R279).
-/

namespace Sys2Proof.Machine

/-- The first word at which a group breaks the rules of R55. -/
def chainBad (w : Nat) : List GWord → List GWord → Option GWord
  | _, [] => none
  | prev, g :: r =>
    if g.stray || prev.any (GWord.clash w · g) || (g.slot == 2 && chained g.word) ||
      (g.slot == 1 && (g.extw.map chained).getD false)
    then some g else chainBad w (prev ++ [g]) r

/-- The value of a source field for a record (R271). -/
def srcVal (a : Arch) (l : Nat) (b : Byte) : Nat :=
  if b.toNat < 0x80 then a.readV l b.toNat else src64 .int a l b

/-- OPA and OPB of a record of a word that has not run (R271). -/
def recordOps (w : Nat) (e : Issue) (g : GWord) (l : Nat) : Nat × Nat :=
  let s := g.shape w
  let vs := (s.base.map fun b => e.base b l).toList ++ s.src.map fun p => srcVal e.old l p.1
  (vs.getD 0 0, vs.getD 1 0)

/-- What the issue slice knows of the word that it is about to run. -/
def Issue.at_ (e : Issue) (g : GWord) : Issue :=
  { e with wslot := g.slot, word := g.word, extw := g.extw.getD 0, guard := g.guard }

/-- A fault of a word before the group runs, in a fibre. -/
def Issue.preFault (w : Nat) (e : Issue) (g : GWord) (c : FClass) (l : Nat) : Issue :=
  let (a, b) := recordOps w e g l
  (e.at_ g).fault { cls := c, lane := l, opa := BitVec.ofNat 64 a, opb := BitVec.ofNat 64 b }

/-- A latch entry that a word may read (R65). -/
def latchOk (a : Arch) (l k : Nat) : Bool :=
  match a.lat.find (4 * l + k) with
  | some x => x.age ≤ 1
  | none => false

/-- The lowest LIVE fibre in which a word reads a latch entry that is not in reach, or is the ninth group of its latch run
(R65, R66). -/
def latchFault (w : Nat) (e : Issue) (g : GWord) : Option Nat :=
  let ks := (g.shape w).latchesRead
  if ks.isEmpty then none
  else (e.at_ g).effLive.find? fun l => 8 ≤ (e.old.fibre l).run || ks.any fun k => !latchOk e.old l k

/-- The first failure among the words of a group, in slot order (R70, R269). -/
def wordsFault (w : Nat) (hdl : Bool) (e : Issue) : List GWord → Option (GWord × FClass × Nat)
  | [] => none
  | g :: r => match g.fault? w hdl with
    | some c => some (g, c, e.live.headD 0)
    | none => match latchFault w e g with
      | some l => some (g, .latch, l)
      | none => wordsFault w hdl e r

/-- The checks of R70 on a group: it runs only when none fails. -/
def checkGroup (w : Nat) (hdl : Bool) (ws : List GWord) (e : Issue) : Issue :=
  match chainBad w [] ws with
  | some g => { e.preFault w g .illegalChain (e.live.headD 0) with bad := true }
  | none => match wordsFault w hdl e ws with
    | some (g, c, l) => { e.preFault w g c l with bad := true }
    | none => e

/-- An EXIT of the group takes effect in every LIVE fibre of the wave, so that the wave ends (R31). -/
def exitEnds (e : Issue) (ws : List GWord) : Bool :=
  ws.any fun g => match g.raw with
    | some (.exit _) => (Arch.liveSlots e.old).all (e.at_ g).effLive.contains
    | _ => false

/-- The group holds a cut point (R153). -/
def isCutGroup (pre : Bool) (e : Issue) (ws : List GWord) : Bool :=
  exitEnds e ws || ws.any fun g => match g.raw with
    | some (.assert f) => !(State.assertFails (e.at_ g) f.b.toNat).isEmpty
    | some (.pre _) => pre
    | some i => i.isCut
    | none => false

/-- The group holds a word at which a scout ends, besides the cut points (R265). -/
def endsScout (ws : List GWord) : Bool :=
  ws.any fun g => match g.raw with
    | some (.fork _) | some (.exit _) => true
    | _ => false

/-- The HELPER slots led by fibres of a bundle (R25). -/
def helpersOf (a : Arch) (live : List Nat) : List Nat :=
  (List.range 32).filter fun l =>
    (a.fibre l).st == .helper && match (List.range 4).find? fun k => (a.fibre (l / 4 * 4 + k)).st == .live with
      | some k => live.contains (l / 4 * 4 + k)
      | none => false

/-- The synthetic helpers of the quads of a bundle: slot, and the slot it reads (R26). DESIGN CHOICE (log entry 94): a HELPER
slot whose lead stands at a higher PC is filled as an EMPTY slot is, since R26 names no filling for it. -/
def synthOf (lanes live : List Nat) : List (Nat × Nat) :=
  (List.range 32).filterMap fun l =>
    if lanes.contains l then none else (live.find? fun m => m / 4 == l / 4).map fun m => (l, m)

/-- The slots of a bundle, in slot order. -/
def bundleSlots (a : Arch) (live : List Nat) : List Nat :=
  let hs := helpersOf a live
  (List.range 32).filter fun l => live.contains l || hs.contains l

/-- The lowest PC among some fibres (R28). -/
def lowestPc (a : Arch) : List Nat → Option Pc
  | [] => none
  | l :: r => match lowestPc a r with
    | some p => if p.key < (a.fibre l).pc.key then some p else some (a.fibre l).pc
    | none => some (a.fibre l).pc

/-- The ready fibre that has waited longest, at least 64, lowest slot on a tie (R30). -/
def starved (a : Arch) (ready : List Nat) : Option Nat :=
  ready.foldl (fun m l =>
    if (a.fibre l).wait < 64 then m
    else match m with
      | some k => if (a.fibre k).wait < (a.fibre l).wait then some l else m
      | none => some l) none

/-- The PC from which a wave issues next among its ready fibres (R28, R30, R66). -/
def pickPc (w : Wave) (ready : List Nat) : Option Pc :=
  match w.forced with
  | some p => if ready.any fun l => (w.arch.fibre l).pc == p then some p else none
  | none => match starved w.arch ready with
    | some l => some (w.arch.fibre l).pc
    | none => lowestPc w.arch ready

/-- Registers, scalars, predicates and latches of a word in a slot that are unknown to a scout (R265). -/
def unknownSrc (w : Nat) (e : Issue) (x : Scout) (g : GWord) (l : Nat) : Bool :=
  let s := g.shape w
  let m := if s.pipes.contains .s then e.low else l
  let wb := (e.old.fibre m).wb
  let reg (k n : Nat) : Bool := (List.range n).any fun i => x.unkV.contains (wb + k + i)
  let fld (b n : Nat) : Bool :=
    if b < 0x80 then reg b n else if b < 0xC0 then x.unkS.contains (b - 0x80)
    else if b < 0xC4 then x.unkL.contains (4 * m + (b - 0xC0)) else false
  s.src.any (fun p => fld p.1.toNat p.2) || (match s.base with
    | some b => fld b.toNat 2
    | none => false) || s.vr.any (fun p => reg p.1 p.2) || s.pr.any (fun p => x.unkP.contains (16 * l + p)) ||
    match g.guard with
    | some (p, _) => x.unkP.contains (16 * l + p)
    | none => false

/-- Adds or removes keys. -/
def markKeys (unk : Bool) (t ks : List Nat) : List Nat :=
  if unk then t ++ ks.filter fun k => !t.contains k else t.filter fun k => !ks.contains k

/-- Marks the destinations of a word in a slot as unknown, or as known (R265). -/
def markDest (w : Nat) (a : Arch) (g : GWord) (unk : Bool) (l : Nat) (x : Scout) : Scout :=
  let s := g.shape w
  { x with
    unkV := markKeys unk x.unkV (s.vw.flatMap fun p => (List.range p.2).map fun i => (a.fibre l).wb + p.1 + i)
    unkS := markKeys unk x.unkS s.sw
    unkP := markKeys unk x.unkP (s.pw.map (16 * l + ·))
    unkL := markKeys unk x.unkL (s.latch.map (4 * l + ·)) }

/-- The scout of a wave, an empty one if it runs as none. -/
def Wave.scoutOf (w : Wave) : Scout :=
  match w.gear with
  | .scout x => x
  | .fast | .slow _ _ _ => {}

/-- The slots in which a scout's word has an unknown source: all slots of a quad or lane word that reads one (R265). -/
def skipSlots (w : Nat) (e : Issue) (g : GWord) : List Nat :=
  if !e.scout then []
  else
    let x := Wave.scoutOf e.cur
    let ls := e.lanes.filter (unknownSrc w e x g)
    if !ls.isEmpty && holdKind [g] false ≠ 0 then e.lanes else ls

/-- The latch that a pipe's words write (R64). -/
def pipeLatch : Pipe → Nat
  | .v => 0
  | .x => 1
  | .m => 2
  | .s => 3

/-- The issue slice before a word of the group runs: the latches of its pipes are cleared where it takes no effect (R64). -/
def Issue.start (w : Nat) (e : Issue) (g : GWord) : Issue :=
  let e := e.at_ g
  ({ e with skip := skipSlots w e g }).clearPipes ((g.shape w).pipes.map pipeLatch)

/-- The destinations of a word become unknown in some slots (R265): an unknown latch entry is there all the same, so that it
ages and is read as any other. -/
def Issue.lose (w : Nat) (e : Issue) (g : GWord) (ls : List Nat) : Issue :=
  let s := g.shape w
  let ls := if s.pipes.contains .s && !ls.isEmpty then (e.at_ g).eff ++ ls else ls
  let x := ls.foldl (fun x l => markDest w e.old g true l x) (Wave.scoutOf e.cur)
  let e := e.onArch fun a => ls.foldl (fun a l => s.latch.foldl (fun a k => a.writeL l k 0) a) a
  { e with cur := { e.cur with gear := .scout x } }

/-- A scout's marks after a word has run: unknown where it was skipped or faulted, else known (R265). -/
def Issue.marked (w : Nat) (e : Issue) (g : GWord) : Issue :=
  if !e.scout then e
  else
    let bad := e.skip ++ (e.faults.filter fun f => f.wslot == g.slot).map (·.lane)
    let x := e.eff.foldl (fun x l => markDest w e.old g false l x) (Wave.scoutOf e.cur)
    ({ e with cur := { e.cur with gear := .scout x } }).lose w g bad

/-- The fault of the lowest-slot failing word, and within it of the lowest slot (R278). -/
def firstOf : List FaultInfo → Option FaultInfo
  | [] => none
  | f :: r => match firstOf r with
    | some g => if g.wslot < f.wslot ∨ (g.wslot = f.wslot ∧ g.lane < f.lane) then some g else some f
    | none => some f

/-- Adds a page that a scout collects, at most 32 distinct ones (R265). -/
def addPage (ps : List (Nat × Bool)) (f : FaultInfo) : List (Nat × Bool) :=
  if f.cls ≠ .notPresent then ps
  else if ps.any fun p => p.1 == f.page then ps.map fun p => if p.1 = f.page then (p.1, p.2 || f.w) else p
  else if ps.length < 32 then ps ++ [(f.page, f.w)] else ps

/-- The LIVE fibre that leads the helpers of a slot's quad (R25). -/
def leadOf (a : Arch) (l : Nat) : Option Nat :=
  ((List.range 4).map (· + l / 4 * 4)).find? fun m => (a.fibre m).st == .live

/-- Latch entries of some slots as their fibres fall into the next packet (R65): one packet is in reach. -/
def ageLatches (ls : List Nat) (a : Arch) : Arch :=
  { a with lat := a.lat.filterMap fun x =>
      if ls.contains (x.1 / 4) then (if x.2.age = 0 then some (x.1, { x.2 with age := 1 }) else none) else some x }

/-- The fibres of a bundle after its group (R51, R65): a taken branch ends reach; a fall into the next packet ages the
latches; a blocked fibre stays with the PC at which it goes on. The helpers of a quad go with its lead. DEDUCED (log entry
95): a CALL ends reach in the fibres in which it is taken, as a branch does. -/
def moveFibre (e : Issue) (reads : Bool) (next : Pc) (a : Arch) (l : Nat) : Arch :=
  let f := a.fibre l
  let quad := l :: (if leadOf e.old l = some l then e.lanes.filter fun m => m / 4 == l / 4 && !e.live.contains m else [])
  let dropL (a : Arch) : Arch := quad.foldl (fun a m => (List.range 4).foldl (fun a k => a.clearL m k) a) a
  let f := { f with wait := 0, run := if reads then f.run + 1 else 1 }
  if f.st ≠ .live then (if next.sl = 0 then ageLatches quad a else a)
  else match e.taken.find? fun t => t.1 == l with
    | some t => dropL (a.setFibre l { f with pc := ⟨t.2, 0⟩ })
    | none =>
      if e.blocked.contains l then dropL (a.setFibre l { f with blocked := some next })
      else
        let a := a.setFibre l { f with pc := next }
        if next.sl = 0 then ageLatches quad a else a

/-- The wait counts after an issue (R30): other ready fibres have waited once more; those not ready start again. -/
def countWaits (ready bundle : List Nat) (a : Arch) : Arch :=
  { a with fib := a.fib.zipIdx.map fun x =>
      if bundle.contains x.2 then x.1
      else if ready.contains x.2 then { x.1 with wait := x.1.wait + 1 } else { x.1 with wait := 0 } }

/-- FLAGS after a group (R93): an MTS first, then the flags of the other words; a scout sets none (R265). -/
def groupFlags (e : Issue) (a : Arch) : Arch :=
  if e.scout then a
  else
    let base := match e.mts with
      | some v => writeFlags v
      | none => a.flags
    { a with flags := orFlags base e.fl }

/-- The outcome of a wave's attempt to commit (R272). -/
inductive CommitTry where
  | done (s : State)
  | wait (s : State)
  | redo (s : State)

namespace State

/-- The fetch of one word of a packet (R50): through the tables, A set on demand; a poisoned sector is consumed (R272). -/
def fetchWord (s : State) (b : Nat) (demand : Bool) (ix : B32) (i : Nat) : Except FaultInfo B32 × State :=
  let k := s.blk b
  let va := (k.codeBase + 12 * ix.toNat + 4 * i) % 2 ^ 64
  let (r, s) := s.translate k.core k.part { Access.fetch with demand := demand } va
  match r with
  | .error f => (.error { cls := f.cls, lvl := f.lvl, kind := .fetch, addr := va, page := va / 2 ^ 16
                          code := f.cls.levelCode f.lvl }, s)
  | .ok t =>
    let s := ((s.useCxl t.pa).cross (s.coreDie k.core) (homeDie t.pa)).checkSectors k.part k.core va t.pa 4 .fetch
    if s.poisoned t.pa 4 then (.error { cls := .poison, kind := .fetch, addr := va, page := va / 2 ^ 16 }, s)
    else (.ok (BitVec.ofNat 32 (s.mem.readNat t.pa 4)), s)

/-- The fetch of a packet (R50). -/
def fetchPacket (s : State) (b : Nat) (demand : Bool) (ix : B32) : Except FaultInfo (List B32) × State :=
  match s.fetchWord b demand ix 0 with
  | (.error f, s) => (.error f, s)
  | (.ok w0, s) => match s.fetchWord b demand ix 1 with
    | (.error f, s) => (.error f, s)
    | (.ok w1, s) => match s.fetchWord b demand ix 2 with
      | (.error f, s) => (.error f, s)
      | (.ok w2, s) => (.ok [w0, w1, w2], s)

/-! ### Commits -/

/-- A commit that leaves the gear and the first fault of the run as they are (R269). -/
def commitIn (s : State) (keep : Bool) (b w : Nat) : State :=
  match s.wave? b w with
  | some v => (s.commit b w).onWave b w fun x => if keep then { x with gear := v.gear, first := v.first } else x
  | none => s

/-- Publishes a wave's store signature for its open region (R272). -/
def publish (v : Wave) : Wave :=
  if v.sigs.any fun x => x.1 == v.epoch then v else { v with sigs := v.sigs.drop (v.sigs.length - 1) ++ [(v.epoch, v.sig)] }

/-- Both twins roll the region back and run it again (R272). -/
def redoRegion (s : State) (b w : Nat) : State :=
  let n := ((s.wave? b w).map (·.epoch)).getD 0
  (s.rollback b w).onWave b w fun v =>
    { v with gear := .fast, first := none, mism := v.mism + 1, sigs := v.sigs.filter fun x => x.1 != n }

/-- The commit of an open region (R154). In a P2 pair it waits for both store signatures: equal ones commit, others roll
both twins back, a second time in one region both are killed (R272). -/
def tryCommit (s : State) (keep : Bool) (b w : Nat) : CommitTry :=
  match (s.blk b).twin with
  | none => .done (s.commitIn keep b w)
  | some t =>
    let s := s.onWave b w publish
    match s.wave? b w, s.wave? t w with
    | some v, some o => match o.sigs.find? fun x => x.1 == v.epoch with
      | none => .wait s
      | some (_, g) =>
        if g = v.sig then .done (s.commitIn keep b w)
        else if 1 ≤ v.mism then .redo (s.killWith b w { cls := .silent })
        else .redo ((s.redoRegion b w).redoRegion t w)
    | _, _ => .done (s.commitIn keep b w)

/-- A wave that the mailbox has asked to stop stops at a cut, once its region has committed (R276). -/
def stopIfAsked (s : State) (b w : Nat) : State :=
  s.onWave b w fun v => if v.stopReq then { v.stop .mailbox with stopReq := false } else v

/-- An implicit cut of a wave (R153): its region commits. -/
def implicitCut (s : State) (b w : Nat) : State :=
  match s.tryCommit true b w with
  | .done s | .redo s => s.stopIfAsked b w
  | .wait s => s.onWave b w fun v => { v with hold := some .sign }

/-! ### Opening a group -/

/-- The FLEX wave that a mark falls on (R43): the lowest VEC one, or the highest LOAD one. -/
def flexWave (k : Block) (toLoad : Bool) : Option Nat :=
  let ok (i : Nat) : Bool := ((k.waves[i]?).map fun w =>
    w.flex && !Wave.isEnded w && (if toLoad then w.role == .vec else w.role == .load)).getD false
  if toLoad then (List.range k.waves.length).find? ok else (List.range k.waves.length).reverse.find? ok

/-- A mark is due (R43). -/
def flexDue (k : Block) (toLoad : Bool) : Bool :=
  match k.watch with
  | some (_, _, _, n) => n ≤ (if toLoad then k.low else k.high) && (flexWave k toLoad).isSome
  | none => false

/-- The watched ring of a FLEX block for some CCLK (R43): the counts of consecutive CCLK below T and above T2. In a DET
launch no wave converts (R46). Once a mark is due it is made whatever the ring does, and the count starts again after it. -/
def watchRing (d : Nat) (k : Block) : Block :=
  match k.watch with
  | none => k
  | some (r, t, t2, _) =>
    if k.det || flexDue k true || flexDue k false then k
    else
      let n := (k.rings.getD r {}).full
      { k with low := if n < t then k.low + d else 0, high := if t2 < n then k.high + d else 0 }

/-- The clock of a core as a step passes: one CCLK and what else it takes (R96). -/
def tick (s : State) (c : Nat) : State :=
  let (n, s) := s.takeFree
  let d := 1 + (Config.issueDelay n).toNat
  { s.onCore c fun k => { k with cycle := k.cycle + d } with
    blocks := s.blocks.map fun x => if x.2.core = c then (x.1, watchRing d x.2) else x }

/-- The issue slice with a bundle of a wave, before the group's checks. -/
def bundleOf (k : Block) (b w : Nat) (v : Wave) (pc : Pc) (live : List Nat) (ws : List GWord) : Issue :=
  let lanes := bundleSlots v.arch live
  { core := k.core, blk := b, wv := w, pc := pc, lanes := lanes, live := live
    synth := if holdKind ws false = 1 then synthOf lanes live else []
    old := v.arch, cur := v, on := true
    scout := match v.gear with
      | .scout _ => true
      | .fast | .slow _ _ _ => false }

/-- A cut drops the latches of its bundle (R65). -/
def cutLatches (e : Issue) : Issue :=
  if e.cut then e.onArch fun a => e.lanes.foldl (fun a l => (List.range 4).foldl (fun a k => a.clearL l k) a) a else e

/-- An M-pipe word of a wave finds an entry of its slice's operand log (R266). DESIGN CHOICE (log entry 28): where every
entry is held by waves that wait for one, or by this wave, none would ever be freed, and the oldest is given up. -/
def oplogRoom (s : State) (b i : Nat) (w : Wave) : Bool :=
  let es := (s.core (s.blk b).core).oplog.get [] w.slice
  decide (es.length < 64) || es.all fun o => (o.blk == b && o.wave == i) || ((s.wave? o.blk o.wave).bind (·.hold)) == some .oplog

/-- The group is open: its checks are made (R70), its cut, if any, has ended reach. A group whose M-pipe word finds no entry in
the operand log waits (R266). -/
def setIssue (s : State) (k : Block) (ws : List GWord) (e : Issue) : State :=
  let e := cutLatches (checkGroup k.w k.handler ws e)
  if !e.bad && ws.any (GWord.isMem k.w) && !s.oplogRoom e.blk e.wv e.cur then s.onWave e.blk e.wv fun v => { v with hold := some .oplog }
  else { s with issue := e }

/-- The scout of a wave has ended (R265). -/
def endScout (s : State) (b w : Nat) : State :=
  s.onWave b w fun v => { v with gear := .scout { Wave.scoutOf v with done := true } }

/-- Opens the group at a PC for some LIVE fibres of a wave: the fetch, the commit that comes before a cut (R35, R154), the
checks. The commit of a cut that has yet to take effect is not repeated; in the slow gear it has been made already (R279). -/
def openAt (s : State) (b w : Nat) (pc : Pc) (live : List Nat) : State :=
  match s.wave? b w with
  | none => s
  | some v =>
    let k := s.blk b
    let (r, s) := s.fetchPacket b (!(bundleOf k b w v pc live []).scout) pc.ix
    match r with
    | .error f =>
      let e := bundleOf k b w v pc live []
      { s with issue := { e with wslot := pc.sl, faults := [{ f with lane := live.headD 0, pc := pc, wslot := pc.sl }], bad := true } }
    | .ok packet =>
      let ws := groupOf none (groupRaw (packet.drop pc.sl) pc.sl)
      let e := bundleOf k b w v pc live ws
      let cut := isCutGroup k.pre.isSome e ws
      if e.scout && (cut || endsScout ws) then s.endScout b w
      else if cut && !Wave.isSlow v && v.cutDone != some pc then
        match s.tryCommit false b w with
        | .wait s => s.onWave b w fun v => { v with hold := some .sign }
        | .redo s => s
        | .done s =>
          let s := s.onWave b w fun v => { v with cutDone := some pc }
          if v.stopReq then s.stopIfAsked b w
          else match s.wave? b w with
            | some v => s.setIssue k ws { bundleOf k b w v pc live ws with cut := true }
            | none => s
      else s.setIssue k ws { e with cut := cut }

/-- A wave with no LIVE slot ends (R31): its region commits, in a P2 pair once both signatures are there (R272). -/
def closeWave (s : State) (b w : Nat) : State :=
  match s.tryCommit true b w with
  | .done s => s.endWave b w
  | .redo s => s
  | .wait s => s.onWave b w fun v => { v with hold := some .sign }

/-- Opens the next group of a wave at full speed (R28, R30, R66); a wave that has none ends (R31). -/
def openGroup (s : State) (b w : Nat) : State :=
  match s.wave? b w with
  | none => s
  | some v =>
    let ready := s.readySlots b v
    if (Arch.liveSlots v.arch).isEmpty then s.closeWave b w
    else match pickPc v ready with
      | none => s
      | some pc => s.openAt b w pc (ready.filter fun l => (v.arch.fibre l).pc == pc)

/-! ### Closing a group -/

/-- The wave as it was before the group, but for PEND and SEEN, which no region holds (R250). -/
def dropGroup (s : State) : State :=
  let e := s.issue
  ({ s with issue := {} }).onWave e.blk e.wv fun v => { v with pend := e.cur.pend, seen := e.cur.seen }

/-- The operand log takes the M-pipe words of a group (R266); it keeps the newest 64 entries. -/
def logWords (s : State) (k : Block) (ws : List GWord) : State :=
  let e := s.issue
  let ms := ws.filter (GWord.isMem k.w)
  if ms.isEmpty then s
  else s.onCore e.core fun c =>
    let entry (g : GWord) : OpLog :=
      { blk := e.blk, wave := e.wv, pc := e.pc, word := g.word, ext := (g.extw.bind Ext.of).map (·.p)
        opa := e.lanes.map fun l => BitVec.ofNat 64 (recordOps k.w e g l).1
        opb := e.lanes.map fun l => BitVec.ofNat 64 (recordOps k.w e g l).2 }
    let es := c.oplog.get [] e.cur.slice ++ ms.map entry
    { c with oplog := c.oplog.insert e.cur.slice (es.drop (es.length - 64)) }

/-- The PC after a group (R51). -/
def nextPc (pc : Pc) (ws : List GWord) : Pc :=
  let n := ws.foldl (fun m g => max m (g.slot + 1 + b2n g.extw.isSome)) pc.sl
  if 3 ≤ n then ⟨pc.ix + 1, 0⟩ else ⟨pc.ix, n⟩

/-- What a gear becomes after a group: one more step, the cut's fibres that have stepped struck out (R269, R279); a scout
counts packets and ends at its limits (R265). -/
def gearAfter (left : Bool) (live : List Nat) : Gear → Gear
  | .fast => .fast
  | .scout x =>
    let n := x.pkts + b2n left
    .scout { x with pkts := n, done := x.done || decide (2048 ≤ n) || decide (32 ≤ x.pages.length) }
  | .slow n cut failed => .slow (n + 1) (cut.map fun ls => ls.filter fun l => !live.contains l) failed

/-- The latches that words of a packet read from a slot on. -/
def latchReads (s : State) (b : Nat) (pc : Pc) : List Nat :=
  match s.peekPacket b pc.ix with
  | some ws => ((List.range 3).drop pc.sl).flatMap fun i =>
      (groupOf none (groupRaw (ws.drop i) i)).flatMap fun (g : GWord) => (g.shape (s.blk b).w).latchesRead
  | none => []

/-- A latch read is in reach (R65, R66): a LIVE fibre has a word that reads a latch entry that it may read, in what is left of
its packet, or in the next one of an entry that was written in this one. -/
def latchAhead (s : State) (b : Nat) (a : Arch) : Bool :=
  let ls := (Arch.liveSlots a).filter fun l => (List.range 4).any fun k => (a.lat.find (4 * l + k)).isSome
  ((ls.map fun l => (a.fibre l).pc).eraseDups).any fun pc =>
    let here := s.latchReads b pc
    let next := s.latchReads b ⟨pc.ix + 1, 0⟩
    ls.any fun l => (a.fibre l).pc == pc &&
      (here.any (latchOk a l) || next.any fun k => ((a.lat.find (4 * l + k)).map (·.age)) == some 0)

/-- The wave after a group that has run (R51, R64 to R66, R154): a cut's region starts with the state after it, the stores of
words chained to the cut included. -/
def waveAfter (s : State) (k : Block) (ws : List GWord) (e : Issue) : Wave :=
  let reads := readsLatch k.w ws
  let next := nextPc e.pc ws
  let left := next.sl == 0 || !e.taken.isEmpty
  let a := e.live.foldl (moveFibre e reads next) (groupFlags e e.cur.arch)
  let a := countWaits (s.readySlots e.blk { e.cur with arch := e.old }) e.live a
  let fell := e.live.any fun l => (a.fibre l).st == .live && (a.fibre l).blocked.isNone && (a.fibre l).pc == next
  let force := !Wave.isSlow e.cur && fell && readsLatch k.w (s.peekGroup e.blk next)
  let w := { e.cur with
    arch := a, gear := gearAfter left e.live e.cur.gear, hold := none, cutDone := none, atPhase := false
    forced := if force then some next else none
    bound := (left || Wave.isSlow e.cur) && !force && !s.latchAhead e.blk a }
  if e.cut then
    { w with
      entry := a, pkts := 0, bound := false, cutLanes := if Wave.isSlow w then w.cutLanes else none
      shadows := [], heldIn := w.held, sigIn := w.sig }
  else { w with pkts := w.pkts + b2n left }

/-- A wave that stops again after one step (R274). -/
def stopSingle (s : State) (b w : Nat) (ws : List GWord) (e : Issue) : State :=
  match ws with
  | g :: _ => s.trapWave b w { State.stopInfo (e.at_ g) .bkpt (e.live.headD 0) 0xFFFF 0 with opa := 0 }
  | [] => s

/-- The slow gear of a cut word ends (R270, R279): each fibre that stood at it has stepped without a fault, its commit is not
repeated, and a VANISHED record follows where a fault had been met. -/
def endCut (s : State) (b w : Nat) : State :=
  let f := (s.wave? b w).bind (·.first)
  let s := s.onWave b w fun v => { v with gear := .fast, first := none, cutLanes := none }
  match f with
  | some f => (s.vanished b w f).onWave b w fun v => { v with entry := { v.entry with vanished := true } }
  | none => s

/-- What follows once the group's effects stand (R31, R45, R151, R152, R274). -/
def afterGroup (s : State) (b w : Nat) (ws : List GWord) (e : Issue) : State :=
  match s.wave? b w with
  | none => s
  | some v =>
    let k := s.blk b
    match v.mode with
    | .run =>
      if (Arch.liveSlots v.arch).isEmpty then
        (if k.handler then s.endHandler k.core else (if Wave.isSlow v then s.endCut b w else s).closeWave b w)
      else
        let s := if e.yielded && !(Wave.isScout v) then s.yieldWave b w
          else if k.det && !e.blocked.isEmpty && s.hasBaton b w then s.passBaton b none else s
        let s := if v.single then s.stopSingle b w ws e else s
        let s := if v.waits.any fun x => (WaitKind.barMask? x.kind).isSome then s.barTest b else s
        s.settleWait b w
    | .asleep _ | .stopped _ | .desched _ | .ended => s

/-- The group has run without a fault: its effects stand. The stores of words chained to a cut are committed (R154); in a
P2 pair they go with the region that it opens, once the signatures have been compared (R272). -/
def finishGroup (s : State) (ws : List GWord) : State :=
  let e := s.issue
  let k := s.blk e.blk
  let s := s.logWords k ws
  let v := s.waveAfter k ws e
  let s := ({ s with issue := {} }).onWave e.blk e.wv fun _ => v
  let s := if e.cut && !v.held.isEmpty && k.twin.isNone then s.commitIn true e.blk e.wv else s
  s.afterGroup e.blk e.wv ws e

/-- Poison that a wave consumes (R272): P0 kills; P1 and P2 roll the region back once and run it again, and kill when the
same address is met again. A fetch always kills. -/
def consume (s : State) (b w : Nat) (f : FaultInfo) : State :=
  let k := s.blk b
  let again := ((s.wave? b w).bind (·.poisonAt)) == some f.addr
  let back (s : State) (b : Nat) : State :=
    (s.rollback b w).onWave b w fun v => { v with gear := .fast, first := none, poisonAt := some f.addr }
  if k.handler then (s.rollback b w).handlerFault b w false f
  else if k.plevel = 0 ∨ f.kind = .fetch ∨ again then s.killWith b w f
  else match k.twin with
    | some t => back (back s b) t
    | none => back s b

/-- An error of the store that nothing corrects comes about (R272, R349): in a sector, which the next check finds; in a register
or a held store of a wave, which consumes it as poison; in a shadow sector or a checkpoint, without which the wave cannot roll
back, so that its block is killed. -/
def suffer (s : State) : Upset → State
  | .check k x => { s with meta_ := s.meta_.set {} k { s.meta_.get {} k with syn := (s.meta_.get {} k).syn ^^^ x } }
  | .ecc k => { s with meta_ := s.meta_.set {} k { s.meta_.get {} k with ecc := true } }
  | .register b w => if canSuffer s b w (fun _ => true) then s.consume b w { cls := .poison } else s
  | .held b w => if canSuffer s b w (fun v => !v.held.isEmpty) then s.consume b w { cls := .poison } else s
  | .shadow b w => if canSuffer s b w (fun v => !v.shadows.isEmpty) then lose s b w else s
  | .checkpoint b w => if canSuffer s b w (fun _ => true) then lose s b w else s
where
  /-- The wave cannot roll back: its block is killed, or it is a handler (R275). -/
  lose (s : State) (b w : Nat) : State :=
    if (s.blk b).handler then s.handlerFault b w false { cls := .poison } else s.killWith b w { cls := .poison }
  /-- The wave is there and has what the error hits. -/
  canSuffer (s : State) (b w : Nat) (p : Wave → Bool) : Bool :=
    match s.wave? b w with
    | some v => !Wave.isEnded v && p v
    | none => false

/-- The next run after a fault (R264): the wave rolls back, then a batch or the slow gear. -/
def chooseRun (s : State) (b w : Nat) : State :=
  match s.wave? b w with
  | none => s
  | some v =>
    match v.first with
    | none => (s.rollback b w).onWave b w fun v => { v with gear := .fast }
    | some f =>
      let s := s.rollback b w
      if f.cls = .notPresent then
        let pages := match (Wave.scoutOf v).pages with
          | [] => addPage [] f
          | ps => ps
        (s.onWave b w fun v => { v with gear := .fast }).waveBatch b w false f pages
      else s.onWave b w fun v => { v with gear := .slow 0 v.cutLanes [] }

/-- A fault of a group at full speed marks its region (R264, R278, R279). -/
def markRegion (s : State) (ws : List GWord) (f : FaultInfo) : State :=
  let e := s.issue
  let mark (v : Wave) : Wave :=
    { v with first := if v.first.isNone then some f else v.first, cutLanes := if e.cut then some e.live else none }
  let scout : Scout := { pages := e.faults.foldl addPage (addPage [] f) }
  if !f.cls.isTranslation then
    (s.dropGroup.onWave e.blk e.wv mark).chooseRun e.blk e.wv
  else if e.cut || e.bad then
    s.dropGroup.onWave e.blk e.wv fun v => { mark v with gear := .scout { scout with done := true } }
  else
    (s.onIssue fun e =>
      let e := { e with cur := { mark e.cur with gear := .scout scout } }
      e.faults.foldl (fun e f => match ws.find? fun g => g.slot == f.wslot with
        | some g => e.lose (s.blk e.blk).w g [f.lane]
        | none => e) e).finishGroup ws

/-- A fault of a step of the slow gear (R270): a page that is not present and has not failed makes a batch; any other fault
is precise, and the steps before it commit, in a P2 pair once both signatures are there. -/
def stepFault (s : State) (failed : List Nat) (f : FaultInfo) : State :=
  let e := s.issue
  let s := s.dropGroup
  if f.cls = .notPresent ∧ !failed.contains f.page then s.waveBatch e.blk e.wv true f [(f.page, f.w)]
  else match s.tryCommit false e.blk e.wv with
    | .done s => (s.onWave e.blk e.wv fun v => { v with hold := none }).preciseFault e.blk e.wv f
    | .redo s => s
    | .wait s => s.onWave e.blk e.wv fun v => { v with hold := some .sign }

/-- A group of a scout (R265): faults are collected; one that did not run ends the scout. -/
def scoutGroup (s : State) (ws : List GWord) : State :=
  let e := s.issue
  let x := Wave.scoutOf e.cur
  let x := { x with pages := e.faults.foldl addPage x.pages }
  if e.bad then s.dropGroup.onWave e.blk e.wv fun v => { v with gear := .scout { x with done := true } }
  else (s.onIssue fun e => { e with cur := { e.cur with gear := .scout x } }).finishGroup ws

/-- What follows when the words of a group have run. -/
def closeGroup (s : State) (ws : List GWord) : State :=
  let e := s.issue
  if !e.on then s
  else if e.held.isSome then (s.dropGroup.onWave e.blk e.wv fun v => { v with hold := e.held }).settleWait e.blk e.wv
  else if e.scout then s.scoutGroup ws
  else match firstOf e.faults with
    | none => s.finishGroup ws
    | some f =>
      if (s.blk e.blk).handler then (s.dropGroup.rollback e.blk e.wv).handlerFault e.blk e.wv true f
      else if f.cls = .poison then s.dropGroup.consume e.blk e.wv f
      else match e.cur.gear with
        | .slow _ _ failed => s.stepFault failed f
        | .fast | .scout _ => s.markRegion ws f

/-! ### The slow gear -/

/-- The slow gear ends at a cut with no fault (R269, R270): the region commits; a VANISHED record where a fault had been met. -/
def endGear (s : State) (b w : Nat) (pc : Pc) : State :=
  match s.wave? b w with
  | none => s
  | some v => match s.tryCommit false b w with
    | .wait s => s.onWave b w fun v => { v with hold := some .sign }
    | .redo s => s
    | .done s =>
      let s := s.onWave b w fun v => { v with cutDone := some pc }
      match v.first with
      | some f => (s.vanished b w f).onWave b w fun v => { v with entry := { v.entry with vanished := true } }
      | none => s

/-- One step of the slow gear (R269, R279): the cut word's remaining fibres, or the fibre at the lowest PC alone; the gear
ends where a cut point would be executed. -/
def slowStep (s : State) (b w : Nat) (v : Wave) (cut : Option (List Nat)) : State :=
  match cut with
  | some ls => match ls.filter fun l => (v.arch.fibre l).st == .live with
    | [] => s.endCut b w
    | l :: r =>
      let pc := (v.arch.fibre l).pc
      let one := (s.peekGroup b pc).any fun g => (g.raw.map Instr.oneStep).getD false
      s.openAt b w pc (if one then l :: r.filter fun m => (v.arch.fibre m).pc == pc else [l])
  | none =>
    let ready := s.readySlots b v
    match starved v.arch ready, lowestPc v.arch ready with
    | _, none => s
    | st, some lo =>
      let l := st.getD ((ready.find? fun l => (v.arch.fibre l).pc == lo).getD 0)
      let pc := (v.arch.fibre l).pc
      let ws := s.peekGroup b pc
      let one := ws.any fun g => (g.raw.map Instr.oneStep).getD false
      let live := if one then ready.filter fun m => (v.arch.fibre m).pc == pc else [l]
      if isCutGroup (s.blk b).pre.isSome (bundleOf (s.blk b) b w v pc live ws) ws then s.endGear b w pc
      else s.openAt b w pc live

/-! ### What a core's stores leave free (R155, R156) -/

/-- The low-resource condition of R153. -/
def lowRes (s : State) (c : Nat) : Bool :=
  s.sharedFree c < 16384 || 512 < s.shadowsUsed c + 32 || Config.renameLow s.free

end State

/-- PACKET_COUNT_CUT (R153): 4,096 packets since region entry. -/
def execPacketCountCut (blk wave : Nat) (s : State) : Out :=
  match s.wave? blk wave with
  | some w => match w.gear, w.mode with
    | .fast, .run => if 4096 ≤ w.pkts ∧ w.bound then .next (s.implicitCut blk wave) else .next s
    | _, _ => .next s
  | none => .next s

/-- LOW_RESOURCE_CUT (R153, R370): a P0 or P1 wave cuts. -/
def execLowResourceCut (blk wave : Nat) (s : State) : Out :=
  match s.wave? blk wave with
  | some w => match w.gear, w.mode with
    | .scout _, _ => .next s
    | _, .run => if (s.blk blk).plevel ≠ 2 ∧ w.bound then .next (s.implicitCut blk wave) else .next s
    | _, _ => .next s
  | none => .next s

/-- HOLD_QUOTA_CUT (R153): the held bytes of a P2 wave reach 12 KiB. -/
def execHoldQuotaCut (blk wave : Nat) (s : State) : Out :=
  match s.wave? blk wave with
  | some w => match w.gear, w.mode with
    | .scout _, _ => .next s
    | _, .run =>
      if (s.blk blk).plevel = 2 ∧ 12288 ≤ State.heldBytes w ∧ w.bound then .next (s.implicitCut blk wave) else .next s
    | _, _ => .next s
  | none => .next s

/-- SCOUT_END (R264). -/
def execScoutEnd (blk wave : Nat) (s : State) : Out :=
  match s.wave? blk wave with
  | some w => match w.gear with
    | .scout _ => .next (s.chooseRun blk wave)
    | .fast | .slow _ _ _ => .next s
  | none => .next s

/-- SLOW_GEAR_STEP (R269): opens the chosen fibre's group, whose words follow. -/
def execSlowGearStep (blk wave : Nat) (s : State) : Out :=
  match s.wave? blk wave with
  | some w => match w.gear, w.mode with
    | .slow _ cut _, .run => .next (s.slowStep blk wave w cut)
    | _, _ => .next s
  | none => .next s

/-- NO_CONVERGE (R270): 2^20 steps with no end. -/
def execNoConverge (blk wave : Nat) (s : State) : Out :=
  match s.wave? blk wave with
  | some w => match w.gear with
    | .slow n _ _ =>
      if 2 ^ 20 ≤ n then
        .next ((s.rollback blk wave).killWith blk wave { w.first.getD { cls := .noConverge } with cls := .noConverge, code := 0 })
      else .next s
    | .fast | .scout _ => .next s
  | none => .next s

/-- The waves of a core that hold shadow sectors (R368). -/
def State.shadowHolders (s : State) (c : Nat) : List (Nat × Block × Nat × Wave) :=
  (s.residentWaves c).filter fun x => !x.2.2.2.shadows.isEmpty

/-- The youngest of some waves. -/
def youngest : List (Nat × Block × Nat × Wave) → Option (Nat × Block × Nat × Wave)
  | [] => none
  | x :: r => match youngest r with
    | some y => if x.2.2.2.age < y.2.2.2.age then some y else some x
    | none => some x

/-- SHADOW_DEADLOCK_ROLLBACK (R368): every wave that holds shadow sectors waits for one; the youngest rolls back, with its
twin, and re-runs in the slow gear. -/
def execShadowDeadlockRollback (core : Nat) (s : State) : Out :=
  let hs := s.shadowHolders core
  let back (s : State) (b w : Nat) : State :=
    (s.rollback b w).onWave b w fun v => { v with gear := .slow 0 v.cutLanes [], first := none }
  if !hs.all fun x => match Wave.shadowWait x.2.2.2 with
      | some n => !s.shadowRoom core n x.2.2.2
      | none => false then .next s
  else match youngest hs with
    | some (b, k, w, _) =>
      let s := back s b w
      .next (match k.twin with
        | some t => back s t w
        | none => s)
    | none => .next s

end Sys2Proof.Machine
end

