-- ==== Sys2Proof/Machine/Mem.lean ====
section
/-!
DEFINITION. Global memory (R90, R230 to R262): LD, ST, SLD, SST, LDBK, ATOM, RED, ARV, FENCE, CFLUSH, CINV, PREF, TLBQ.
-/

namespace Sys2Proof.Machine

/-- The classes that a load or store may reach (R235): .sc is barred from SYS. DESIGN CHOICE (log entry 112): .acq and
.rel of partition 0 at .sys on a DEV page, a scope that R235 does not list for it, are carried out as at .part. -/
def ordCls (o : BitVec 2) : List Cls := if o == 3 then [.loc, .dev] else [.loc, .dev, .sys]

/-- The classes of a read-modify-write of a function and an ORD (R235, R256): .sc is barred from SYS. -/
def rmwCls (fn ord : Nat) : List Cls := if fn ≤ 0x09 ∧ ord ≠ 3 then [.dev, .sys] else [.dev]

namespace State

/-- A fault of an access by a fibre. -/
def accessFault (c : FClass) (lvl : Nat) (a : Access) (l ea opa opb : Nat) : FaultInfo :=
  { cls := c, lvl := lvl, kind := a.kind, lane := l, addr := ea, opa := BitVec.ofNat 64 opa, opb := BitVec.ofNat 64 opb
    code := c.levelCode lvl, page := ea / 2 ^ 16, w := a.wr }

/-- Alignment and translation of an access of the issuing wave (R233); a scout's is no demand access (R241). -/
def reach (s : State) (a : Access) (align l ea opa opb : Nat) : Except FaultInfo Trans × State :=
  if ea % align ≠ 0 then (.error (accessFault .alignment 0 a l ea opa opb), s)
  else
    let (r, s) := s.translate s.issue.core s.ipart { a with demand := a.demand && !s.isScout } ea
    match r with
    | .error f => (.error (accessFault f.cls f.lvl a l ea opa opb), s)
    | .ok t => (.ok t, s)

/-- The check of a load (R231, R233, R239): one that hits in the core's L1 while the tables are enabled is not translated; any
other is. -/
def reachLoad (s : State) (a : Access) (align l ea opa : Nat) : Except FaultInfo Trans × State :=
  match if canonical ea && bitAt (s.part s.ipart).tableRoot.toNat 0 then s.l1Hit s.issue.core s.ipart ea else none with
  | some (pa, cls, fmt) =>
    if ea % align = 0 ∧ a.cls.contains cls ∧ a.fmt.contains fmt then
      (.ok { pa := pa, cls := cls, fmt := fmt, big := false, leaf := 0, entPa := 0 }, s)
    else s.reach a align l ea opa 0
  | none => s.reach a align l ea opa 0

/-- A load of `n` bytes by a fibre (R255) once its checks have passed. -/
def globalLoad (s : State) (a : Access) (n l ea opa : Nat) (t : Trans) : LaneRes × State :=
  let e := s.issue
  let (x, s) := s.loadBytes e.core s.ipart e.blk e.wv ea t.pa t.cls n
  if x.poison && !s.isScout then (.bad (accessFault .poison 0 a l ea opa 0), s)
  else (.ok (ofBytes x.data) (if t.cls = .loc then 0 else x.wts) (t.cls == .loc), s)

/-- The check of an LD or SLD in a fibre. -/
def laneCheck (f : FmtM) (s : State) (l : Nat) : Except FaultInfo Trans × State :=
  let n := 2 ^ f.s.toNat
  let e := s.issue
  s.reachLoad { Access.load with cls := ordCls f.o } n l (e.ea f.g (memOff f.e f.x) n l) (e.base f.g l)

/-- The access of an LD or SLD in a fibre. -/
def laneLoad (f : FmtM) (s : State) (l : Nat) (t : Trans) : LaneRes × State :=
  let n := 2 ^ f.s.toNat
  let e := s.issue
  s.globalLoad { Access.load with cls := ordCls f.o } n l (e.ea f.g (memOff f.e f.x) n l) (e.base f.g l) t

/-- The line that a load reached is LOCAL (R235). -/
def nearLine (t : Trans) : Bool := t.cls == .loc

/-- Every check of some accesses before any effect (R279): the translations, or the faults. -/
def reachAll (get : State → Nat → Except FaultInfo Trans × State) :
    List Nat → State → List (Nat × Trans) × List FaultInfo × State
  | [], s => ([], [], s)
  | l :: ls, s =>
    let (r, s) := get s l
    let (ts, fs, s) := reachAll get ls s
    match r with
    | .ok t => ((l, t) :: ts, fs, s)
    | .error f => (ts, f :: fs, s)

/-- Applies a store of the issuing wave now (R250, R255): a LOCAL line takes it in the core's L1 (R262), any other at its
home, and pts rises to its ts. Only the primary of a P2 pair does so (R272). -/
def storeNow (s : State) (va : Nat) (t : Trans) (bs : List Byte) (whole : List Nat := []) : State :=
  let e := s.issue
  if !s.iblk.primary then s
  else if t.cls = .loc then s.localNow ⟨s.ipart, va, t.pa, .loc, bs, e.blk, e.wv, false, whole⟩ e.core
  else
    let s := s.checkMerge s.ipart e.core va t.pa bs.length whole .store
    let (ts, s) := s.coreStoreNow e.core s.ipart t.pa bs whole
    (s.updateCopy e.core s.ipart va ts).raisePts e.core s.ipart ts

/-- A plain store enters the hold buffer (R155, R156): a P2 wave's in its own reservation, another's in the shared part while
that has room. -/
def holdStore (s : State) (va : Nat) (t : Trans) (bs : List Byte) (whole : List Nat := []) : State :=
  let own := s.iblk.plevel == 2 || s.sharedFree s.issue.core < bs.length
  (s.onIssue fun e => { e with cur := { e.cur with held := e.cur.held ++ [⟨va, t.pa, t.cls, bs, own, whole, t.big⟩] } }).sign va bs

/-- The accesses of a store word, each with the sectors that the word writes whole and that it is the last to write (R272). -/
def markWhole (n : Nat) (ts : List (Nat × Trans)) : List (Nat × Trans × List Nat) :=
  let ks := wholeIn (ts.map fun x => x.2.pa) n
  ts.zipIdx.map fun x => (x.1.1, x.1.2, ks.filter fun k => k == x.1.2.pa / 128 && (ts.drop (x.2 + 1)).all fun y => y.2.pa / 128 != k)

/-- The store word of some fibres (R255): checks in every fibre, then the stores in slot order. A scout stores nothing. -/
def stores (s : State) (o : BitVec 2) (sc n : Nat) (lanes : List Nat) (ea opa data : Nat → Nat) : State :=
  if s.isScout then s
  else
    let (ts, bad, s) := reachAll (fun s l => s.reach { Access.store with cls := ordCls o } n l (ea l) (opa l) (data l)) lanes s
    if !bad.isEmpty then s.raise bad
    else if ts.isEmpty then s
    else if o == 0 && !s.hasRoom s.issue.core s.issue.blk s.issue.wv s.issue.cur (n * ts.length) then s.retry (.room (n * ts.length))
    else if o == 0 then (markWhole n ts).foldl (fun s x => s.holdStore (ea x.1) x.2.1 (toBytes n (data x.1)) x.2.2) s
    else
      let scope := if ts.all fun x => x.2.cls == .loc then 0 else sc
      let s := (s.clampScope sc).release scope
      let s := (markWhole n ts).foldl (fun s x => s.storeNow (ea x.1) x.2.1 (toBytes n (data x.1)) x.2.2) s
      if o == 3 then s.acquire scope else s

/-- The access of a read-modify-write of a function and an ORD. -/
def rmwAccess (fn : Nat) (ord : Nat := 0) : Access := { kind := .atomic, rd := true, wr := true, cls := rmwCls fn ord }

/-- The checks of an ATOM or RED in a fibre: DET (R46), alignment, the walk, and poison that its return would consume
(R272). -/
def rmwReach (s : State) (fn size ord sc : Nat) (ret : Bool) (l ea opa opb : Nat) : Except FaultInfo Trans × State :=
  let a := rmwAccess fn ord
  if s.iblk.det && 2 ≤ sc && fn < 0x18 then (.error (accessFault .det 0 a l ea opa opb), s)
  else
    let (r, s) := s.reach a (rmwSpan fn size).2 l ea opa opb
    match r with
    | .error f => (.error f, s)
    | .ok t =>
      let s := s.checkSectors s.ipart s.issue.core ea t.pa (rmwSpan fn size).1 .atomic
      if ret && s.poisoned t.pa (rmwSpan fn size).1 then (.error (accessFault .poison 0 a l ea opa opb), s) else (.ok t, s)

/-- One WRITE step of the issuing wave at a home (R257): the value, the flags; its ts joins PEND, and SEEN for an acquiring
form; the core's own copy follows. -/
def rmwOne (s : State) (ord sc fn size va : Nat) (t : Trans) (d d2 : Nat) : Nat × Nat × State :=
  let e := s.issue
  let p := s.ipart
  let (v, ts, fl, s) := s.request e.core p ord sc fn size t.pa d d2 (s.pts e.core p)
  let s := s.updateCopy e.core p va ts
  (v, fl, s.onIssue fun e => { e with cur := { e.cur with
    pend := max e.cur.pend ts, seen := if ord = 1 ∨ ord = 3 then max e.cur.seen ts else e.cur.seen } })

/-- The WRITE steps of some fibres in slot order: value and flags of each. -/
def rmwAll (one : State → Nat → Trans → Nat × Nat × State) : List (Nat × Trans) → State → List (Nat × Nat) × State
  | [], s => ([], s)
  | (l, t) :: ts, s =>
    let (v, fl, s) := one s l t
    let (r, s) := rmwAll one ts s
    ((v, fl) :: r, s)

/-- ATOM and RED (R257): the checks of every LIVE fibre, the release, the WRITE steps, the results of a returning form, the
acquire. -/
def atomics (s : State) (g : Byte) (d : BitVec 7) (o : BitVec 2) (off : Int) (size fn sc : Nat) (ret flags : Bool) : State :=
  let n := 2 ^ size
  let e := s.issue
  let ea (l : Nat) : Nat := e.ea g off n l
  let data (l : Nat) : Nat × Nat := rmwData' e d size fn l
  let (ts, bad, s) := reachAll (fun s l => s.rmwReach fn size o.toNat sc ret l (ea l) (e.base g l) (data l).1) e.effLive s
  if !bad.isEmpty then s.raise bad
  else if ts.isEmpty then (if ret then s.onIssue fun e => e.clearLatch 2 else s)
  else
    let scope := s.scopeIn sc
    let s := s.clampScope sc
    let s := if o == 2 || o == 3 then s.release sc else s
    let s := s.drainWave e.core e.blk e.wv
    match s.asPrimary fun s =>
        let (r, s) := rmwAll (fun s l t => s.rmwOne o.toNat scope fn size (ea l) t (data l).1 (data l).2) ts s
        (r.map (·.1) ++ r.map (·.2) ++ [s.issue.cur.seen], s) with
    | none => s.retry .value
    | some (vs, s) =>
      let k := ts.length
      let s := s.see (vs.getD (2 * k) 0)
      let s := if ret then s.onIssue fun e => e.clearLatch 2 else s
      let s := ts.zipIdx.foldl (fun s x => s.onIssue fun e =>
        let e := if ret then e.putV 0 d.toNat (sizeRegs size) 2 x.1.1 (vs.getD x.2 0) else e
        if flags then e.addFlags x.1.1 (vs.getD (k + x.2) 0) else e) s
      if o == 1 || o == 3 then s.acquire sc else s
where
  /-- The data registers of a fibre: data and data′ (R172, R256). -/
  rmwData' (e : Issue) (d : BitVec 7) (size fn l : Nat) : Nat × Nat :=
    let k := sizeRegs size
    if 0x10 ≤ fn ∧ fn ≤ 0x13 then (0, 0)
    else (e.old.readVn l d.toNat k, if fn = 1 then e.old.readVn l (d.toNat + k) k else 0)

/-- The byte range of CFLUSH and CINV, rounded out to sectors; `none` is every line (R261). -/
def sectorRange (a count : Nat) : Option (Nat × Nat) :=
  if count = 0 then none else some (a / 128 * 128, roundUp (a + count) 128)

/-- A sector of a line lies in the range. -/
def inRange (r : Option (Nat × Nat)) (va : Nat) : Bool :=
  match r with
  | none => true
  | some (lo, hi) => lo ≤ va && va < hi

/-- Writes back the dirty sectors of a way that lie in a range, and marks them clean (R261): the largest ts. -/
def flushWay (s : State) (c : Nat) (r : Option (Nat × Nat)) (k : Nat) : Nat × State :=
  match (s.core c).lines.find k with
  | some l => match l.st with
    | .copy p va pa cls w t dirty =>
      let out := dirty.filter fun j => inRange r (va + 128 * j)
      let (ts, s) := out.foldl (fun (x : Nat × State) j =>
        let (ts, s) := x.2.sendSector c p pa l j
        (max x.1 ts, s)) (0, s)
      let n : Line := { l with st := .copy p va pa cls w t (dirty.filter fun j => !out.contains j) }
      (ts, s.onCore c fun x => { x with lines := (x.lines.erase k).insert k n })
    | .pinned _ _ _ => (0, s)
  | none => (0, s)

/-- The ways of a core that hold copies of a partition's lines in a range, of LOCAL class only or of any. -/
def waysIn (s : State) (c p : Nat) (r : Option (Nat × Nat)) (any : Bool) : List Nat :=
  ((s.core c).lines.filter fun x => match x.2.st with
    | .copy q va _ cls _ _ _ => q == p && (any || cls == .loc) && (List.range 8).any fun j => inRange r (va + 128 * j)
    | .pinned _ _ _ => false).map (·.1)

/-- The stores of a core that come before the sectors that some of its ways write back (R351). -/
def catchUpWays (s : State) (c : Nat) (ks : List Nat) : State :=
  ks.foldl (fun s k => match ((s.core c).lines.find k).map (·.st) with
    | some (LineSt.copy _ _ a _ _ _ (_ :: _)) => s.catchUp c a
    | _ => s) s

/-- Writes back a range of LOCAL lines of the issuing wave's core; the writes join PEND. -/
def flushRange (s : State) (r : Option (Nat × Nat)) : State :=
  let e := s.issue
  let s := (s.drainWave e.core e.blk e.wv).catchUpWays e.core (s.waysIn e.core s.ipart r false)
  let (ts, s) := (s.waysIn e.core s.ipart r false).foldl (fun (x : Nat × State) k =>
    let (ts, s) := x.2.flushWay e.core r k
    (max x.1 ts, s)) (0, s)
  s.onIssue fun e => { e with cur := { e.cur with pend := max e.cur.pend ts } }

/-- PREF in a fibre (R241, R242): a fault drops it and counts; else the TLB, and for .l1 the L1, is filled. -/
def prefetch (s : State) (lvl va : Nat) : State :=
  let c := s.issue.core
  let p := s.ipart
  let (r, s) := s.translate c p { Access.load with demand := false } va
  match r with
  | .error _ => s.onCore c fun k => { k with pfDrop := k.pfDrop + 1 }
  | .ok t => if lvl = 0 then ((s.beforeRead c p va t.pa t.cls).lineFor c p va t.pa t.cls t.fmt).2 else s

/-- The code of a fault in TLBQ's word (R243). -/
def tlbqKind : FClass → Nat
  | .invalid => 1
  | .notPresent => 2
  | .permission => 3
  | _ => 0

/-- The word of TLBQ for a fault at a level, or a leaf (R243). -/
def tlbqFault (c : FClass) (lvl : Nat) (big : Bool) : Nat :=
  2 ^ 63 + tlbqKind c * 2 ^ 60 + b2n big * 2 ^ 52 + lvl * 2 ^ 13

/-- What the cluster TLB of a core holds of a page of a partition (R231, R239). -/
def tlbHit (s : State) (c p va : Nat) : Option TlbEnt :=
  if canonical va && bitAt (s.part p).tableRoot.toNat 0 then (s.cluster (s.clusterOf c)).tlbFind p va else none

/-- The word of TLBQ (R243): from the cluster TLB when it holds the page, else from a walk. -/
def tlbqWord (s : State) (c p va : Nat) : Nat :=
  let leaf (e lvl : Nat) : Nat :=
    if bits e 56 8 ≠ p then tlbqFault .permission lvl (lvl == 2)
    else b2n (lvl == 2) * 2 ^ 52 + bits e 16 36 * 2 ^ 16 + lvl * 2 ^ 13 + bits e 0 13
  match s.tlbHit c p va with
  | some t => leaf t.leaf.toNat (if t.big then 2 else 3)
  | none => match s.walk p va with
    | .error f => tlbqFault f.cls f.lvl false
    | .ok (e, lvl, _) => leaf e lvl

/-- Blocks and element bytes of a block of a format (R236). -/
def fmtBlocks (fmt : Nat) : Nat × Nat :=
  match fmt with
  | 1 => (9360, 6)
  | 2 => (5024, 12)
  | _ => (2608, 24)

/-- Consecutive 4-byte loads of a formatted page. -/
def loadWords (s : State) (va pa : Nat) (cls : Cls) (fmt : Nat) : Nat → List Byte × Nat × Bool × State
  | 0 => ([], 0, false, s)
  | n + 1 =>
    let e := s.issue
    let (x, s) := s.loadBytes e.core s.ipart e.blk e.wv va pa cls 4 fmt
    let (bs, w, p, s) := loadWords s (va + 4) (pa + 4) cls fmt n
    (x.data ++ bs, max x.wts w, x.poison || p, s)

/-- LDBK in a fibre (R238): the words to write from v(D). -/
def blockLoad (f : FmtLk) (s : State) (l : Nat) : List Nat × Option FaultInfo × Nat × State :=
  let e := s.issue
  let ba := e.ea f.g (memOff f.e f.x) 1 l
  let opa := e.base f.g l
  let w := s.iblk.w
  let page := ba / 2 ^ 16 * 2 ^ 16
  let zeros (big : Bool) : List Nat := List.replicate (if big && f.d.toNat + 6 < w then 7 else 4) 0
  let (r, s) := s.reach { Access.load with fmt := [2, 3] } 1 l ba opa 0
  match r with
  | .error x => (zeros false, some x, 0, s)
  | .ok t =>
    let (blocks, eb) := fmtBlocks t.fmt
    let b := ba % 2 ^ 16
    let big := t.fmt == 3
    if blocks ≤ b || (big && w ≤ f.d.toNat + 6) then
      (zeros big, some (accessFault .format 0 Access.load l ba opa 0), 0, s)
    else
      let base := t.pa - b
      let (bs, w1, p1, s) := s.loadWords (page + eb * b) (base + eb * b) t.cls t.fmt (eb / 4)
      let at_ := blocks * eb + b
      let (x, s) := s.loadBytes e.core s.ipart e.blk e.wv (page + at_) (base + at_) t.cls 1 t.fmt
      let ws := (List.range (eb / 4)).map fun i => ofBytes ((bs.drop (4 * i)).take 4)
      if (p1 || x.poison) && !s.isScout then
        (zeros big, some (accessFault .poison 0 Access.load l ba opa 0), 0, s)
      else (ws ++ [ofBytes x.data], none, if t.cls = .loc then 0 else max w1 x.wts, s)

/-- LDBK in each fibre in turn: helpers write zeros where LIVE fibres fault (R25). -/
def blockLoads (f : FmtLk) : List Nat → State → State
  | [], s => s
  | l :: ls, s =>
    let (ws, bad, wts, s) := blockLoad f s l
    let put (s : State) : State := s.onIssue fun e => e.onArch fun a =>
      ws.zipIdx.foldl (fun a x => a.writeV l (f.d.toNat + x.2) x.1) a
    blockLoads f ls (match bad with
      | none => (put s).see wts
      | some x => if s.issue.live.contains l then s.raise [x] else put s)

/-- Writes a value to a scalar unless N = 1, and to l2 and l3 of every fibre in which the word takes effect (R90). -/
def putSld (s : State) (f : FmtM) (v : Nat) : State := s.onIssue fun e =>
  let e := (e.putLatch 2 v).putLatch 3 v
  if f.n = 1 then e else e.onArch fun a => a.writeS (f.d.toNat % 64) v

end State

/-- LD (R255). -/
def execLd (f : FmtM) (s : State) : Out := .next (s.vload f (State.laneCheck f) State.nearLine (State.laneLoad f))

/-- ST (R255). -/
def execSt (f : FmtMs) (s : State) : Out :=
  let e := s.issue
  let n := 2 ^ f.s.toNat
  .next (s.stores f.o f.x.scope n e.effLive (e.ea f.g (memOff f.e f.x) n) (e.base f.g)
    (fun l => e.old.readVn l f.d.toNat (sizeRegs f.s.toNat) % 2 ^ (8 * n)))

/-- SLD (R90): one access for the acting fibre. -/
def execSld (f : FmtM) (s : State) : Out :=
  match s.issue.actor with
  | none => .next (s.onIssue fun e => (e.clearLatch 2).clearLatch 3)
  | some l =>
    let (rs, s) := s.loads f.o f.x.scope [l] (State.laneCheck f) State.nearLine (State.laneLoad f)
    match rs with
    | [(_, .ok v w loc)] =>
      let s := (s.putSld f v).see w
      .next (if f.o == 1 || f.o == 3 then (s.clampScope f.x.scope).acquire (if loc then 0 else f.x.scope) else s)
    | _ => .next s

/-- SST (R90): one store for the acting fibre. -/
def execSst (f : FmtMs) (s : State) : Out :=
  let e := s.issue
  let n := 2 ^ f.s.toNat
  .next (s.stores f.o f.x.scope n e.actor.toList (e.ea f.g (memOff f.e f.x) n) (e.base f.g)
    (fun _ => e.old.readS (f.d.toNat % 64) % 2 ^ (8 * n)))

/-- LDBK (R238). -/
def execLdbk (f : FmtLk) (s : State) : Out := .next (State.blockLoads f s.issue.eff s)

/-- ATOM (R256, R257). -/
def execAtom (f : FmtM) (s : State) : Out :=
  .next (s.atomics f.g f.d f.o (memOff f.e f.x) f.s.toNat f.x.func f.x.scope (f.n == 0) true)

/-- RED (R256, R257): it returns neither a value nor flags. -/
def execRed (f : FmtMs) (s : State) : Out :=
  .next (s.atomics f.g f.d f.o (memOff f.e f.x) f.s.toNat f.x.func f.x.scope false false)

/-- ARV (R259). -/
def execArv (f : FmtAb) (s : State) : Out :=
  match s.issue.actor with
  | none => .next (s.onIssue fun e => e.clearLatch 2)
  | some l =>
    let ea := s.issue.ss f.a
    let (r, s) := s.reach (State.rmwAccess 2) 4 l ea ea 0
    match r with
    | .error x => .next (s.raise [x])
    | .ok t =>
      let s := s.checkSectors s.ipart s.issue.core ea t.pa 4 .atomic
      if s.poisoned t.pa 4 then .next (s.raise [State.accessFault .poison 0 (State.rmwAccess 2) l ea ea 0])
      else
        let s := s.release 3
        match s.asPrimary fun s => let (v, _, s) := s.rmwOne 1 3 2 2 ea t 1 0; ([v, s.issue.cur.seen], s) with
        | none => .next (s.retry .value)
        | some (vs, s) =>
          let s := s.see (vs.getD 1 0)
          .next ((s.acquire 3).onIssue fun e => (e.writeS f.b (vs.headD 0)).putLatch 2 (vs.headD 0))

/-- FENCE (R260). -/
def execFence (f : FmtFen) (s : State) : Out :=
  match s.issue.actor with
  | none => .next s
  | some _ =>
    let sc := f.s.toNat
    .next (match f.k.toNat with
      | 0 => s.acquire sc
      | 1 => s.release sc
      | _ => (s.release sc).acquire sc)

/-- CFLUSH (R261). -/
def execCflush (f : FmtAb) (s : State) : Out :=
  match s.issue.actor with
  | none => .next s
  | some _ =>
    .next ((s.flushRange (State.sectorRange (s.issue.ss f.a) (s.issue.ss f.b % 2 ^ 32))).release 3)

/-- CINV (R261). -/
def execCinv (f : FmtAb) (s : State) : Out :=
  match s.issue.actor with
  | none => .next s
  | some _ =>
    let r := State.sectorRange (s.issue.ss f.a) (s.issue.ss f.b % 2 ^ 32)
    let s := s.drainWave s.issue.core s.issue.blk s.issue.wv
    let s := s.catchUpWays s.issue.core (s.waysIn s.issue.core s.ipart r true)
    let s := (s.waysIn s.issue.core s.ipart r true).foldl (fun s k => s.dropWay s.issue.core k) s
    .next (s.acquire 3)

/-- PREF (R242). -/
def execPref (f : FmtAb) (s : State) : Out :=
  let e := s.issue
  .next (e.eff.foldl (fun s l => s.prefetch f.b.toNat (e.i64 f.a l)) s)

/-- TLBQ (R243). -/
def execTlbq (f : FmtAb) (s : State) : Out :=
  match s.issue.actor with
  | none => .next s
  | some _ =>
    let va := s.issue.ss f.a
    let c := s.issue.core
    let t := if (s.tlbHit c s.ipart va).isSome then s else (s.walkFor (s.coreDie c) s.ipart va).2
    .next (t.onIssue fun e => e.writeS f.b (s.tlbqWord c s.ipart va))

end Sys2Proof.Machine
end

