-- ==== Sys2Proof/Machine/Quant.lean ====
section
/-!
DEFINITION. Block-scaled integers and the quantiser (R113 to R115, R137).
-/

namespace Sys2Proof.Machine

/-- A quantised block: 24 elements, the scale X, the flags that forming it sets (R115). -/
structure QBlock where
  e : List Int
  x : Nat
  fl : Nat
deriving DecidableEq, Repr

/-- FLOOR_LOG2 of a nonzero finite magnitude (R115). -/
def floorLog2 (m : Nat) (e : Int) : Int := e + (Nat.log2 m : Int)

/-- ROUND_NE(v × 2^(127 − X)) (R115); v finite. -/
def quantOne (x : Int) : FVal → Int
  | .fin s m e => signed s (roundInt .rne s m (e + 127 - x) false).1
  | _ => 0

/-- The largest magnitude of a list of integers. -/
def maxAbs (l : List Int) : Nat := l.foldl (fun m i => max m i.natAbs) 0

/-- The rescale loop (R115): at most `n` raises. -/
def rescale (vs : List FVal) (lim : Nat) : Nat → Int → Int
  | 0, x => x
  | n + 1, x => if lim < maxAbs (vs.map (quantOne x)) ∧ x < 254 then rescale vs lim n (x + 1) else x

/-- The scale that QUANT first chooses for a largest magnitude m × 2^e ≠ 0 (R115, R137). -/
def firstScale (n : Nat) (m : Nat) (e : Int) : Int := max (floorLog2 m e - ((n : Int) - 2) + 127) 0

/-- The value is the finite e × 2^(x − 127). -/
def quantExact (x : Int) (i : Int) : FVal → Bool
  | .fin s m e =>
      let q := min e (x - 127)
      signed s (m <<< (e - q).toNat) == i * (2 ^ (x - 127 - q).toNat : Nat)
  | _ => false

/-- The value is finite. -/
def FVal.isFin : FVal → Bool
  | .fin _ _ _ => true
  | _ => false

/-- The magnitude is zero. -/
def FVal.isZero : FVal → Bool
  | .fin _ m _ => m == 0
  | _ => false

/-- The larger in magnitude of two finite values. -/
def FVal.larger (a b : FVal) : FVal :=
  match a, b with
  | .fin _ m e, .fin _ n d => if (FVal.fin false m e).cmp (.fin false n d) == .lt then b else a
  | a, _ => a

/-- QUANT (R115): `sat` is the mode SAT, else RESCALE. -/
def quant (vs : List FVal) (n : Nat) (sat : Bool) : QBlock :=
  if !vs.all FVal.isFin then ⟨vs.map (fun _ => 0), 255, flagNV⟩
  else
    match vs.foldl FVal.larger (.fin false 0 0) with
    | .fin _ m e =>
      if m = 0 then ⟨vs.map (fun _ => 0), 0, 0⟩
      else
        let lim := 2 ^ (n - 1) - 1
        let x0 := firstScale n m e
        let x := if sat then x0 else rescale vs lim 2 x0
        let es := vs.map (quantOne x)
        let clamp (i : Int) : Int := if lim < i.natAbs then signed (decide (i < 0)) lim else i
        let cs := es.map clamp
        ⟨cs, x.toNat, flagIf (decide (lim < maxAbs es)) flagQSAT |||
          flagIf (!((cs.zip vs).all fun p => quantExact x p.1 p.2)) flagNX⟩
    | _ => ⟨vs.map (fun _ => 0), 255, flagNV⟩

/-- QEXP of a value and an element width (R137). -/
def qexp (a n : Nat) : Res :=
  let n := bits n 0 4
  if n != 2 && n != 4 && n != 8 then ⟨255, flagNV⟩
  else match f32.read a with
    | .fin _ m e => if m = 0 then ⟨0, 0⟩ else ⟨(firstScale n m e).toNat, 0⟩
    | _ => ⟨255, flagNV⟩

/-- The elements of a block packed in `w` bits each, element 0 lowest (R114). -/
def packElems (w : Nat) : List Int → Nat
  | [] => 0
  | i :: r => wrap w i + 2 ^ w * packElems w r

/-- `n` elements of `w` bits read from a packed number, signed (R113, R114). -/
def unpackElems (w : Nat) (n : Nat) (x : Nat) : List Int := (List.range n).map fun i => sext w (bits x (w * i) w)

end Sys2Proof.Machine
end

