-- ==== Sys2Proof/Machine/Copy.lean ====
section
/-!
DEFINITION. The copy engine (R178 to R195, R198, R280): copy starts, CPYQ, descriptors and layouts, the movement of sectors
by each member, faults, batches, SEAL, WAITB and DRAIN.
-/

namespace Sys2Proof.Machine

/-! ### Layout words and descriptors -/

/-- A packed layout word (R180). -/
structure Plw where
  esz : Nat
  perm : Nat
  space : Nat
  base : Nat
  s1 : Nat
  s2 : Nat
  s3 : Nat
  rsv : Nat
deriving DecidableEq, Repr

/-- Reads a packed layout word from three scalars (R180): their upper halves are ignored. -/
def Plw.of (ws : List B64) : Plw :=
  let x (i : Nat) : Nat := (ws.getD i 0).toNat % 2 ^ 32
  { esz := bits (x 0) 26 3, perm := bits (x 0) 22 4, space := bits (x 0) 20 2, base := bits (x 0) 0 20
    s1 := bits (x 1) 0 16, s2 := bits (x 1) 16 16, s3 := bits (x 2) 0 16, rsv := bits (x 0) 29 3 + bits (x 2) 16 16 }

/-- The fields are legal (R168, R180). -/
def Plw.legal (p : Plw) : Bool :=
  p.rsv == 0 && p.esz ≤ 4 && p.perm ≤ 10 && p.space ≤ 2 && !(p.space == 2 && p.perm != 0)

/-- PERM_MAP (R168). -/
def permMap (o row perm : Nat) : Nat :=
  let b := o % 1024 / 32
  let x :=
    if perm = 0 then 0
    else if perm ≤ 5 then row % 2 ^ perm
    else row / 2 % 2 ^ (perm - 5)
  o / 1024 * 1024 + (b ^^^ x) * 32 + o % 32

/-- The space address of byte `i` of a box element (R168, R180). -/
def Plw.at_ (p : Plw) (b : List Nat) (i : Nat) : Nat :=
  let o := p.base + b.getD 0 0 * 2 ^ p.esz + 16 * (b.getD 1 0 * p.s1 + b.getD 2 0 * p.s2 + b.getD 3 0 * p.s3)
  permMap (o + i) (b.getD 1 0) p.perm

/-- A tensor descriptor's bytes (R181). -/
def TDesc.of (d : List Byte) : TDesc :=
  let n (o k : Nat) : Nat := ofBytes ((d.drop o).take k)
  let m := n 63 1
  { gbase := n 0 8, ext := (List.range 4).map fun k => n (8 + 4 * k) 4
    str := 0 :: (List.range 3).map fun k => sext 64 (n (24 + 8 * k) 8)
    box := (List.range 4).map fun k => n (48 + 2 * k) 2
    fill := n 56 4, scloff := n 60 3, qsrc := bits m 5 2, page := bits m 3 2 + 4 * bits m 7 1, esz := bits m 0 3 }

/-- The bytes of FILL that an element takes (R182). -/
def TDesc.fillBytes (d : TDesc) : List Byte :=
  let f := toBytes 4 d.fill
  (f ++ f ++ f ++ f).take (2 ^ d.esz)

/-- Box coordinates of element `k` of a box (R180). -/
def boxAt (box : List Nat) (k : Nat) : List Nat :=
  let n (i : Nat) : Nat := box.getD i 1
  [k % n 0, k / n 0 % n 1, k / (n 0 * n 1) % n 2, k / (n 0 * n 1 * n 2)]

/-- The element lies in the tensor (R182). -/
def TDesc.inBounds (d : TDesc) (g : List Int) : Bool :=
  (g.zip d.ext).all fun p => decide (0 ≤ p.1 ∧ p.1 < (p.2 : Int))

/-- The global address of an element, or its block address under PAGE 1 (R182). -/
def TDesc.addr (d : TDesc) (g : List Int) : Nat :=
  let g0 := g.headD 0
  let row := ((g.drop 1).zip (d.str.drop 1)).foldl (fun t p => t + p.1 * p.2) (0 : Int)
  wrap 64 ((d.gbase : Int) + (if d.page = 1 then g0 / 24 else g0 * (2 ^ d.esz : Nat)) + row)

namespace Copy

/-- The destination or source PLW in s_a to s_a+2. -/
def plw (c : Copy) : Plw := Plw.of c.a
/-- MODE (R179). -/
def mode (c : Copy) : Nat := bits c.ext.toNat 18 2
/-- The handle (R178). -/
def handle (c : Copy) (slot : Nat) : Nat := c.seq % 2 ^ 26 * 64 + slot
/-- The descriptor that has been read. -/
def td (c : Copy) : TDesc := c.desc.getD {}
/-- The origin (R179, R183). -/
def origin (c : Copy) : List Int :=
  let x (i : Nat) : Nat := (c.b.getD i 0).toNat
  if c.fn = 4 then [sext 32 (x 2), 0, sext 32 (x 2 / 2 ^ 32), 0]
  else [sext 32 (x 1), sext 32 (x 1 / 2 ^ 32), sext 32 (x 2), sext 32 (x 2 / 2 ^ 32)]
/-- The copy makes BQ8 rows (R184). -/
def quantises (c : Copy) : Bool := (c.fn == 0 || c.fn == 2 || c.fn == 4) && (c.td.page == 1 || c.mode != 0)
/-- The element count of the box. -/
def count (c : Copy) : Nat := c.td.box.foldl (· * ·) 1
/-- Rows of the box. -/
def rows (c : Copy) : Nat := c.td.box.getD 1 1
/-- Elements of a row of the box. -/
def cols (c : Copy) : Nat := c.td.box.getD 0 1

/-- The layout rules of the members (R181 to R186). DESIGN CHOICE (log entry 102): a zero extent of the box in s_a+3 of
CPYL raises LAYOUT. -/
def layoutOk (c : Copy) : Bool :=
  let d := c.td
  let p := c.plw
  let box (i : Nat) : Nat := d.box.getD i 1
  let flat := box 2 == 1 && box 3 == 1
  let e (n : Nat) : Bool := d.ext.getD 0 0 % n == 0
  let made := if c.quantises then c.cols * c.rows + c.cols / 24 * c.rows else c.count * 2 ^ d.esz
  let base := d.box.all (1 ≤ ·) && d.scloff < 2 ^ 20 && d.qsrc ≤ 2 && d.page ≤ 1 && d.esz ≤ 4
  if c.fn = 7 then d.box.all (1 ≤ ·) && p.esz == (Plw.of c.b).esz && made < 2 ^ 32
  else if c.fn = 5 then base && d.page == 0 && flat && made < 2 ^ 32
  else
    base && d.ext.all (1 ≤ ·) &&
    (d.page == 0 || ((c.origin.headD 0) % 24 == 0 && e 24 && c.cols % 24 == 0)) &&
    (if c.fn = 1 then d.page == 0 && made < 2 ^ 32
     else if c.fn = 3 then
       (d.page == 1 || d.esz == 0) && c.cols % 24 == 0 && c.rows ≤ 384 && flat && p.esz == 0 && p.perm == 0 &&
         p.s1 == 0 && p.s2 == 0 && p.s3 == 0
     else
       (c.fn != 4 || flat) && made < 2 ^ 32 &&
       (if c.quantises then
         p.esz == 0 && c.rows ≤ 16 && flat && c.cols % 24 == 0 && !(d.page == 1 && c.mode != 0) &&
           (d.page == 1 || d.esz == (if d.qsrc = 0 then 2 else 1))
        else c.fn != 0 || p.esz == d.esz))

/-- The elements of a unit of a plain member: 128 bytes of them, so that a unit is a sector in accounting order. -/
def perUnit (c : Copy) : Nat := 128 / 2 ^ c.td.esz

/-- How many units the copy has in accounting order (R182 to R186): runs of 128 bytes, runs of 24 elements with their scale,
K blocks, rows. -/
def unitCount (c : Copy) : Nat :=
  if c.fn = 3 then c.cols / 24
  else if c.fn = 5 then c.rows
  else if c.quantises then c.rows * (c.cols / 24)
  else (c.count + c.perUnit - 1) / c.perUnit

/-- The accounted bytes of a unit. DESIGN CHOICE (log entry 104): a CPYT whose element width is not known counts KB · 384. -/
def unitBytes (c : Copy) (k : Nat) : Nat :=
  if c.fn = 3 then 1152 * c.width + 384
  else if c.fn = 5 then c.cols * 2 ^ c.td.esz
  else if c.quantises then 25
  else min c.perUnit (c.count - k * c.perUnit) * 2 ^ c.td.esz

/-- The chunks of 128 bytes of the transfer record under way (R187). -/
def chunks (c : Copy) : Nat := (c.xrec.map fun x => (x.len + 127) / 128).getD 0

/-- The items of a unit, each of which the engine moves or leaves owed as a whole (R189, R280): the 16-byte parts of a
chunk of a chain, eight columns of a K block, the elements of a row of CPYBIN and then its entry of the overflow list, the
run of 24 elements with its scale, the elements of a plain unit. -/
def unitItems (c : Copy) (k : Nat) : Nat :=
  if c.fn = 6 then (c.xrec.map fun x => min 8 ((x.len - 128 * k) / 16)).getD 0
  else if c.fn = 3 then 48
  else if c.fn = 5 then c.cols + 1
  else if c.quantises then 1
  else min c.perUnit (c.count - k * c.perUnit)

/-- The bytes of an item in accounting order. -/
def itemBytes (c : Copy) : Nat :=
  if c.fn = 6 then 16
  else if c.fn = 3 then 24 * c.width + 8
  else if c.fn ≠ 5 ∧ c.quantises then 25
  else 2 ^ c.td.esz

/-- The bytes that an item adds to the account when it has landed: those of a chain count record by record (R187), and an entry
of the overflow list counts nothing (R186). -/
def itemCount (c : Copy) (j : Nat) : Nat :=
  if c.fn = 6 ∨ (c.fn = 5 ∧ c.cols ≤ j) then 0 else c.itemBytes

/-- The byte offset in accounting order of the sector, a run of 128 accounted bytes, in which an item begins (R189, R280);
what has been accounted so far where the fault lies before any sector (R369). -/
def sectorOffset (c : Copy) (k j : Nat) : Nat :=
  if c.fn = 0x18 then (if c.units = 0 then c.bytes else k * c.width / 128 * 128)
  else if c.fn = 6 then (if k < c.chunks then c.bytes + 128 * k else c.bytes)
  else if 8 ≤ c.fn ∨ c.desc = none ∨ c.units ≤ k then c.bytes
  else (k * c.unitBytes 0 + j * c.itemBytes) / 128 * 128

/-- The accounted bytes of the whole copy (R182 to R187, R346): for a chain, those of the records so far and of the one
under way; for a collective, the member's DST. A copy whose descriptor has not been read counts none. -/
def total (c : Copy) : Nat :=
  if c.fn = 6 then c.bytes + (c.xrec.map (·.len)).getD 0
  else if c.fn = 0x18 then (if c.units = 0 then c.bytes else c.units * c.width)
  else if c.desc = none then c.bytes
  else if c.fn = 3 then c.cols / 24 * (1152 * c.width + 384)
  else if c.fn = 5 then c.rows * (c.cols * 2 ^ c.td.esz)
  else if c.quantises then c.cols * c.rows + c.cols / 24 * c.rows
  else c.count * 2 ^ c.td.esz

/-- The operand record (R192): `wbyte` is byte 5. The chain head of a CPYCH takes up bytes 8 to 15, and so does the
descriptor's VA of a COLL, whose FN field holds 8. -/
def oprec (c : Copy) (slot wbyte off : Nat) : List Byte :=
  let x (l : List B64) (i : Nat) : Nat := (l.getD i 0).toNat
  let box := if c.fn = 7 then x c.a 3 else 0
  let head := if c.fn = 6 ∨ c.fn = 0x18 then toBytes 8 (x c.a 0) ++ toBytes 4 0
    else toBytes 4 (x c.a 0) ++ toBytes 4 (x c.a 1) ++ toBytes 4 (x c.a 2)
  toBytes 4 c.pc.ix.toNat ++ toBytes 1 (c.pc.sl + 4 * c.cls + 16 * (c.fn % 16)) ++ toBytes 1 wbyte ++ toBytes 2 c.bseq ++
  head ++ toBytes 4 box ++
  toBytes 8 (x c.b 0) ++ toBytes 8 (x c.b 1) ++ toBytes 8 (x c.b 2) ++ toBytes 3 c.ext.toNat ++ [0] ++
  toBytes 4 (box / 2 ^ 32) ++ toBytes 4 off ++ toBytes 4 (c.handle slot)

/-- A fault of the copy at an address (R369). -/
def flt (c : Copy) (fc : FClass) (lvl : Nat) (k : AKind) (a : Nat) : FaultInfo :=
  { cls := fc, lvl := lvl, kind := k, lane := c.lane, pc := c.pc, wslot := c.wslot, addr := a, word := c.word
    extw := BitVec.ofNat 32 (0x7F000000 + c.ext.toNat), code := fc.levelCode lvl
    page := a / 2 ^ 16, w := k == .copyWrite }

/-- The copy as a block of the gang has it (R191, R201): its barrier there, and whether it is detached from it. -/
def inBlock (c : Copy) (b : Nat) : Copy := { c with blk := b, detached := if b = c.blk then c.detached else c.detIn.contains b }

/-- The copy may still write a space, or global memory, that DRAIN names (R194): its destination; a chain's records name
no W-space, and a RATOM writes neither. -/
def writesTo (c : Copy) (space : Nat) : Bool :=
  if c.fn = 0x18 then space == 3
  else if c.fn = 0x19 then false
  else if c.fn = 1 ∨ c.fn = 5 then space == 3
  else if c.fn = 6 then space != 2
  else if c.fn = 7 then (Plw.of c.b).space == space
  else c.plw.space == space

end Copy

/-! ### Moving bytes -/

/-- A part of a copy's work: it may meet faults, and it changes the machine. -/
abbrev CopyM := ExceptT (List FaultInfo) (StateM State)

/-- Does some parts of one unit's work, all of them. Faults of other classes govern NOT-PRESENT (R280). -/
def allOf {α β : Type} (f : β → CopyM α) : List β → CopyM (List α)
  | [] => pure []
  | x :: r => fun s =>
    let (a, s) := (f x).run s
    let (b, s) := (allOf f r).run s
    match a, b with
    | .ok a, .ok b => (.ok (a :: b), s)
    | .ok _, .error e => (.error e, s)
    | .error e, .ok _ => (.error e, s)
    | .error e, .error e' => (.error (e ++ e'), s)

/-- A byte with the poison of the sector it came from (R190). -/
abbrev PByte := Byte × Bool

/-- A write to global memory at a translated address. -/
def GWrite.of (va : Nat) (t : Trans) (data : List PByte) : GWrite := { va := va, pa := t.pa, cls := t.cls, data := data }

/-- What an item writes (R190): bytes of a space by address, bytes of global memory, and the flags that it sets (R112). -/
structure UnitOut where
  sp : List (Nat × Nat × PByte) := []
  gl : List GWrite := []
  fl : Nat := 0

namespace State

/-- Translates an access of a copy (R233). -/
def copyReach (s : State) (core : Nat) (c : Copy) (a : Access) (va : Nat) : Except (List FaultInfo) Trans × State :=
  let (r, s) := s.translate core c.part a va
  match r with
  | .ok t => (.ok t, s)
  | .error f => (.error [c.flt f.cls f.lvl a.kind va], s)

/-- Reads bytes of one home line for a copy (R190, R254): a LOCAL line held in the core's L1 is read there, any other at its
home under the core's pts; a sector whose check word fails is reported and poisoned; the way has been used (R163). -/
def copyPiece (s : State) (core p va pa : Nat) (cls : Cls) (n : Nat) : List PByte × State :=
  let mark (bad : List Nat) (a : Nat) (bs : List Byte) : List PByte :=
    bs.zipIdx.map fun x => (x.1, bad.contains ((a + x.2) / 128))
  match if cls = .loc then s.l1Find core p va else none with
  | some (k, l) => (mark l.poison (pa % 1024) (Memory.read l.data (pa % 1024) n), s.touchWay core k)
  | none =>
    let s := (s.checkSectors p core va pa n .copyRead).readFrom (engineSrc core) (s.coreDie core) pa (s.pts core p)
    (mark ((sectorsOf pa n).filter fun k => (s.sector k).poison) pa (s.mem.read pa n), s)

/-- Reads bytes that lie in one page, line by line. -/
def copyRead (s : State) (core p va pa : Nat) (cls : Cls) (n : Nat) : List PByte × State :=
  let k := 1024 - pa % 1024
  if n ≤ k then s.copyPiece core p va pa cls n
  else
    let (x, s) := s.copyPiece core p va pa cls k
    let (y, s) := s.copyPiece core p (va + k) (pa + k) cls (n - k)
    (x ++ y, s)

/-- Writes bytes of one 16-byte part for a copy (R183, R190, R249, R254): at the home, with poison; the core's own copy of the
line follows, and its way has been used (R163). Its ts is the answer. The twin of a P2 pair writes nothing (R272). -/
def copyWrite (s : State) (core : Nat) (c : Copy) (g : GWrite) : Nat × State :=
  if !(s.blk c.blk).primary then (0, s)
  else
    let bs := g.data.map (·.1)
    let whole := if g.whole then [g.pa / 128] else []
    let s := s.checkMerge c.part core g.va g.pa bs.length whole .copyWrite
    let (ts, s) := s.writeFrom (engineSrc core) (s.coreDie core) c.part g.pa bs (s.pts core c.part) whole
    let s := if g.data.any (·.2) then (sectorsOf g.pa bs.length).foldl poisonHome s else s
    let s := if g.cls = .loc then
        (match s.l1Find core c.part g.va with
         | some (k, l) => (s.touchWay core k).onCore core fun x =>
             { x with lines := x.lines.insert k { l with data := Memory.write l.data (g.pa % 1024) bs } }
         | none => s)
      else s.updateCopy core c.part g.va ts
    (ts, s)

/-- One 16-byte part of an engine write lands in a block's spaces (R171, R190, R197): with its poison, and the waiters on
a barrier there are tested. -/
def landPart (s : State) (b : Nat) (ws : List (Nat × Nat × PByte)) : State :=
  let s := ws.foldl (fun s w =>
    let s := s.spaceWrite b w.1 w.2.1 [w.2.2.1]
    if w.2.2.2 then s.poisonSpace b w.1 w.2.1 else s) s
  s.testBars b ((ws.filter fun w => w.1 == 0).map fun w => w.2.1 / 16)

end State

namespace Carry

/-- A byte of a space joins its sector, in place of an earlier one. -/
def putByte (c : Carry) (w : Nat × Nat × PByte) : Carry :=
  let k := 4 * (w.2.1 / 128) + w.1
  { c with sp := c.sp.insert k (Tab.insert (c.sp.get [] k) (w.2.1 % 128) w.2.2) }

/-- A global write joins its sector, in place of an earlier one. -/
def putWrite (c : Carry) (g : GWrite) : Carry :=
  { c with gl := c.gl.insert (g.pa / 128) (Tab.insert (c.gl.get [] (g.pa / 128)) g.pa g) }

/-- Bytes of some global writes. -/
def glen (t : Tab GWrite) : Nat := t.foldl (fun n g => n + g.2.data.length) 0

/-- The bytes that wait. -/
def size (c : Carry) : Nat := c.sp.foldl (fun n x => n + x.2.length) 0 + c.gl.foldl (fun n x => n + glen x.2) 0

/-- Nothing waits, neither bytes nor their account. -/
def isEmpty (c : Carry) : Bool := c.sp.isEmpty && c.gl.isEmpty && c.n == 0

/-- The sectors that are all there, and the others. -/
def split (c : Carry) : Carry × Carry :=
  ({ sp := c.sp.filter fun x => x.2.length == 128, gl := c.gl.filter fun x => glen x.2 == 128 },
   { sp := c.sp.filter fun x => x.2.length != 128, gl := c.gl.filter fun x => glen x.2 != 128 })

/-- Bytes of spaces by 16-byte parts (R171). -/
def spParts (c : Carry) : List (List (Nat × Nat × PByte)) :=
  c.sp.flatMap fun x => (List.range 8).filterMap fun i => match x.2.filter fun b => b.1 / 16 == i with
    | [] => none
    | bs => some (bs.map fun b => (x.1 % 4, x.1 / 4 * 128 + b.1, b.2))

/-- The sectors of spaces that are covered whole, without poison (R272). -/
def clean (c : Carry) : List (Nat × Nat) :=
  (c.sp.filter fun x => x.2.length == 128 && !x.2.any fun b => b.2.2).map fun x => (x.1 % 4, x.1 / 4)

/-- Global writes that adjoin become one WRITE (R249). -/
def joined : List GWrite → List GWrite
  | [] => []
  | g :: r => match joined r with
    | h :: q =>
      if g.pa + g.data.length = h.pa ∧ g.va + g.data.length = h.va ∧ g.cls = h.cls then { g with data := g.data ++ h.data } :: q
      else g :: h :: q
    | [] => [g]

/-- Global writes by 16-byte parts (R171). -/
def glParts (c : Carry) : List (List GWrite) :=
  c.gl.flatMap fun x =>
    let all := glen x.2 == 128 && !x.2.any fun g => g.2.data.any (·.2)
    (List.range 8).filterMap fun i => match x.2.filter fun g => g.1 % 128 / 16 == i with
      | [] => none
      | gs => some (joined (gs.map fun g => { g.2 with whole := all }))

/-- What lands of these bytes, with `n` of them to be accounted. -/
def landing (c : Carry) (n : Nat) : Landing :=
  { sp := c.spParts, gl := c.glParts, whole := c.clean, n := n
    poison := (c.sp.any fun x => x.2.any fun b => b.2.2) || c.gl.any fun x => x.2.any fun g => g.2.data.any (·.2) }

end Carry

/-- A read of `n` bytes that lie in one page, of a format. -/
def readGlobal (core : Nat) (c : Copy) (on_ : List Cls) (va n : Nat) : CopyM (List PByte) := fun s =>
  match s.copyReach core c { kind := .copyRead, rd := true, cls := on_ } va with
  | (.error e, s) => (.error e, s)
  | (.ok t, s) => let (r, s) := s.copyRead core c.part va t.pa t.cls n; (.ok r, s)

/-- The translation for a write of raw data. -/
def reachWrite (core : Nat) (c : Copy) (va : Nat) : CopyM Trans := fun s =>
  s.copyReach core c { kind := .copyWrite, wr := true } va

/-- Refuses a misaligned global address (R182). -/
def aligned (c : Copy) (k : AKind) (n va : Nat) : CopyM Unit :=
  if va % n = 0 then pure () else throw [c.flt .alignment 0 k va]

/-- A block that lies in a formatted page (R182, R236): elements, scale, element width, poison. -/
def readBlock (core : Nat) (c : Copy) (ba : Nat) : CopyM (List Int × Nat × Nat × Bool) := fun s =>
  match s.copyReach core c { kind := .copyRead, rd := true, fmt := [1, 2, 3] } ba with
  | (.error e, s) => (.error e, s)
  | (.ok t, s) =>
    let (blocks, eb) := State.fmtBlocks t.fmt
    let b := ba % 2 ^ 16
    if blocks ≤ b then (.error [c.flt .format 0 .copyRead ba], s)
    else
      let (x, s) := s.copyRead core c.part (ba - b + eb * b) (t.pa - b + eb * b) t.cls eb
      let (y, s) := s.copyRead core c.part (ba - b + blocks * eb + b) (t.pa - b + blocks * eb + b) t.cls 1
      let w := eb / 3
      (.ok (unpackElems w 24 (ofBytes (x.map (·.1))), ofBytes (y.map (·.1)), w, (x ++ y).any (·.2)), s)

/-- Bytes of a space of the copy's block, each by its address (R167, R190); a killed block's are not read (R273). -/
def readSpace (c : Copy) (space : Nat) (as_ : List Nat) : CopyM (List PByte) :=
  allOf (fun a => fun s =>
    if c.dropped then (.ok (0, false), s)
    else if s.spaceHas c.blk space a then (.ok (s.spaceByte c.blk space a, s.spacePoison c.blk space a), s)
    else (.error [c.flt .space 0 .copyRead a], s)) as_

/-- Checks that bytes may land in a space (R167); CPYM checks each destination when it writes (R191). -/
def landAt (c : Copy) (space : Nat) (as_ : List Nat) (bs : List PByte) : CopyM (List (Nat × Nat × PByte)) :=
  allOf (fun x => fun s =>
    if c.dropped || c.fn == 2 || s.spaceHas c.blk space x.1 then (.ok (space, x.1, x.2), s)
    else (.error [c.flt .space 0 .copyWrite x.1], s)) (as_.zip bs)

/-- The list that a CPYG or CPYBIN indexes by (R183, R186), one N32 for each box row, read before a sector moves. DESIGN CHOICE
(log entry 103): a list whose VA is no multiple of 4 raises ALIGNMENT. DESIGN CHOICE (log entry 146): poison of the list is not
looked at. -/
def readIndex (core : Nat) (c : Copy) : CopyM (List Nat) :=
  allOf (fun r => do
    let a := ((c.b.getD 1 0).toNat + 4 * r) % 2 ^ 64
    aligned c .copyRead 4 a
    let x ← readGlobal core c [.loc, .dev, .sys] a 4
    pure (ofBytes (x.map (·.1)))) (List.range c.rows)

/-- The global row of a box row (R183): by the index list for a CPYG, else origin1 + b1. -/
def rowOf (c : Copy) (b1 : Nat) : Int :=
  if c.fn = 4 then (((c.idx.getD []).getD b1 0 : Nat) : Int) else c.origin.getD 1 0 + b1

/-- Global coordinates of a box element whose row is known (R182). -/
def coords (c : Copy) (row : Int) (b : List Nat) : List Int :=
  let n (i : Nat) : Int := (b.getD i 0 : Nat)
  [c.origin.getD 0 0 + n 0, row, c.origin.getD 2 0 + n 2, c.origin.getD 3 0 + n 3]

/-- An element of the window (R182): its bytes, FILL out of bounds. -/
def readElem (core : Nat) (c : Copy) (g : List Int) : CopyM (List PByte) :=
  let d := c.td
  if d.inBounds g then do
    aligned c .copyRead (2 ^ d.esz) (d.addr g)
    readGlobal core c [.loc, .dev, .sys] (d.addr g) (2 ^ d.esz)
  else pure (d.fillBytes.map fun x => (x, false))

/-- The space addresses of the bytes of a box element. -/
def Plw.bytesAt (p : Plw) (b : List Nat) (n : Nat) : List Nat := (List.range n).map (p.at_ b)

/-- The elements of a unit of a plain member. -/
def unitElems (c : Copy) (k : Nat) : List (List Nat) :=
  (List.range (min c.perUnit (c.count - k * c.perUnit))).map fun i => boxAt c.td.box (k * c.perUnit + i)

/-- The box element of an item of a plain member. -/
def itemElem (c : Copy) (k j : Nat) : List Nat := boxAt c.td.box (k * c.perUnit + j)

/-- An element of CPY, CPYM and CPYG (R183). -/
def rawIn (core : Nat) (c : Copy) (b : List Nat) : CopyM UnitOut := do
  let x ← readElem core c (coords c (rowOf c (b.getD 1 0)) b)
  let ws ← landAt c c.plw.space (c.plw.bytesAt b (2 ^ c.td.esz)) x
  pure { sp := ws }

/-- An element of CPYO (R183): nothing is written for one out of bounds. DESIGN CHOICE (log entry 101): where the ESZ of the PLW
differs from the descriptor's, 2^ESZ of the descriptor's bytes move at the PLW's pitch, here as in CPYM and CPYG. -/
def rawOut (core : Nat) (c : Copy) (b : List Nat) : CopyM UnitOut := do
  let n := 2 ^ c.td.esz
  let g := coords c (rowOf c (b.getD 1 0)) b
  if c.dropped || !c.td.inBounds g then pure {}
  else do
    let x ← readSpace c c.plw.space (c.plw.bytesAt b n)
    aligned c .copyWrite n (c.td.addr g)
    let t ← reachWrite core c (c.td.addr g)
    pure { gl := [GWrite.of (c.td.addr g) t x] }

/-- An element of CPYL (R183). -/
def spaceToSpace (c : Copy) (b : List Nat) : CopyM UnitOut := do
  let q := Plw.of c.b
  let n := 2 ^ c.td.esz
  let x ← readSpace c c.plw.space (c.plw.bytesAt b n)
  let ws ← landAt c q.space (q.bytesAt b n) x
  pure { sp := if c.dropped then [] else ws }

/-- The values of QSRC (R184). -/
def qsrcFmt (n : Nat) : FFmt :=
  match n with
  | 0 => f32
  | 1 => f16
  | _ => b16

/-- A run of 24 elements with its scale (R184): decoded under PAGE 1, quantised otherwise. -/
def quantUnit (core : Nat) (c : Copy) (k : Nat) : CopyM UnitOut := do
  let d := c.td
  let kbs := c.cols / 24
  let b1 := k / kbs
  let kb := k % kbs
  let row := rowOf c b1
  let (es, x, fl, poison) ←
    if d.page = 1 then
      let g := coords c row [24 * kb, b1, 0, 0]
      if d.inBounds g then do
        let (es, x, _, p) ← readBlock core c (d.addr g)
        pure (es, x, 0, p)
      else pure (List.replicate 24 (sext 8 d.fill), bits d.fill 8 8, 0, false)
    else do
      let vs ← allOf (fun i => readElem core c (coords c row [24 * kb + i, b1, 0, 0])) (List.range 24)
      let q := quant (vs.map fun v => (qsrcFmt d.qsrc).read (ofBytes (v.map (·.1)))) 8 (c.mode == 2)
      pure (q.e, q.x, q.fl, vs.any fun v => v.any (·.2))
  let at_ := ((List.range 24).map fun i => c.plw.at_ [24 * kb + i, b1, 0, 0] 0) ++ [d.scloff + kb * 16 + b1]
  let bs := (es.map fun e => BitVec.ofNat 8 (wrap 8 e)) ++ [BitVec.ofNat 8 x]
  let ws ← landAt c c.plw.space at_ (bs.map fun b => (b, poison))
  pure { sp := ws, fl := fl }

/-- A column of a K block for CPYT (R185): elements, scale, poison. -/
def planeColumn (core : Nat) (c : Copy) (kb n : Nat) : CopyM (List Int × Nat × Bool) :=
  let d := c.td
  let row := c.origin.getD 1 0 + n
  let fillE := List.replicate 24 (d.fill : Int)
  if d.page = 1 then
    let g := coords c row [24 * kb, n, 0, 0]
    if d.inBounds g then do
      let (es, x, w, p) ← readBlock core c (d.addr g)
      if w = c.width then pure (es, x, p) else throw [c.flt .format 0 .copyRead (d.addr g)]
    else pure (fillE, bits d.fill 8 8, false)
  else do
    let gs := (List.range 24).map fun i => coords c row [24 * kb + i, n, 0, 0]
    let vs ← allOf (readElem core c) gs
    pure (vs.map fun v => sext 8 (ofBytes (v.map (·.1))), if gs.any d.inBounds then 127 else bits d.fill 8 8,
      vs.any fun v => v.any (·.2))

/-- CPYT of eight columns of a K block (R185): their bytes of the planes, and their scales. -/
def planeUnit (core : Nat) (c : Copy) (kb m : Nat) : CopyM UnitOut := do
  let cols ← allOf (fun i => if 8 * m + i < c.rows then planeColumn core c kb (8 * m + i) else pure ([], 0, false)) (List.range 8)
  let poison := cols.any fun x => x.2.2
  let plane := (List.range c.width).flatMap fun j => (List.range 24).map fun i =>
    BitVec.ofNat 8 (cols.foldr (fun x v => 2 * v + b2n (bitAt (wrap c.width (x.1.getD i 0)) j)) 0)
  let scales := cols.map fun x => (BitVec.ofNat 8 x.2.1, x.2.2)
  let at_ := ((List.range c.width).flatMap fun j => (List.range 24).map fun i =>
      c.plw.base + (kb * c.width + j) * 1152 + 48 * i + m) ++
    (List.range 8).map (c.td.scloff + kb * 384 + 8 * m + ·)
  let ws ← landAt c 2 at_ ((plane.map fun b => (b, poison)) ++ scales)
  pure { sp := ws }

/-- BUMP of a count in the bin table (R186), a read-modify-write at .dev: the count before, and the ts. -/
def bump (core : Nat) (c : Copy) (va : Nat) : CopyM (Nat × Nat) := do
  let t ← fun s => s.copyReach core c { kind := .copyWrite, rd := true, wr := true, cls := [.dev] } va
  fun s =>
    let k := s.mem.readNat t.pa 4
    let (ts, s) := s.copyWrite core c (GWrite.of va t ((toBytes 4 (min (k + 1) (2 ^ 32 - 1))).map fun b => (b, false)))
    (.ok (k, ts), s)

/-- A bin (R186): BASE, CAP, and the VA of COUNT. -/
def readBin (core : Nat) (c : Copy) (b : Nat) : CopyM (Nat × Nat × Nat) := do
  let a := ((c.b.getD 2 0).toNat + 16 + 16 * b) % 2 ^ 64
  let x ← readGlobal core c [.dev] a 8
  let y ← readGlobal core c [.dev] ((a + 8) % 2 ^ 64) 8
  pure (ofBytes (x.map (·.1)), ofBytes ((y.take 4).map (·.1)), (a + 12) % 2 ^ 64)

/-- NBINS and the overflow list of a bin table (R186). DESIGN CHOICE: a table whose VA is no multiple of 8 raises ALIGNMENT (log
entry 143), nonzero bytes 4 to 7 raise LAYOUT (log entry 144), poison of the table is not looked at (log entry 146). -/
def readBins (core : Nat) (c : Copy) : CopyM (Nat × Nat) := do
  let table := (c.b.getD 2 0).toNat
  aligned c .copyRead 8 table
  let head ← readGlobal core c [.dev] table 8
  let ov ← readGlobal core c [.dev] ((table + 8) % 2 ^ 64) 8
  let nbins := ofBytes ((head.take 4).map (·.1))
  if nbins = 0 ∨ 65536 < nbins ∨ ofBytes ((head.drop 4).map (·.1)) ≠ 0 then throw [c.flt .layout 0 .copyRead table]
  else pure (nbins, ofBytes (ov.map (·.1)))

/-- A row is counted at its bin (R186): it is placed there, or goes on to the overflow bin. -/
def binFirst (core : Nat) (c : Copy) (r : Nat) : CopyM (BinRow × Nat) := do
  let (nbins, _) ← readBins core c
  let b := min ((c.idx.getD []).getD r 0) nbins
  if b = nbins then pure ({ spilt := true }, 0)
  else do
    let (base, cap, va) ← readBin core c b
    let (k, ts) ← bump core c va
    pure (if k < cap then { va := some ((base + k * c.unitBytes r) % 2 ^ 64) } else { spilt := true }, ts)

/-- A row that its bin did not take is counted at the overflow bin (R186): it is placed there with an entry of the
overflow list, or it is dropped. -/
def binSecond (core : Nat) (c : Copy) (r : Nat) : CopyM (BinRow × Nat) := do
  let (nbins, ov) ← readBins core c
  let (base, cap, va) ← readBin core c nbins
  let (k, ts) ← bump core c va
  pure (if k < cap then { spilt := true, va := some ((base + k * c.unitBytes r) % 2 ^ 64), list := some ((ov + 4 * k) % 2 ^ 64) }
    else { spilt := true }, ts)

/-- WRITE_ROW of R186, by elements, and the entry of the overflow list. DESIGN CHOICE (log entry 143): a row whose address is no
multiple of 2^ESZ, and an entry whose address is no multiple of 4, raise ALIGNMENT. -/
def binItem (core : Nat) (c : Copy) (r j : Nat) : CopyM UnitOut :=
  let n := 2 ^ c.td.esz
  let x := c.bins.get {} r
  match if j < c.cols then x.va else x.list with
  | none => pure {}
  | some a =>
    if c.dropped then pure {}
    else if j < c.cols then do
      let v := (a + n * j) % 2 ^ 64
      let d ← readSpace c c.plw.space (c.plw.bytesAt [j, r, 0, 0] n)
      aligned c .copyWrite n v
      let t ← reachWrite core c v
      pure { gl := [GWrite.of v t d] }
    else do
      aligned c .copyWrite 4 a
      let t ← reachWrite core c a
      pure { gl := [GWrite.of a t ((toBytes 4 r).map fun x => (x, false))] }

/-- A 16-byte part of a transfer record (R187). -/
def chainItem (core : Nat) (c : Copy) (x : XRec) (o : Nat) : CopyM UnitOut := do
  let src ← if x.srcK = 0 then readGlobal core c [.loc, .dev, .sys] ((x.src + o) % 2 ^ 64) 16
    else readSpace c (x.srcK - 1) ((List.range 16).map (x.src % 2 ^ 20 + o + ·))
  if x.dstK = 0 then do
    let t ← reachWrite core c ((x.dst + o) % 2 ^ 64)
    pure { gl := if c.dropped && x.srcK != 0 then [] else [GWrite.of ((x.dst + o) % 2 ^ 64) t src] }
  else do
    let ws ← landAt c (x.dstK - 1) ((List.range 16).map (x.dst % 2 ^ 20 + o + ·)) src
    pure { sp := ws }

/-- Item `j` of unit `k` of a copy. -/
def copyItem (core : Nat) (c : Copy) (k j : Nat) : CopyM UnitOut :=
  if c.fn = 6 then (match c.xrec with
    | some x => chainItem core c x (128 * k + 16 * j)
    | none => pure {})
  else if c.fn = 5 then binItem core c k j
  else if c.fn = 1 then rawOut core c (itemElem c k j)
  else if c.fn = 3 then planeUnit core c k j
  else if c.fn = 7 then spaceToSpace c (itemElem c k j)
  else if c.quantises then quantUnit core c k
  else rawIn core c (itemElem c k j)

namespace State

/-- Changes a copy. -/
def onCopy (s : State) (core slot : Nat) (f : Copy → Copy) : State :=
  s.onCore core fun k => { k with copies := Tab.modify f k.copies slot }

/-- The bytes of a two-entry record of a copy (R189, R192): `lcore` the core it names. -/
def copyRecordBytes (s : State) (core slot : Nat) (c : Copy) (precise : Bool) (lcore off : Nat) (f : FaultInfo) : List Byte :=
  let k := s.blk c.blk
  let ws := ((s.wave? c.blk c.wave).map (·.slot)).getD 0
  recordBytes c.part precise k.handler 2 k ws lcore (s.pts core c.part) f ++ c.oprec slot ws off

/-- Queues a two-entry record of a copy (R189, R192). -/
def copyRecord (s : State) (core slot : Nat) (c : Copy) (precise : Bool) (lcore off : Nat) (f : FaultInfo)
    (h : Option (Nat × HPend)) : State :=
  s.pushRecord c.part (s.copyRecordBytes core slot c precise lcore off f) h

/-- A part of a multicast lands in the blocks of the gang (R191). DESIGN CHOICE (log entry 133): a block in which a byte has had
no line takes nothing more. -/
def landGang (s : State) (c : Copy) (l : Landing) (ws : List (Nat × Nat × PByte)) : Landing × State :=
  (s.gangOf c.blk).foldl (fun (x : Landing × State) b =>
    if c.failedDst.contains b || x.1.lost.any fun y => y.1 == b then x
    else match ws.find? fun w => !x.2.spaceHas b w.1 w.2.1 with
      | some w => ({ x.1 with lost := x.1.lost ++ [(b, w.2.1)] }, x.2)
      | none => (x.1, x.2.landPart b ws)) (l, s)

/-- The bytes of a multicast are counted off the barrier of one block of the gang (R191, R198), as written with no data
where it has failed; the first failure in a block makes a record. -/
def countGang (core slot : Nat) (c : Copy) (l : Landing) (s : State) (b : Nat) : State :=
  let dst := (s.blk b).core
  if c.failedDst.contains b then s.countBytes (c.inBlock b) dst l.n true false
  else match l.lost.find? fun x => x.1 == b with
    | none => (s.clearSectors b l.whole).countBytes (c.inBlock b) dst l.n false l.poison
    | some x =>
      ((s.copyRecord core slot c false dst c.bytes (c.flt .space 0 .copyWrite x.2) none).onCopy core slot fun x =>
        { x with failedDst := x.failedDst ++ [b] }).countBytes (c.inBlock b) dst l.n true false

/-- The ts of a copy's global writes joins PEND of the waves that may learn that they have landed (R195, R254), before their
bytes are counted. DEDUCED (log entry 134): these are all waves of its block. -/
def joinPend (s : State) (b ts : Nat) : State :=
  if ts = 0 then s else s.onWaves b fun _ w => { w with pend := max w.pend ts }

/-- Writes have landed (R195, R198): their bytes are accounted and counted off the barrier. -/
def landed (s : State) (core slot : Nat) (c : Copy) (l : Landing) : State :=
  let s := s.onCopy core slot fun x => { x with land := none, bytes := x.bytes + l.n, poison := x.poison || l.poison }
  let s := s.joinPend c.blk c.ts
  if c.fn = 2 then
    if l.n = 0 && l.lost.isEmpty then s else (s.gangOf c.blk).foldl (countGang core slot c l) s
  else
    let s := if c.dropped then s else s.clearSectors c.blk l.whole
    if l.n = 0 then s else s.countBytes c core l.n false l.poison

/-- The next 16-byte part of the writes lands (R171); after the last they are accounted. -/
def landStep (s : State) (core slot : Nat) (c : Copy) (l : Landing) : State :=
  let go (s : State) (l : Landing) : State :=
    if l.sp.isEmpty && l.gl.isEmpty then s.landed core slot (((s.core core).copies.find slot).getD c) l
    else s.onCopy core slot fun x => { x with land := some l }
  match l.sp, l.gl with
  | p :: r, _ =>
    let l := { l with sp := r }
    if c.dropped then go s l
    else if c.fn = 2 then let (l, s) := s.landGang c l p; go s l
    else go (s.landPart c.blk p) l
  | [], gs :: r =>
    let (ts, s) := gs.foldl (fun (x : Nat × State) g => let (t, s) := x.2.copyWrite core c g; (max x.1 t, s)) (0, s)
    go (s.onCopy core slot fun x => { x with ts := max x.ts ts }) { l with gl := r }
  | [], [] => go s l

/-- Writes begin to land, or, where there are none, are accounted at once (R195, R198). -/
def beginLanding (s : State) (core slot : Nat) (l : Landing) : State :=
  if l.sp.isEmpty && l.gl.isEmpty then
    match (s.core core).copies.find slot with
    | some c => s.landed core slot c l
    | none => s
  else s.onCopy core slot fun x => { x with land := some l }

/-- What a copy does with the faults that its items have met (R189), each with its unit and item: NOT-PRESENT leaves the
item owed, any other ends the copy. -/
def oweItems (s : State) (core slot : Nat) (xs : List (Nat × Nat × FaultInfo)) : State :=
  s.onCopy core slot fun c =>
    match xs.find? fun x => x.2.2.cls != .notPresent with
    | some (k, j, f) => { c with fault := some f, failOff := c.sectorOffset k j }
    | none => { c with owed := c.owed ++ xs }

/-- What a copy does with the faults that a unit as a whole, or what comes before any sector, has met (R189). -/
def owe (s : State) (core slot k : Nat) (fs : List FaultInfo) : State := s.oweItems core slot (fs.map fun f => (k, 0, f))

/-- The lowest free slot of a copy engine (R178, R188, R280): a suspended copy keeps its own until its image is written. -/
def freeSlot (s : State) (core : Nat) : Option Nat :=
  (List.range 64).find? fun k => match (s.core core).copies.find k with
    | none => true
    | some c => match c.st with
      | .done | .faulted => true
      | _ => false

/-- Starts of a core that wait for a slot and came before a place in the order, and restarted copies (R178, R310). -/
def startsBefore (s : State) (core n : Nat) : Nat :=
  ((s.core core).copies.filter fun x => 64 ≤ x.1).length +
  ((s.residentWaves core).filter fun x => match x.2.2.2.hold, x.2.2.2.mode with
    | some (.slot m), .run => m < n
    | _, _ => false).length

/-- Gives a copy a slot and a handle (R178). -/
def putCopy (s : State) (core slot : Nat) (c : Copy) : State :=
  s.onCore core fun k => { k with copies := k.copies.insert slot { c with seq := k.starts }, starts := k.starts + 1 }

/-- A restarted copy that waits takes a slot that has become free (R178, R310). -/
def promote (s : State) (core : Nat) : State :=
  match (s.core core).copies.find? fun x => 64 ≤ x.1, s.freeSlot core with
  | some (k, c), some slot => s.onCore core fun x => { x with copies := (x.copies.erase k).insert slot c }
  | _, _ => s

end State

/-- A batch class of a wave (R193). -/
def Wave.batch (w : Wave) (k : Nat) : BatchCls := w.batches.getD k {}

/-- Changes a batch class. -/
def Wave.setBatch (w : Wave) (k : Nat) (b : BatchCls) : Wave :=
  { w with batches := (List.range 4).map fun i => if i = k then b else Wave.batch w i }

/-- The oldest sealed batches that have no copy left finish (R193). -/
def dropFinished : List (List Nat) → List (List Nat)
  | [] :: r => dropFinished r
  | l => l

/-- A copy of a class is done or faulted (R193). -/
def BatchCls.finish (b : BatchCls) (id : Nat) : BatchCls :=
  { b with opened := b.opened.erase id, sealed := dropFinished (b.sealed.map fun l => l.erase id) }

/-- SEAL of a class (R193). -/
def BatchCls.close (b : BatchCls) : BatchCls :=
  { b with sealed := dropFinished (b.sealed ++ [b.opened]), opened := [], seq := b.seq + 1 }

namespace State

/-- Flags of an engine operation go to a wave, or to the lowest-indexed wave of the block that has not ended (R112). -/
def deliver (s : State) (b w fl : Nat) : State :=
  let alive (i : Nat) : Bool := ((s.wave? b i).map fun x => !Wave.isEnded x).getD false
  match (w :: List.range (s.blk b).waves.length).find? alive with
  | some i => s.onWave b i fun x => { x with engFl := x.engFl ||| fl }
  | none => s

/-- A copy is done or faulted (R112, R178, R193, R248): the ts of its writes joins PEND of its wave, its flags go to its
wave, its batch counts, its slot is free. -/
def finishCopy (s : State) (core slot : Nat) (st : CopySt) : State :=
  match (s.core core).copies.find slot with
  | none => s
  | some c =>
    let s := s.onCopy core slot fun c => { c with st := st, todo := [], owed := [], left := [], land := none, carry := {}, bins := [] }
    let s := s.onWave c.blk c.wave fun w => { w with pend := max w.pend c.ts }
    let s := if c.flags = 0 then s else s.deliver c.blk c.wave c.flags
    let s := s.onWave c.blk c.wave fun w => w.setBatch c.cls ((Wave.batch w c.cls).finish c.seq)
    s.promote core

/-- A place in the order of starts that wait for a slot. -/
def slotOrder (s : State) : Nat × State :=
  match s.issue.cur.hold with
  | some (.slot n) => (n, s)
  | _ => s.takeOrder

/-- The issuing wave starts a copy, or waits for a slot (R178, R193). -/
def startCopy (s : State) (c : Copy) : State :=
  let e := s.issue
  let (n, s) := s.slotOrder
  match if s.startsBefore e.core n = 0 then s.freeSlot e.core else none with
  | none => s.retry (.slot n)
  | some slot =>
    let id := (s.core e.core).starts
    let b := Wave.batch e.cur c.cls
    let s := s.putCopy e.core slot { c with bseq := b.seq % 65536 }
    s.onIssue fun e =>
      ({ e with cur := e.cur.setBatch c.cls { b with opened := b.opened ++ [id] } }).putLatch 2 ({ c with seq := id }.handle slot)

/-- The copy that a start of the issuing wave makes. -/
def newCopy (s : State) (fn l cls : Nat) (ext : BitVec 24) (a b : List B64) : Copy :=
  let e := s.issue
  { seq := 0, blk := e.blk, wave := e.wv, part := s.ipart, det := s.iblk.det, st := .queued, pc := e.pc, lane := l
    wslot := e.wslot, word := e.word, fn := fn, cls := cls, bseq := 0, a := a, b := b, ext := ext
    chain := if fn = 6 then some (a.getD 0 0).toNat else none }

/-- `n` scalars from the one that a byte names, where there is one. -/
def scalars (e : Issue) (x : Byte) (n : Nat) : List B64 :=
  (List.range n).map fun i => BitVec.ofNat 64 (e.old.readS ((x.toNat + i) % 64))

/-- The layout and space checks of the PLWs of a start (R179). -/
def plwCheck (fn : Nat) (ps : List Plw) : Option FClass :=
  if !ps.all Plw.legal then some .layout
  else if ps.any fun p => (p.space == 2) != (fn == 3) then some .space
  else none

/-- A copy start (R178, R179): the role, the PLWs, the barrier's sector; then a release at .block and the copy. -/
def copyStart (fn : Nat) (roles : List Role) (f : FmtAbx) (s : State) : State :=
  let e := s.issue
  match e.actor with
  | none => s.onIssue fun e => e.clearLatch 2
  | some l =>
    let a := scalars e f.a (if fn = 7 then 4 else if fn = 6 then 1 else 3)
    let b := if fn = 6 then [] else scalars e f.b 3
    let opa := (a.getD 0 0).toNat
    let opb := (b.getD 0 0).toNat
    let bar := 16 * bits f.x.p.toNat 0 16
    let ps := if fn = 6 then [] else if fn = 7 then [Plw.of a, Plw.of b] else [Plw.of a]
    if !roles.contains e.cur.role then s.raise [memberFault .role l 0 opa opb]
    else match plwCheck fn ps with
      | some c => s.raise [memberFault c l 0 opa opb]
      | none =>
        if !bitAt f.x.p.toNat 20 && !s.spaceHas e.blk 0 bar then s.raise [memberFault .space l bar opa opb]
        else (s.release 1).startCopy (s.newCopy fn l (bits f.x.p.toNat 16 2) f.x.p a b)

/-- The word of CPYQ (R188). -/
def cpyqWord (s : State) (core h : Nat) : Nat :=
  match (s.core core).copies.find (h % 64) with
  | none => 0
  | some c =>
    if c.seq % 2 ^ 26 ≠ bits h 6 26 then 0
    else b2n c.rowDropped * 2 ^ 41 + b2n c.poison * 2 ^ 40 + b2n (!c.failedDst.isEmpty) * 2 ^ 39 + c.st.code * 2 ^ 32 +
      c.bytes % 2 ^ 32

/-- The handles of the copies of a block in flight that write what a DRAIN names (R194). -/
def drainSet (s : State) (b space : Nat) : List Nat :=
  ((s.core (s.blk b).core).copies.filter fun x => x.2.blk == b && x.2.inFlight && x.2.writesTo space).map fun x => x.2.seq

/-- Copies of a block among some are still in flight. -/
def anyInFlight (s : State) (b : Nat) (ids : List Nat) : Bool :=
  (s.core (s.blk b).core).copies.any fun x => x.2.blk == b && x.2.inFlight && ids.contains x.2.seq


end State

/-- CPY (R183): roles ANY and LOAD (R41). -/
def execCpy (f : FmtAbx) (s : State) : Out := .next (State.copyStart 0 [.any, .load] f s)

/-- CPYO (R183): roles ANY and STORE (R41). -/
def execCpyo (f : FmtAbx) (s : State) : Out := .next (State.copyStart 1 [.any, .store] f s)

/-- CPYM (R183, R191). -/
def execCpym (f : FmtAbx) (s : State) : Out := .next (State.copyStart 2 [.any, .load] f s)

/-- CPYT (R185). -/
def execCpyt (f : FmtAbx) (s : State) : Out := .next (State.copyStart 3 [.any, .load] f s)

/-- CPYG (R183). -/
def execCpyg (f : FmtAbx) (s : State) : Out := .next (State.copyStart 4 [.any, .load] f s)

/-- CPYBIN (R186). -/
def execCpybin (f : FmtAbx) (s : State) : Out := .next (State.copyStart 5 [.any, .store] f s)

/-- CPYCH (R187). -/
def execCpych (f : FmtAbx) (s : State) : Out := .next (State.copyStart 6 [.any, .load, .store] f s)

/-- CPYL (R183). -/
def execCpyl (f : FmtAbx) (s : State) : Out := .next (State.copyStart 7 [.any, .load, .store] f s)

/-- CPYQ (R188). -/
def execCpyq (f : FmtAb) (s : State) : Out :=
  match s.issue.actor with
  | none => .next (s.onIssue fun e => e.clearLatch 2)
  | some _ =>
    let v := s.cpyqWord s.issue.core (s.issue.ss f.a % 2 ^ 32)
    .next (s.onIssue fun e => (e.putLatch 2 v).writeS f.b v)

/-- SEAL (R193, R194): a 64th unfinished batch waits. -/
def execSeal (f : FmtAb) (s : State) : Out :=
  match s.issue.actor with
  | none => .next s
  | some _ =>
    let k := f.b.toNat % 4
    let b := Wave.batch s.issue.cur k
    if 63 ≤ b.sealed.length then .next (s.retry (.seal k))
    else .next (s.onIssue fun e => { e with cur := e.cur.setBatch k b.close })

/-- WAITB (R194). -/
def execWaitb (f : FmtAb) (s : State) : Out :=
  match s.issue.actor with
  | none => .next s
  | some _ =>
    let k := f.b.toNat % 4
    let n := f.a.toNat
    if (Wave.batch s.issue.cur k).sealed.length ≤ n then .next (s.acquire 1) else .next (s.wait (.waitb k n))

/-- DRAIN (R194). -/
def execDrain (f : FmtAb) (s : State) : Out :=
  match s.issue.actor with
  | none => .next s
  | some _ =>
    let k := f.b.toNat % 4
    let ids := s.drainSet s.issue.blk k
    if ids.isEmpty then .next (s.acquire 1) else .next (s.wait (.drain k ids))

/-- A waiting WAITB or DRAIN of a wave that can return (R194). -/
def State.waitbOver (s : State) (b w : Nat) : Option Waiting :=
  (s.openWaits b w).find? fun x => match x.kind with
    | .waitb k n => decide ((((s.wave? b w).map fun v => (Wave.batch v k).sealed.length).getD 0) ≤ n)
    | .drain _ ids => !s.anyInFlight b ids
    | _ => false

/-- WAITB_WAKE (R194): a waiting WAITB or DRAIN returns, an acquire at .block. -/
def execWaitbWake (blk wave : Nat) (s : State) : Out :=
  match s.waitbOver blk wave with
  | some x => .next ((s.finishWait blk wave x none none).acquireWave (s.blk blk).core (s.blk blk).part blk wave 1)
  | none => .next s

end Sys2Proof.Machine
end

