-- ==== Sys2Proof/Machine/CopyRun.lean ====
section
/-!
DEFINITION. What the copy engine does with a copy that has started (R181, R187, R189, R193, R198, R268, R280): its
descriptor, its units, its records of a chain, its end.
-/

namespace Sys2Proof.Machine

/-- The copy is at work: it has a slot and nothing has ended it. -/
def Copy.isLive (c : Copy) : Bool :=
  c.fault.isNone && (match c.st with
    | .queued | .running => true
    | _ => false)

/-- The engine has yet to read the copy's descriptor, its index list, or to learn CPYT's element width (R181, R183, R185). -/
def Copy.wantsDesc (c : Copy) : Bool :=
  c.isLive && c.fn < 8 && c.fn != 6 && c.owed.isEmpty &&
    (c.desc.isNone || (c.fn == 3 && c.width == 0) || ((c.fn == 4 || c.fn == 5) && c.idx.isNone))

/-- What the engine needs before it moves a sector is there (R181, R183, R185). -/
def Copy.ready (c : Copy) : Bool :=
  c.desc.isSome && !(c.fn == 3 && c.width == 0) && !((c.fn == 4 || c.fn == 5) && c.idx.isNone)

/-- A DET scatter whose next row is owed places no later row (R186). -/
def Copy.stuck (c : Copy) : Bool := c.fn == 5 && c.det && !c.owed.isEmpty

/-- The next unit that the engine can move, once the one before has landed: one to be replayed or a chunk of a transfer
record, else the next in accounting order. -/
def Copy.nextUnit (c : Copy) : Option Nat :=
  if !c.isLive || c.land.isSome then none
  else if c.fn = 6 then (if c.xrec.isSome then c.todo.head? else none)
  else if 8 ≤ c.fn || !c.ready || c.stuck then none
  else match c.todo with
    | k :: _ => some k
    | [] => if c.unit < c.units then some c.unit else none

/-- The engine has a transfer record to read, or one to hand back (R187). -/
def Copy.wantsRecord (c : Copy) : Bool :=
  c.isLive && c.fn == 6 && c.owed.isEmpty && c.land.isNone && c.carry.isEmpty &&
    (if c.xrec.isSome then c.todo.isEmpty else c.chain.isSome)

/-- No unit is left to move now, so that bytes that wait for the rest of their sectors land as they are (R171, R195).
DEDUCED (log entry 135): they do not wait for sectors that are owed, since every other sector is completed first (R189).
-/
def Copy.flushDue (c : Copy) : Bool := c.isLive && c.land.isNone && c.nextUnit.isNone && !c.carry.isEmpty

/-- Nothing is left but owed sectors (R280). -/
def Copy.isOwed (c : Copy) : Bool := c.isLive && !c.owed.isEmpty && c.land.isNone && c.carry.isEmpty && c.nextUnit.isNone

/-- Every byte has been accounted (R193). -/
def Copy.isDone (c : Copy) : Bool :=
  c.isLive && c.fn < 8 && c.owed.isEmpty && c.land.isNone && c.carry.isEmpty &&
    (if c.fn = 6 then c.chain.isNone && c.xrec.isNone else !c.wantsDesc && c.nextUnit.isNone)

/-- The first block of the box that lies in bounds, in increasing kb and then n (R185). -/
def firstBlock (c : Copy) : Option Nat :=
  (List.range (c.cols / 24)).findSome? fun kb => (List.range c.rows).findSome? fun (n : Nat) =>
    let g := coords c (c.origin.getD 1 0 + n) [24 * kb, n, 0, 0]
    if c.td.inBounds g then some (c.td.addr g) else none

/-- CPYT's element width (R185). -/
def planeWidth (core : Nat) (c : Copy) : CopyM Nat :=
  if c.td.page ≠ 1 then pure 8
  else match firstBlock c with
    | none => pure 8
    | some a => fun s =>
      match s.copyReach core c { kind := .copyRead, rd := true, fmt := [1, 2, 3] } a with
      | (.error e, s) => (.error e, s)
      | (.ok t, s) => (.ok ((State.fmtBlocks t.fmt).2 / 3), s)

/-- The descriptor of a copy (R181), read as it stands now; CPYL has its box in s_a+3 (R183). DESIGN
CHOICE: one that is not aligned to 64 raises ALIGNMENT (log entry 145), its poison is not looked at (log entry 146). -/
def readDesc (core : Nat) (c : Copy) : CopyM TDesc :=
  if c.fn = 7 then
    let x := (c.a.getD 3 0).toNat
    pure { box := (List.range 4).map fun k => bits x (16 * k) 16, ext := [1, 1, 1, 1], esz := c.plw.esz }
  else do
    let va := (c.b.getD 0 0).toNat
    aligned c .copyRead 64 va
    let x ← readGlobal core c [.loc, .dev, .sys] va 64
    pure (TDesc.of (x.map (·.1)))

namespace State

/-- What a copy needs besides its descriptor is read (R183, R185, R186): the width of a CPYT, the index list of a CPYG or
CPYBIN. -/
def readRest (s : State) (core slot : Nat) : State :=
  match (s.core core).copies.find slot with
  | none => s
  | some c =>
    if c.fn = 3 ∧ c.width = 0 then
      match (planeWidth core c).run s with
      | (.ok w, s) =>
        if ({ c with width := w } : Copy).total < 2 ^ 32 then s.onCopy core slot fun x => { x with width := w }
        else s.owe core slot 0 [c.flt .layout 0 .copyRead (c.b.getD 0 0).toNat]
      | (.error e, s) => s.owe core slot 0 e
    else if (c.fn = 4 ∨ c.fn = 5) ∧ c.idx = none then
      match (readIndex core c).run s with
      | (.ok l, s) => s.onCopy core slot fun x => { x with idx := some l }
      | (.error e, s) => s.owe core slot 0 e
    else s

/-- A transfer record that the engine owns (R187), or none where OWN is 0: CTL is read with .acq at .dev. DESIGN CHOICE
(log entry 100): bit 1 of CTL, which the layout does not name, may be set, and is written back as it stands. DESIGN
CHOICE: a record that is not aligned to 64 raises ALIGNMENT (log entry 145), one with nonzero reserved bytes or an SRCK or
DSTK of 3 raises LAYOUT (log entry 144), its poison is not looked at (log entry 146). -/
def readRecord (core : Nat) (c : Copy) (va : Nat) : CopyM (Option XRec) := do
  aligned c .copyRead 64 va
  let h ← readGlobal core c [.loc, .dev, .sys] va 8
  let pa ← fun s => s.copyReach core c { kind := .copyRead, rd := true } va
  modify fun s => s.raisePts core c.part (s.leaseOf pa.pa).1
  let ctl := ofBytes (h.map (·.1))
  if !bitAt ctl 0 then pure none
  else do
    let x ← readGlobal core c [.loc, .dev, .sys] va 64
    let n (o k : Nat) : Nat := ofBytes (((x.map (·.1)).drop o).take k)
    let r : XRec := { va := va, next := n 8 8, src := n 16 8, dst := n 24 8, len := n 32 4
                      srcK := bits ctl 2 2, dstK := bits ctl 4 2 }
    if ctl / 64 ≠ 0 ∨ r.srcK = 3 ∨ r.dstK = 3 ∨ n 36 28 ≠ 0 ∨ 2 ^ 32 ≤ c.bytes + r.len then
      throw [c.flt .layout 0 .copyRead va]
    else if r.src % 16 ≠ 0 ∨ r.dst % 16 ≠ 0 ∨ r.len % 16 ≠ 0 then throw [c.flt .alignment 0 .copyRead va]
    else pure (some r)

/-- Hands a transfer record back once its bytes are visible (R187): CTL is written with .rel at .dev; LEN is accounted. -/
def handBack (core slot : Nat) (x : XRec) (s : State) : State :=
  match (s.core core).copies.find slot with
  | none => s
  | some c =>
    match (do
      let h ← readGlobal core c [.loc, .dev, .sys] x.va 8
      let t ← reachWrite core c x.va
      pure (h, t) : CopyM (List PByte × Trans)).run s with
    | (.error e, s) => s.owe core slot c.chunks e
    | (.ok (h, t), s) =>
      let s := s.raisePts core c.part c.ts
      let ctl := ofBytes (h.map (·.1)) / 2 * 2
      let (ts, s) := s.copyWrite core c (GWrite.of x.va t ((toBytes 8 ctl).map fun b => (b, false)))
      let s := s.onCopy core slot fun c =>
        { c with
          ts := max c.ts ts, bytes := c.bytes + x.len, chain := if x.next = 0 then none else some x.next, xrec := none
          todo := [], left := [] }
      let s := s.joinPend c.blk (max c.ts ts)
      if x.len = 0 then s else s.countBytes c core x.len false c.poison

/-- The wave at which a fault of a copy stops its block: the issuing wave, or the lowest-indexed one that has not ended. -/
def faultWave (s : State) (c : Copy) : Option Nat :=
  (c.wave :: List.range (s.blk c.blk).waves.length).find? fun i => ((s.wave? c.blk i).map fun x => !Wave.isEnded x).getD false

/-- The record of a faulted copy, and its stop or kill (R189, R273, R369). -/
def copyStop (s : State) (core slot : Nat) (c : Copy) (f : FaultInfo) : State :=
  let k := s.blk c.blk
  let off := c.failOff
  let run := s.handlerBit c.part 3 && s.handlerBit c.part 5 && !FClass.alwaysKills f.cls && !k.killed
  match if run then s.faultWave c else none with
  | some i =>
    let s := s.copyRecord core slot c true core off f (some (core, ⟨c.blk, i, 0, [], 0⟩))
    s.onWave c.blk i (Wave.stopFor .handler)
  | none =>
    if run || k.killed then s.copyRecord core slot c true core off f none
    else
      (s.pushKill c.blk (s.copyRecordBytes core slot c true core off f)).onCopy core slot fun x =>
        { x with dropped := true, detached := true }

/-- Bytes that are accounted as written with no data go to the barriers with ERR (R189). -/
def countLost (s : State) (core : Nat) (c : Copy) (n : Nat) : State :=
  if c.fn = 2 then (s.gangOf c.blk).foldl (fun s b => s.countBytes (c.inBlock b) (s.blk b).core n true false) s
  else s.countBytes c core n true false

/-- The copy ends faulted (R189). -/
def failCopy (s : State) (core slot : Nat) : State :=
  match (s.core core).copies.find slot with
  | none => s
  | some c => match c.fault with
    | none => s
    | some f =>
      let s := s.copyStop core slot c f
      let c := ((s.core core).copies.find slot).getD c
      let rest := c.total - c.bytes
      let s := s.onCopy core slot fun x => { x with bytes := x.bytes + rest }
      (s.countLost core c rest).finishCopy core slot .faulted

/-- The leaf that a fault of a walk names: level and entry (R280). -/
def leafKey (f : FaultInfo) : Nat × Nat := (f.lvl, f.addr / 2 ^ (([55, 42, 29, 16] : List Nat).getD f.lvl 16))

/-- One fault for each leaf, in accounting order; at most 32 (R280). -/
def leaves (fs : List FaultInfo) : List FaultInfo :=
  (fs.foldl (fun r f => if r.any fun g => leafKey g == leafKey f then r else r ++ [f]) []).take 32

/-- Puts an owed item in its place, after those before it in accounting order. -/
def putOwed : List (Nat × Nat × FaultInfo) → Nat × Nat × FaultInfo → List (Nat × Nat × FaultInfo)
  | [], x => [x]
  | y :: r, x => if x.1 < y.1 ∨ x.1 = y.1 ∧ x.2.1 < y.2.1 then x :: y :: r else y :: putOwed r x

/-- The owed items of a copy in accounting order. -/
def owedSorted (c : Copy) : List (Nat × Nat × FaultInfo) := c.owed.foldl putOwed []

/-- The BATCH record of a copy (R268, R280). -/
def copyBatch (s : State) (core slot : Nat) (c : Copy) : State :=
  match owedSorted c with
  | [] => s
  | (k, j, f) :: r =>
    let b := s.blk c.blk
    let n := (s.part c.part).batchNo
    let fs := leaves (f :: r.map (·.2.2))
    let pages := fs.map fun f => (f.page, f.w)
    let ws := ((s.wave? c.blk c.wave).map (·.slot)).getD 0
    let g : FaultInfo := { cls := .batch, kind := f.kind, lane := c.lane, pc := c.pc, wslot := c.wslot, addr := f.addr
                           word := BitVec.ofNat 32 pages.length, extw := BitVec.ofNat 32 (c.handle slot), code := n }
    let data := recordBytes c.part false b.handler (2 + (pages.length + 7) / 8) b ws core (s.pts core c.part) g ++
      pageWords pages ++ c.oprec slot ws (c.sectorOffset k j)
    let s := s.pushRecord c.part data none
    (s.onPart c.part fun x =>
      { x with batchNo := (n + 1) % 65536, batches := x.batches.insert n ⟨pages.map (·.1), [.copy core slot]⟩ }).onCopy
      core slot fun x => { x with st := .batch n }

/-- A copy whose batch has been answered goes on (R189, R268): it replays its owed parts, or it ends faulted. -/
def answerCopy (s : State) (core slot : Nat) (fail : Bool) : State :=
  s.onCopy core slot fun c =>
    match owedSorted c with
    | [] => { c with st := .running }
    | (k, j, f) :: r =>
      if fail then { c with st := .running, owed := [], fault := some f, failOff := c.sectorOffset k j }
      else { c with st := .running, owed := [], todo := ((k :: r.map (·.1)).eraseDups) ++ c.todo }

end State

namespace State

/-- The descriptor of a copy is read once (R181 to R186); its rules are checked; CPYT learns its width, and an index list
is read. -/
def readDescriptor (core slot : Nat) (s : State) : State :=
  match (s.core core).copies.find slot with
  | none => s
  | some c =>
    if !c.wantsDesc then s
    else
      let s := s.onCopy core slot fun c => { c with st := .running, todo := [] }
      if c.desc.isSome then s.readRest core slot
      else match (readDesc core c).run s with
        | (.error e, s) => s.owe core slot 0 e
        | (.ok d, s) =>
          let c' := { c with desc := some d }
          let s := s.onCopy core slot fun x => { x with desc := some d, units := c'.unitCount }
          if c'.layoutOk then s.readRest core slot
          else (s.onCopy core slot fun x => { x with units := 0 }).owe core slot 0
            [c.flt .layout 0 .copyRead (if c.fn = 7 then 0 else (c.b.getD 0 0).toNat)]

/-- What some items of a unit make: each with its result. -/
def runItems (core : Nat) (c : Copy) (k : Nat) : List Nat → State → List (Nat × Except (List FaultInfo) UnitOut) × State
  | [], s => ([], s)
  | j :: r, s =>
    let (u, s) := (copyItem core c k j).run s
    let (l, s) := runItems core c k r s
    ((j, u) :: l, s)

/-- A row of a CPYBIN is counted at its bins before it is moved (R186): none where that has met a fault, or the row is
dropped. -/
def binUnit (core slot k : Nat) (c : Copy) (s : State) : Option Copy × State :=
  let keep (c : Copy) (x : BinRow × Nat) (s : State) : Copy × State :=
    let f (c : Copy) : Copy := { c with bins := c.bins.insert k x.1, ts := max c.ts x.2 }
    (f c, s.onCopy core slot f)
  let x := c.bins.get {} k
  let first : Option Copy × State :=
    if x.spilt || x.va.isSome then (some c, s)
    else match (binFirst core c k).run s with
      | (.error e, s) => (none, s.owe core slot k e)
      | (.ok y, s) => let (c, s) := keep c y s; (some c, s)
  match first with
  | (none, s) => (none, s)
  | (some c, s) =>
    if (c.bins.get {} k).va.isSome then (some c, s)
    else match (binSecond core c k).run s with
      | (.error e, s) => (none, s.owe core slot k e)
      | (.ok y, s) =>
        let (c, s) := keep c y s
        if y.1.va.isSome then (some c, s)
        else
          let l : Landing := { n := c.unitBytes k }
          (none, (s.onCopy core slot fun x => { x with rowDropped := true }).landed core slot c l)

/-- What items of a copy have made joins the bytes that wait, and the sectors that are all there begin to land (R171, R195): `n`
more bytes are to be accounted, none of them before it has landed. -/
def carryOn (core slot : Nat) (c : Copy) (us : List UnitOut) (n : Nat) (s : State) : State :=
  let x := (us.flatMap (·.gl)).foldl Carry.putWrite ((us.flatMap (·.sp)).foldl Carry.putByte c.carry)
  let (now, rest) := x.split
  let m := c.carry.n + n - rest.size
  (s.onCopy core slot fun y => { y with carry := { rest with n := c.carry.n + n - m } }).beginLanding core slot (now.landing m)

/-- The bytes that wait for the rest of their sectors begin to land as they are (R171, R195). -/
def flush (core slot : Nat) (c : Copy) (s : State) : State :=
  (s.onCopy core slot fun y => { y with carry := {} }).beginLanding core slot (c.carry.landing c.carry.n)

/-- The items of a unit are moved (R189, R280): those that NOT-PRESENT stops stay owed, another class ends the copy; what
the others make goes on to land. -/
def moveItems (core slot k : Nat) (c : Copy) (s : State) : State :=
  let (rs, s) := runItems core c k (c.left.get (List.range (c.unitItems k)) k) s
  let bad := rs.flatMap fun x => match x.2 with
    | .ok _ => []
    | .error fs => fs.map fun f => (k, x.1, f)
  let done := rs.filterMap fun x => match x.2 with
    | .ok u => some (x.1, u)
    | .error _ => none
  let s := if bad.isEmpty then s else s.oweItems core slot bad
  if bad.any fun x => x.2.2.cls != .notPresent then s
  else
    let s := s.onCopy core slot fun x =>
      { x with
        flags := x.flags ||| done.foldl (fun m x => m ||| x.2.fl) 0
        left := if bad.isEmpty then x.left.erase k else x.left.insert k ((bad.map (·.2.1)).eraseDups)
        bins := if bad.isEmpty then x.bins.erase k else x.bins }
    carryOn core slot c (done.map (·.2)) (done.foldl (fun n x => n + c.itemCount x.1) 0) s

/-- The engine lands the next 16-byte part of what a copy writes, or moves its next unit (R171, R190, R195, R198). -/
def moveUnit (core slot : Nat) (s : State) : State :=
  match (s.core core).copies.find slot with
  | none => s
  | some c => match c.land with
    | some l => s.landStep core slot c l
    | none => match c.nextUnit with
      | none => if c.flushDue then flush core slot c s else s
      | some k =>
        let step (x : Copy) : Copy :=
          match x.todo with
          | _ :: r => { x with todo := r }
          | [] => { x with unit := k + 1 }
        let s := s.onCopy core slot step
        let c := step c
        if c.fn = 5 then
          match s.binUnit core slot k c with
          | (none, s) => s
          | (some c, s) => s.moveItems core slot k c
        else s.moveItems core slot k c

end State

/-- TRANSFER_RECORD (R187): reads a record, or hands back the one whose bytes have been moved. -/
def execTransferRecord (core slot : Nat) (s : State) : Out :=
  match (s.core core).copies.find slot with
  | none => .next s
  | some c =>
    if !c.wantsRecord then .next s
    else
      let s := s.onCopy core slot fun x => { x with st := .running }
      match c.xrec with
      | some x => .next (State.handBack core slot x s)
      | none => match (State.readRecord core c (c.chain.getD 0)).run s with
        | (.error e, s) => .next (s.owe core slot 0 e)
        | (.ok none, s) => .next (s.onCopy core slot fun x => { x with chain := none, todo := [] })
        | (.ok (some x), s) => .next (s.onCopy core slot fun c =>
            { c with xrec := some x, todo := List.range ((x.len + 127) / 128), left := [] })

end Sys2Proof.Machine
end

