-- ==== Sys2Proof/Machine/Trans.lean ====
section
/-!
DEFINITION. The transcendental functions of one F32 value (R131): the exact value of the function, rounded once by
ROUND_NE. A value that is irrational is worked out as a fixed-point number of `fxBits` fraction bits whose error is many
orders below the distance to any rounding boundary, and is rounded with its remainder marked nonzero.
-/

namespace Sys2Proof.Machine

/-- The fraction bits of the fixed-point work. -/
def fxBits : Nat := 640

/-- One in fixed point. -/
def fxOne : Nat := 2 ^ fxBits

/-- The integer square root, found bit by bit from bit `n`: the greatest r < 2^n with r·r ≤ x, added to `r`. -/
def isqrtFrom (x : Nat) : Nat → Nat → Nat
  | 0, r => r
  | n + 1, r =>
    let t := r + 2 ^ n
    isqrtFrom x n (if t * t ≤ x then t else r)

/-- The integer square root of `x`. -/
def isqrt (x : Nat) : Nat := isqrtFrom x (Nat.log2 x / 2 + 1) 0

/-- The terms y^(k+1)/(k+1)! … of an exponential series, summed. -/
def expTerms (y : Nat) : Nat → Nat → Nat → Nat
  | 0, _, _ => 0
  | n + 1, k, t => t + expTerms y n (k + 1) ((t * y / fxOne) / (k + 1))

/-- e^y for 0 ≤ y < 1 in fixed point. -/
def fxExp (y : Nat) : Nat := expTerms y 130 0 fxOne

/-- Squares a fixed-point number `n` times. -/
def fxSquares : Nat → Nat → Nat
  | 0, x => x
  | n + 1, x => fxSquares n (x * x / fxOne)

/-- z + z³/3 + z⁵/5 + …, in fixed point: `z2` is z², `t` the running power. -/
def atanhTerms (z2 : Nat) : Nat → Nat → Nat → Nat
  | 0, _, _ => 0
  | n + 1, k, t => t / (2 * k + 1) + atanhTerms z2 n (k + 1) (t * z2 / fxOne)

/-- atanh z for 0 ≤ z ≤ 1/3 in fixed point. -/
def fxAtanh (z : Nat) : Nat := atanhTerms (z * z / fxOne) 210 0 z

/-- ln 2 in fixed point. -/
def fxLn2 : Nat := 2 * fxAtanh (fxOne / 3)

/-- The alternating series z − z³/3 + z⁵/5 − … for z = 1/d. -/
def atanInv (d : Nat) : Nat → Nat → Nat → Int
  | 0, _, _ => 0
  | n + 1, k, t => (t / (2 * k + 1) : Nat) - atanInv d n (k + 1) (t / (d * d))

/-- π/2 in fixed point with 128 further bits, by Machin's formula. -/
def fxHalfPi : Nat :=
  let one := fxOne * 2 ^ 192
  ((8 * atanInv 5 190 0 (one / 5) - 2 * atanInv 239 60 0 (one / 239)).toNat) / 2 ^ 64

/-- The series t − t·x²/((k+1)(k+2)) + … of sine and cosine, in fixed point. -/
def trigTerms (x2 : Nat) : Nat → Nat → Nat → Int
  | 0, _, _ => 0
  | n + 1, k, t => (t : Int) - trigTerms x2 n (k + 2) ((t * x2 / fxOne) / ((k + 1) * (k + 2)))

/-- sin x for 0 ≤ x ≤ 2 in fixed point. -/
def fxSin (x : Nat) : Int := trigTerms (x * x / fxOne) 80 1 x
/-- cos x for 0 ≤ x ≤ 2 in fixed point. -/
def fxCos (x : Nat) : Int := trigTerms (x * x / fxOne) 80 0 fxOne

/-- Rounds a nonzero irrational fixed-point value to F32: the remainder below its last bit is not zero. -/
def fxRound (s : Bool) (m : Nat) : Res := f32.round .rne s m (-(fxBits : Int)) true

/-- FRCP (R131). DESIGN CHOICE (log entry 98): the reciprocal of ±2^127, which is exact and tiny, sets no flag (R104,
R110), though the table of R131 names (UF, NX) for every |a| > 2^126. -/
def frcp (a : Nat) : Res :=
  match f32.read a with
  | .nan => ⟨f32.qnan, 0⟩
  | .inf s => ⟨f32.signBit s, 0⟩
  | .fin s m e =>
      if m = 0 then ⟨f32.infPat s, 0⟩
      else
        let k := Nat.log2 m + 80
        f32.round .rne s (2 ^ k / m) (-(k : Int) - e) (2 ^ k % m != 0)

/-- FRSQ (R131). -/
def frsq (a : Nat) : Res :=
  match f32.read a with
  | .nan => ⟨f32.qnan, 0⟩
  | .inf s => if s then ⟨f32.qnan, flagNV⟩ else ⟨0, 0⟩
  | .fin s m e =>
      if m = 0 then ⟨f32.infPat s, 0⟩
      else if s then ⟨f32.qnan, flagNV⟩
      else
        -- m · 2^e with e even: 1/√ = √(2^(2k) / m) · 2^(−k − e/2)
        let (m, e) := if e % 2 = 0 then (m, e) else (2 * m, e - 1)
        let k : Nat := 120
        let r := isqrt (2 ^ (2 * k) / m)
        f32.round .rne false r (-(k : Int) - e / 2) (r * r * m != 2 ^ (2 * k))

/-- FSQRT (R131). -/
def fsqrt (a : Nat) : Res :=
  match f32.read a with
  | .nan => ⟨f32.qnan, 0⟩
  | .inf s => if s then ⟨f32.qnan, flagNV⟩ else ⟨a, 0⟩
  | .fin s m e =>
      if m = 0 then ⟨a, 0⟩
      else if s then ⟨f32.qnan, flagNV⟩
      else
        let (m, e) := if e % 2 = 0 then (m, e) else (2 * m, e - 1)
        let x := m <<< 160
        let r := isqrt x
        f32.round .rne false r (e / 2 - 80) (r * r != x)

/-- The fixed-point number of m × 2^e, exact for every F32 value. -/
def toFx (m : Nat) (e : Int) : Nat := m <<< ((fxBits : Int) + e).toNat

/-- FEXP2 (R131). -/
def fexp2 (a : Nat) : Res :=
  match f32.read a with
  | .nan => ⟨f32.qnan, 0⟩
  | .inf s => if s then ⟨0, 0⟩ else ⟨a, 0⟩
  | .fin s m e =>
      let x := toFx m e
      if x ≥ 256 * fxOne then
        -- far outside the range: any value beyond it rounds alike
        f32.round .rne false 1 (if s then -1024 else 1024) s
      else
        let i : Int := signed s x
        let n := i / (fxOne : Int)
        let f := (i % (fxOne : Int)).toNat
        if f = 0 then f32.round .rne false 1 n false
        else f32.round .rne false (fxExp (f * fxLn2 / fxOne)) (n - fxBits) true

/-- FLOG2 (R131). -/
def flog2 (a : Nat) : Res :=
  match f32.read a with
  | .nan => ⟨f32.qnan, 0⟩
  | .inf s => if s then ⟨f32.qnan, flagNV⟩ else ⟨a, 0⟩
  | .fin s m e =>
      if m = 0 then ⟨f32.infPat true, 0⟩
      else if s then ⟨f32.qnan, flagNV⟩
      else
        let l := Nat.log2 m
        let n : Int := e + l
        if m = 2 ^ l then f32.round .rne (decide (n < 0)) n.natAbs 0 false
        else
          let z := (m - 2 ^ l) * fxOne / (m + 2 ^ l)
          let v : Int := n * fxOne + (2 * fxAtanh z * fxOne / fxLn2 : Nat)
          fxRound (decide (v < 0)) v.natAbs

/-- The quarter turn and the rest of an exactly reduced argument. -/
def trigReduce (m : Nat) (e : Int) : Nat × Nat :=
  let x := toFx m e <<< 128
  let k := x / fxHalfPi
  (k % 4, (x - k * fxHalfPi) >>> 128)

/-- sin of k quarter turns and a rest. -/
def quarterSin (k r : Nat) : Int :=
  match k % 4 with
  | 0 => fxSin r
  | 1 => fxCos r
  | 2 => -fxSin r
  | _ => -fxCos r

/-- FSIN (R131). -/
def fsin (a : Nat) : Res :=
  match f32.read a with
  | .nan => ⟨f32.qnan, 0⟩
  | .inf _ => ⟨f32.qnan, flagNV⟩
  | .fin s m e =>
      if m = 0 then ⟨a, 0⟩
      else
        let (k, r) := trigReduce m e
        let v := quarterSin k r
        fxRound (s != decide (v < 0)) v.natAbs

/-- FCOS (R131). -/
def fcos (a : Nat) : Res :=
  match f32.read a with
  | .nan => ⟨f32.qnan, 0⟩
  | .inf _ => ⟨f32.qnan, flagNV⟩
  | .fin _ m e =>
      if m = 0 then ⟨0x3F800000, 0⟩
      else
        let (k, r) := trigReduce m e
        let v := quarterSin (k + 1) r
        fxRound (decide (v < 0)) v.natAbs

/-- FTANH (R131). -/
def ftanh (a : Nat) : Res :=
  match f32.read a with
  | .nan => ⟨f32.qnan, 0⟩
  | .inf s => ⟨f32.signBit s + 0x3F800000, 0⟩
  | .fin s m e =>
      if m = 0 then ⟨a, 0⟩
      else
        let x := toFx m e
        if x ≥ 32 * fxOne then fxRound s (fxOne - 1)
        else
          let ex := fxSquares 7 (fxExp (x / 64))
          fxRound s ((ex - fxOne) * fxOne / (ex + fxOne))

end Sys2Proof.Machine
end

