-- ==== Sys2Proof/Machine/Matrix.lean ====
section
/-!
DEFINITION. The plane array, the uniform matrix sequencer and the epilogue (R71, R72, R209 to R227), and LFREE, which waits
for the engines (R176).
-/

namespace Sys2Proof.Machine

/-! ### Tables as dense lists -/

/-- `n` values of a table from a key, in order. -/
def dense {α : Type} (d : α) : Nat → Nat → Tab α → List α
  | 0, _, _ => []
  | n + 1, k, [] => d :: dense d n (k + 1) []
  | n + 1, k, (i, v) :: r => if i = k then v :: dense d n (k + 1) r else d :: dense d n (k + 1) ((i, v) :: r)

/-- The table of the values that are not the default. -/
def sparse {α : Type} [DecidableEq α] (d : α) : Nat → List α → Tab α
  | _, [] => []
  | k, v :: r => if v = d then sparse d (k + 1) r else (k, v) :: sparse d (k + 1) r

/-! ### Descriptors and the bytes that an operation touches -/

/-- A range of bytes of a space: space, first byte, length. -/
abbrev SpaceRange := Nat × Nat × Nat

/-- ABASE of an A descriptor (R210). -/
def daBase (d : B64) : Nat := bits d.toNat 0 20
/-- ASTRIDE (R210). -/
def daStride (d : B64) : Nat := bits d.toNat 20 16
/-- SBASE (R210). -/
def daScale (d : B64) : Nat := bits d.toNat 36 20
/-- WBASE of a W descriptor (R211). -/
def dwBase (d : B64) : Nat := bits d.toNat 0 20
/-- WSBASE (R211). -/
def dwScale (d : B64) : Nat := bits d.toNat 32 20
/-- OBASE of an output descriptor (R219). -/
def doBase (d : B64) : Nat := bits d.toNat 0 20
/-- OSPACE (R219). -/
def doSpace (d : B64) : Nat := bits d.toNat 20 2
/-- OSTRIDE (R219). -/
def doStride (d : B64) : Nat := bits d.toNat 22 16
/-- OSCL (R219). -/
def doScale (d : B64) : Nat := bits d.toNat 38 20
/-- MULBASE of a parameter descriptor (R219). -/
def dpMul (d : B64) : Nat := bits d.toNat 0 20
/-- BIASBASE (R219). -/
def dpBias (d : B64) : Nat := bits d.toNat 20 20

end Sys2Proof.Machine

namespace Sys2Proof.MmFields

open Sys2Proof.Machine

/-- Bytes of an activation element (R210). -/
def eb (f : MmFields) : Nat := if f.a16 = 1 then 2 else 1
/-- Planes (R211). -/
def planes (f : MmFields) : Nat := f.wp.toNat + 1
/-- Columns. -/
def n (f : MmFields) : Nat := 8 * f.n8.toNat
/-- The operation touches its tile (R217). -/
def works (f : MmFields) : Bool := f.m != 0 && f.n8 != 0

/-- The bytes of the A-space that K blocks from `kb` on read (R210). -/
def aRanges (f : MmFields) (da : B64) (kb : Nat) : List SpaceRange :=
  if !f.works then []
  else (List.range (f.kb.toNat - kb)).flatMap fun j =>
    (1, daScale da + 16 * (kb + j), f.m.toNat) ::
      (List.range f.m.toNat).map fun m => (1, daBase da + m * daStride da + 24 * f.eb * (kb + j), 24 * f.eb)

/-- The bytes of the W-space that K blocks from `kb` on read (R211). -/
def wRanges (f : MmFields) (dw : B64) (kb : Nat) : List SpaceRange :=
  if !f.works then []
  else (List.range (f.kb.toNat - kb)).flatMap fun j =>
    (2, dwScale dw + 384 * (kb + j), f.n) ::
      (List.range f.planes).flatMap fun p => (List.range 24).map fun i =>
        (2, dwBase dw + ((kb + j) * f.planes + p) * 1152 + 48 * i, f.n8.toNat)

end Sys2Proof.MmFields

namespace Sys2Proof.Machine

end Sys2Proof.Machine

namespace Sys2Proof.EpiFields

open Sys2Proof.Machine

/-- Bytes of an output element (R219). -/
def ob (f : EpiFields) : Nat :=
  match f.ofmt.toNat with
  | 0 => 4
  | 1 | 2 => 2
  | _ => 1
/-- Columns. -/
def n (f : EpiFields) : Nat := 8 * f.n8.toNat
/-- The operation reads its tile (R220). -/
def works (f : EpiFields) : Bool := f.m != 0 && f.n8 != 0
/-- The output is BQ8 (R220). -/
def isBq (f : EpiFields) : Bool := 4 ≤ f.ofmt.toNat

/-- The bytes that the epilogue writes (R219, R220). -/
def outRanges (f : EpiFields) (dout : B64) : List SpaceRange :=
  if !f.works then []
  else
    ((List.range f.m.toNat).map fun m => (doSpace dout, doBase dout + m * doStride dout, f.n * f.ob)) ++
    (if f.isBq then (List.range (f.n / 24)).map fun g => (doSpace dout, doScale dout + 16 * g, f.m.toNat) else [])

/-- The bytes of parameters that the epilogue reads (R219). -/
def parRanges (f : EpiFields) (dp : B64) : List SpaceRange :=
  if !f.works then []
  else (if f.mul = 1 then [(0, dpMul dp, 4 * f.n)] else []) ++ (if f.bias = 1 then [(0, dpBias dp, 4 * f.n)] else [])

end Sys2Proof.EpiFields

namespace Sys2Proof.Machine

/-- The lowest byte and the byte past the highest of some ranges of one space (R214). -/
def spanOf (space : Nat) (rs : List SpaceRange) : Option (Nat × Nat) :=
  rs.foldl (fun s r =>
    if r.1 ≠ space ∨ r.2.2 = 0 then s
    else match s with
      | none => some (r.2.1, r.2.1 + r.2.2)
      | some (lo, hi) => some (min lo r.2.1, max hi (r.2.1 + r.2.2))) none

/-- A byte of some ranges of a space lies inside a span of it (R214). -/
def rangesInside (space : Nat) (rs : List SpaceRange) (span : Option (Nat × Nat)) : Bool :=
  match span with
  | some (lo, hi) => rs.any fun r => r.1 == space && r.2.2 != 0 && decide (r.2.1 < hi ∧ lo < r.2.1 + r.2.2)
  | none => false

/-- The fields of an operation under way that is an MMA or MMAC. -/
def ArrOp.mm? (o : ArrOp) : Option MmFields :=
  match decodeStream o.word with
  | some (.mma f) | some (.mmac f) => some f
  | _ => none

/-- The fields of an operation under way that is an EPI. -/
def ArrOp.epi? (o : ArrOp) : Option EpiFields :=
  match decodeStream o.word with
  | some (.epi f) => some f
  | _ => none

/-- The tile of an operation: bits 55 and 54 of its word (R71). -/
def ArrOp.tile (o : ArrOp) : Nat := bits o.word.toNat 54 2

/-- The bytes that an array operation may still read, from its next K block on. -/
def ArrOp.reads (o : ArrOp) : List SpaceRange :=
  match o.mm? with
  | some f => f.aRanges o.da o.kb ++ f.wRanges o.db o.kb
  | none => []

/-- The bytes that an epilogue writes. -/
def ArrOp.writes (o : ArrOp) : List SpaceRange :=
  match o.epi? with
  | some f => f.outRanges o.da
  | none => []

/-- The bytes that an operation under way touches. -/
def ArrOp.touches (o : ArrOp) : List SpaceRange :=
  match o.epi? with
  | some f => f.outRanges o.da ++ f.parRanges o.db
  | none => o.reads

namespace State

/-! ### The sequencer's words -/

/-- Changes the sequencer of a block. -/
def onSeq (s : State) (b : Nat) (f : Seqr → Seqr) : State := s.onBlk b fun k => { k with seqr := f k.seqr }

/-- The sequencer of a block. -/
def seq (s : State) (b : Nat) : Seqr := (s.blk b).seqr

/-- m register `r` (R214). -/
def mreg (s : State) (b : Nat) (r : BitVec 4) : B64 := (s.seq b).m.get 0 r.toNat

/-- Writes an m register. -/
def setM (s : State) (b : Nat) (r : BitVec 4) (v : B64) : State := s.onSeq b fun q => { q with m := q.m.set 0 r.toNat v }

/-- The next word of the stream, by a signed offset in words (R71, R222). -/
def advance (s : State) (b : Nat) (n : Int) : State :=
  s.onSeq b fun q => { q with wpos := BitVec.ofNat 32 (wrap 32 ((q.wpos.toNat : Int) + n)) }

/-- A sequencer fault (R72, R224): the state is FAULTED and the record waits for the waves. -/
def seqFault (s : State) (b : Nat) (f : FaultInfo) : State := s.onSeq b fun q => { q with st := .faulted, frec := some f }

/-- A sequencer fault of the word at WPOS. -/
def wordFault (s : State) (b : Nat) (c : FClass) : State :=
  let q := s.seq b
  s.seqFault b (seqInfo q c (s.peekStream (s.blk b).part (seqAt q)))

/-- Every byte of some ranges is in a pinned line of its space (R167, R224). -/
def rangesPinned (s : State) (b : Nat) (rs : List SpaceRange) : Bool :=
  rs.all fun r => r.2.2 == 0 ||
    (r.2.1 + r.2.2 ≤ 2 ^ 20 &&
      (List.range ((r.2.1 + r.2.2 - 1) / 1024 - r.2.1 / 1024 + 1)).all fun i => (s.spaceWay b r.1 (r.2.1 / 1024 + i)).isSome)

/-- A numbered barrier is declared (R202, R223). -/
def nbReady (s : State) (b : Nat) (nb : BitVec 4) : Bool := ((s.blk b).nb.getD nb.toNat {}).expect != 0

/-- The fault of an MMA or MMAC about to begin (R224). -/
def mmFault (s : State) (b : Nat) (f : MmFields) (da dw : B64) : Option FClass :=
  if f.works && f.kb != 0 && (bits da.toNat 56 8 != 0 || bits dw.toNat 52 12 != 0 || bits dw.toNat 20 12 != 0) then some .layout
  else if !s.rangesPinned b (f.aRanges da 0 ++ f.wRanges dw 0) then some .space
  else if f.sigen = 1 && !s.nbReady b f.nb then some .barrier
  else none

/-- The fault of an EPI about to begin (R220, R224). -/
def epiFault (s : State) (b : Nat) (f : EpiFields) (dout dp : B64) : Option FClass :=
  let par := f.mul == 1 || f.bias == 1
  if f.works && (bits dout.toNat 58 6 != 0 || (par && bits dp.toNat 40 24 != 0)) then some .layout
  else if doSpace dout = 3 || (f.isBq && f.n8.toNat % 3 != 0) then some .layout
  else if doSpace dout = 2 then some .space
  else if !s.rangesPinned b (f.outRanges dout ++ f.parRanges dp) then some .space
  else if f.sigen = 1 && !s.nbReady b f.nb then some .barrier
  else none

/-- An MMA, MMAC or MCLR on a tile that reads some bytes may begin (R214). -/
def mmFree (s : State) (b tile : Nat) (reads : List SpaceRange) : Bool :=
  let q := s.seq b
  q.mma.isNone && (match q.epi with
    | some o => o.tile != tile && !rangesInside 1 o.writes (spanOf 1 reads)
    | none => true)

/-- An EPI on a tile that writes some bytes may begin (R214). -/
def epiFree (s : State) (b tile : Nat) (writes : List SpaceRange) : Bool :=
  let q := s.seq b
  q.epi.isNone && (match q.mma with
    | some o => o.tile != tile && !rangesInside 1 o.reads (spanOf 1 writes)
    | none => true)

/-- Nothing is under way (R222, R223). -/
def seqQuiet (s : State) (b : Nat) : Bool := (s.seq b).mma.isNone && (s.seq b).epi.isNone

/-- Changes a tile. -/
def onTile (s : State) (b t : Nat) (f : Tile → Tile) : State := s.onBlk b fun k => { k with tiles := k.tiles.modify t f }

/-- TILE_CLEAR (R212). -/
def clearTile (t : Tile) : Tile := { t with a := [], rinv := 0, cinv := 0 }

/-- An MMA-class operation begins (R214, R217): MMAC and MCLR clear their tile and set its binary point. -/
def beginMma (s : State) (b : Nat) (word da dw : B64) (clear : Bool) (q : BitVec 10) : State :=
  let t := bits word.toNat 54 2
  let s := if clear then s.onTile b t fun x => { clearTile x with q := q } else s
  (s.onSeq b fun x => { x with mma := some ⟨word, da, dw, 0, x.wpos⟩ }).advance b 1

/-- MMA and MMAC (R217): the word waits while it may not begin, faults where a check fails, else begins. -/
def startMm (s : State) (f : MmFields) (word : B64) (clear : Bool) : State :=
  let b := s.sq
  let da := s.mreg b f.areg
  let dw := s.mreg b f.wreg
  if !s.mmFree b f.tile.toNat (f.aRanges da 0) then s
  else match s.mmFault b f da dw with
    | some c => s.wordFault b c
    | none => s.beginMma b word da dw (clear && f.works) f.q

/-! ### The array -/

/-- Activation elements of a row in a K block (R210). -/
def actRow (s : State) (b : Nat) (f : MmFields) (da : B64) (m kb : Nat) : List Int :=
  (List.range 24).map fun i =>
    let a := daBase da + m * daStride da + 24 * f.eb * kb + f.eb * i
    sext (8 * f.eb) (ofBytes ((List.range f.eb).map fun j => s.spaceByte b 1 (a + j)))

/-- Weights of a column in a K block, from the bytes of its planes (R211). -/
def wgtCol (planes : List (List (List Byte))) (n : Nat) : List Int :=
  let p := planes.length
  (List.range 24).map fun i =>
    sext p (planes.foldr (fun pl v => 2 * v + b2n (bitAt ((pl.getD i []).getD (n / 8) 0).toNat (n % 8))) 0)

/-- The product of a row and a column. -/
def dotInt (a w : List Int) : Int := (a.zip w).foldl (fun t p => t + p.1 * p.2) 0

/-- The planes of a K block: plane, K position, byte (R211). -/
def planesOf (s : State) (b : Nat) (f : MmFields) (dw : B64) (kb : Nat) : List (List (List Byte)) :=
  (List.range f.planes).map fun j => (List.range 24).map fun i => (List.range f.n8.toNat).map fun c =>
    s.spaceByte b 2 (dwBase dw + (kb * f.planes + j) * 1152 + 48 * i + c)

/-- One element of a K block (R217): the accumulator after it, and flags. -/
def mmElem (sa sw : Nat) (q : Int) (a w : List Int) (acc : B64) : B64 × Nat :=
  if sa = 255 ∨ sw = 255 then (acc, flagNV)
  else
    let r := accumulate acc.toInt (dotInt a w) ((sa : Int) + sw - 254 - q)
    (BitVec.ofInt 64 r.v, r.fl)

/-- One K block of an MMA or MMAC (R217): the tile and the flags. -/
def mmBlock (s : State) (b : Nat) (f : MmFields) (da dw : B64) (kb : Nat) (t : Tile) : Tile × Nat :=
  let sas := (List.range f.m.toNat).map fun m => (s.spaceByte b 1 (daScale da + 16 * kb + m)).toNat
  let sws := (List.range f.n).map fun n => (s.spaceByte b 2 (dwScale dw + 384 * kb + n)).toNat
  let planes := s.planesOf b f dw kb
  let rows := (List.range f.m.toNat).map fun m => s.actRow b f da m kb
  let cols := (List.range f.n).map (wgtCol planes)
  let q := t.q.toInt
  let old := dense 0 6144 0 t.a
  let new := old.zipIdx.map fun x =>
    let m := x.2 / 384
    let n := x.2 % 384
    if m < f.m.toNat ∧ n < f.n then mmElem (sas.getD m 0) (sws.getD n 0) q (rows.getD m []) (cols.getD n []) x.1
    else (x.1, 0)
  let mark (l : List Nat) : Nat := (l.zipIdx.map fun x => if x.1 = 255 then 2 ^ x.2 else 0).foldl (· + ·) 0
  ({ t with
      a := sparse 0 0 (new.map (·.1)), rinv := t.rinv ||| BitVec.ofNat 16 (mark sas)
      cinv := t.cinv ||| BitVec.ofNat 384 (mark sws) }, new.foldl (fun fl x => fl ||| x.2) 0)

/-- The K blocks `kb`, `kb + 1`, … of an operation, `n` of them, in increasing order (R217). -/
def mmBlocks (s : State) (b : Nat) (f : MmFields) (da dw : B64) : Nat → Nat → Tile → Tile × Nat
  | 0, _, t => (t, 0)
  | n + 1, kb, t =>
    let (t, fl) := s.mmBlock b f da dw kb t
    let (t, fl') := mmBlocks s b f da dw n (kb + 1) t
    (t, fl ||| fl')

/-- Runs some K blocks of the MMA under way (R217). -/
def runMma (s : State) (b : Nat) (o : ArrOp) (f : MmFields) (n : Nat) : State :=
  if !f.works then s
  else
    let t := (s.blk b).tiles.getD o.tile {}
    let (t, fl) := s.mmBlocks b f o.da o.db n o.kb t
    (s.onTile b o.tile fun _ => t).onSeq b fun q =>
      { q with flags := q.flags ||| fl, mma := q.mma.map fun o => { o with kb := o.kb + n } }

/-! ### The epilogue -/

/-- ReLU (R221). -/
def relu (x : Nat) : Nat :=
  match f32.read x with
  | .fin s m _ => if s || m == 0 then 0 else x
  | .inf s => if s then 0 else x
  | .nan => x

/-- SiLU (R221). -/
def silu (x : Nat) : Res :=
  match f32.read x with
  | .nan => ⟨f32.qnan, 0⟩
  | .inf s => if s then ⟨f32.qnan, flagNV⟩ else ⟨x, 0⟩
  | .fin _ m _ =>
    if m = 0 then ⟨x, 0⟩
    else
      let t1 := f32.mul .rne x 0xBFB8AA3B
      let t2 := fexp2 t1.v
      let t3 := f32.add .rne 0x3F800000 t2.v
      let t4 := frcp t3.v
      let y := f32.mul .rne x t4.v
      ⟨y.v, t1.fl ||| t2.fl ||| t3.fl ||| t4.fl ||| y.fl⟩

/-- ACTIVATE (R221). -/
def activate (act x : Nat) : Res :=
  match act with
  | 0 => ⟨x, 0⟩
  | 1 => ⟨relu x, 0⟩
  | _ => silu x

/-- One value of the epilogue (R220): `mul` and `bias` where the word asks for them. -/
def epiElem (f : EpiFields) (t : Tile) (a : B64) (m n : Nat) (mul bias : Option Nat) : Res :=
  let x : Res :=
    if t.rinv.getLsbD m || t.cinv.getLsbD n then ⟨f32.qnan, 0⟩
    else f32.round .rne (decide (a.toInt < 0)) a.toInt.natAbs t.q.toInt false
  let y : Res := match mul with
    | some v => let r := f32.mul .rne x.v v; ⟨r.v, x.fl ||| r.fl⟩
    | none => x
  let z : Res := match bias with
    | some v => let r := f32.add .rne y.v v; ⟨r.v, y.fl ||| r.fl⟩
    | none => y
  let r := activate f.act.toNat z.v
  ⟨r.v, z.fl ||| r.fl⟩

/-- The bytes of one value in an output format that is not BQ8 (R220). -/
def epiBytes (f : EpiFields) (x : Nat) : List Byte × Nat :=
  let cvt (c : Nat) : List Byte × Nat := let r := convert (CFmt.ofCode c) (CFmt.ofCode 6) .rne x; (toBytes f.ob r.v, r.fl)
  match f.ofmt.toNat with
  | 0 => (toBytes 4 x, 0)
  | 1 => cvt 8
  | 2 => cvt 7
  | _ => cvt 9

/-- Consecutive groups of 24. -/
def groups24 {α : Type} (l : List α) (n : Nat) : List (List α) := (List.range n).map fun g => (l.drop (24 * g)).take 24

/-- The bytes that an epilogue writes (R220): address and bytes of each run, and the flags. -/
def epiOut (s : State) (b : Nat) (f : EpiFields) (dout dp : B64) (t : Tile) : List (Nat × List Byte) × Nat :=
  let par (on : Bit) (base n : Nat) : Option Nat :=
    if on = 1 then some (ofBytes ((List.range 4).map fun i => s.spaceByte b 0 (base + 4 * n + i))) else none
  let a := dense 0 6144 0 t.a
  let rows := (List.range f.m.toNat).map fun m => (List.range f.n).map fun n =>
    epiElem f t (a.getD (384 * m + n) 0) m n (par f.mul (dpMul dp) n) (par f.bias (dpBias dp) n)
  let fl := rows.foldl (fun fl r => r.foldl (fun fl x => fl ||| x.fl) fl) 0
  let out := rows.zipIdx.map fun r =>
    let at_ := doBase dout + r.2 * doStride dout
    if f.isBq then
      let qs := (groups24 r.1 (f.n / 24)).map fun g => quant (g.map fun x => f32.read x.v) 8 (f.ofmt == 5)
      ((at_, qs.flatMap fun q => q.e.map fun e => BitVec.ofNat 8 (wrap 8 e)) ::
        qs.zipIdx.map fun q => (doScale dout + 16 * q.2 + r.2, [BitVec.ofNat 8 q.1.x]),
        qs.foldl (fun fl q => fl ||| q.fl) 0)
    else
      let xs := r.1.map fun x => epiBytes f x.v
      ([(at_, xs.flatMap (·.1))], xs.foldl (fun fl x => fl ||| x.2) 0)
  (out.flatMap (·.1), out.foldl (fun fl x => fl ||| x.2) fl)

/-- Works out what the epilogue under way writes (R220): it lands a 16-byte part at a time (R171). -/
def workEpi (s : State) (b : Nat) (o : ArrOp) (f : EpiFields) : EpiLand :=
  if !f.works then {}
  else
    let (ws, fl) := s.epiOut b f o.da o.db ((s.blk b).tiles.getD o.tile {})
    let bs := ws.flatMap fun w => w.2.zipIdx.map fun x => (doSpace o.da, w.1 + x.2, (x.1, false))
    { sp := (bs.foldl Carry.putByte {}).spParts, fl := fl }

/-- The sectors that an epilogue has written whole are clean (R272). -/
def epiClear (s : State) (b : Nat) (o : ArrOp) (f : EpiFields) : State :=
  let bs := (f.outRanges o.da).flatMap fun r => (List.range r.2.2).map fun i => (r.1, r.2.1 + i, ((0 : Byte), false))
  s.clearSectors b (bs.foldl Carry.putByte {}).clean

/-! ### Completion -/

/-- The first poisoned sector among some ranges of a block's spaces (R272). -/
def poisonIn (s : State) (b : Nat) (rs : List SpaceRange) : Option Nat :=
  rs.findSome? fun r => ((List.range r.2.2).map (r.2.1 + ·)).find? fun a => s.spacePoison b r.1 a

/-- Flags of completed operations go to FLAGWAVE (R112); an operation's completion arrives on its barrier (R223). -/
def signal (s : State) (b : Nat) (nb : Option Nat) : State :=
  let q := s.seq b
  let s := if q.flags = 0 then s else (s.deliver b q.flagWave q.flags).onSeq b fun q => { q with flags := 0 }
  let s := match nb with
    | some k => s.nbArrive b k
    | none => s
  s.seqStuck b false

/-- Poison that the sequencer consumes kills the block (R272). The record is the sequencer's (R224, R369): of the word at WPOS
`pos`, which is none where its own fetch met the poison. -/
def seqPoison (s : State) (b : Nat) (pos : B32) (w : Option B64) : State :=
  let k := s.blk b
  let slot := (((s.seqWave b).bind fun i => s.wave? b i).map (·.slot)).getD 0
  let f := seqInfo { k.seqr with wpos := pos } .poison w
  (s.onSeq b fun q => { q with st := .faulted }).pushKill b
    (recordBytes k.part true k.handler 1 k slot k.core (s.pts k.core k.part) f)

/-- The MMA-class operation under way completes (R217, R223). -/
def finishMma (s : State) (b : Nat) (o : ArrOp) : State :=
  match s.poisonIn b o.reads with
  | some _ => s.seqPoison b o.pos (some o.word)
  | none =>
    let s := match o.mm? with
      | some f => s.runMma b o f (f.kb.toNat - o.kb)
      | none => s
    (s.onSeq b fun q => { q with mma := none }).signal b (if bitAt o.word.toNat 10 then some (bits o.word.toNat 6 4) else none)

/-- The EPI under way, whose output has landed, completes (R220, R223). -/
def endEpi (s : State) (b : Nat) (o : ArrOp) (f : EpiFields) (fl : Nat) : State :=
  let s := if f.works then s.epiClear b o f else s
  let s := if f.works && f.clr == 1 then s.onTile b o.tile clearTile else s
  (s.onSeq b fun q => { q with flags := q.flags ||| fl, epi := none, land := none }).signal b
    (if f.sigen = 1 then some f.nb.toNat else none)

/-- The EPI under way goes on (R171, R220): it works its output out, or lands the next 16-byte part of it; with none left it is
complete. -/
def stepEpi (s : State) (b : Nat) (o : ArrOp) : State :=
  match o.epi? with
  | none => s.onSeq b fun q => { q with epi := none, land := none }
  | some f => match (s.seq b).land with
    | none => match s.poisonIn b (f.parRanges o.db) with
      | some _ => s.seqPoison b o.pos (some o.word)
      | none =>
        let l := s.workEpi b o f
        if l.sp.isEmpty then s.endEpi b o f l.fl else s.onSeq b fun q => { q with land := some l }
    | some l => match l.sp with
      | [] => s.endEpi b o f l.fl
      | p :: r =>
        let s := s.landPart b p
        if r.isEmpty then s.endEpi b o f l.fl else s.onSeq b fun q => { q with land := some { l with sp := r } }

/-- The EPI under way runs to its end (R227). -/
def finishEpi (s : State) (b : Nat) (o : ArrOp) : State :=
  let s := if (s.seq b).land.isNone then s.stepEpi b o else s
  match (s.seq b).land, o.epi? with
  | some l, some f => ((l.sp.foldl (fun s p => s.landPart b p) s).onSeq b fun q => { q with land := some { l with sp := [] } }).endEpi b o f l.fl
  | _, _ => s

/-! ### Fetching -/

/-- The save engine has stopped the block's sequencer for a save (R227, R310). -/
def seqClosed (k : Block) : Bool := (k.pre.map (·.closed)).getD false

/-- The sequencer may take its next word (R214, R224, R227). -/
def seqRuns (s : State) (b : Nat) : Bool :=
  let k := s.blk b
  let q := k.seqr
  !k.killed && !k.doomed && !seqClosed k && q.st == .running && q.asleep.isNone && (q.mma.map (·.kb)).getD 0 == 0

/-- The word at WPOS can begin now, or would fault (R214, R222, R223). -/
def seqReady (s : State) (b : Nat) : Bool :=
  s.seqRuns b &&
  (match (s.peekStream (s.blk b).part (seqAt (s.seq b))).bind decodeStream with
   | some (.mma f) | some (.mmac f) => s.mmFree b f.tile.toNat (f.aRanges (s.mreg b f.areg) 0)
   | some (.mclr f) => s.mmFree b f.tile.toNat []
   | some (.epi f) => s.epiFree b f.tile.toNat (f.outRanges (s.mreg b f.oreg))
   | some (.msig _) | some .mhalt => s.seqQuiet b
   | _ => true)

/-- The sequencer fetches the word at WPOS (R71, R72, R224): the word to execute, or none where it faults or sleeps. -/
def openStream (s : State) (b : Nat) : Option Instr × State :=
  if !s.seqReady b then (none, s)
  else
    let k := s.blk b
    let q := k.seqr
    let va := seqAt q
    if q.sa.toNat % 8 ≠ 0 then (none, s.seqFault b (seqInfo q .illegalInstruction none))
    else
      let (r, s) := s.translate k.core k.part { kind := .mstream, ex := true } va
      match r with
      | .error f =>
        if f.cls = .notPresent then
          let slot := (((s.seqWave b).bind fun i => s.wave? b i).map (·.slot)).getD 0
          let info : FaultInfo := { kind := .mstream, cls := .notPresent, addr := va, page := va / 2 ^ 16 }
          let (n, s) := s.openBatch b slot 0 false info [(va / 2 ^ 16, false)] (.sequencer b)
          (none, s.onSeq b fun q => { q with asleep := some n })
        else (none, s.seqFault b (seqInfo q f.cls none))
      | .ok t =>
        let s := ((s.useCxl t.pa).cross (s.coreDie k.core) (homeDie t.pa)).checkSectors k.part k.core va t.pa 8 .mstream
        if s.poisoned t.pa 8 then (none, s.seqPoison b q.wpos none)
        else
          let w := BitVec.ofNat 64 (s.mem.readNat t.pa 8)
          match decodeStream w with
          | some i => (some i, { s with sq := b })
          | none => (none, s.seqFault b (seqInfo q .illegalInstruction (some w)))

/-- A FAULTED sequencer's record stops the block once each wave has ended or is blocked (R224). -/
def seqStopDue (s : State) (b : Nat) : Bool :=
  let k := s.blk b
  k.seqr.frec.isSome && !k.killed && !k.doomed &&
    (List.range k.waves.length).all fun i => match s.wave? b i with
      | some w => Wave.isEnded w || !Wave.isLoose w || (s.readySlots b w).isEmpty
      | none => true

/-- The record of a FAULTED sequencer stops its block (R224, R273). -/
def seqStopNow (s : State) (b : Nat) : State :=
  match (s.seq b).frec with
  | some f => if s.seqStopDue b then (s.onSeq b fun q => { q with frec := none }).seqStop b f else s
  | none => s

/-- The sequencer whose batch has been answered (R224, R268). -/
def answerSeq (s : State) (b : Nat) (fail : Bool) : State :=
  let q := s.seq b
  let s := s.onSeq b fun q => { q with asleep := none }
  if fail then s.seqFault b (seqInfo q .notPresent none) else s

/-! ### LFREE -/

/-- Lines of a space that some ranges touch meet a run of indices. -/
def rangesMeet (space ix n : Nat) (rs : List SpaceRange) : Bool :=
  rs.any fun r => r.1 == space && r.2.2 != 0 && r.2.1 / 1024 < ix + n && ix ≤ (r.2.1 + r.2.2 - 1) / 1024

/-- The ranges of the block's spaces that the elements of a unit of a copy take up. -/
def unitRanges (c : Copy) (k : Nat) : List SpaceRange :=
  let p := c.plw
  let q := Plw.of c.b
  let elem (p : Plw) (b : List Nat) : List SpaceRange := (p.bytesAt b (2 ^ c.td.esz)).map fun a => (p.space, a, 1)
  if c.fn = 3 then [(2, p.base + k * c.width * 1152, 1152 * c.width), (2, c.td.scloff + 384 * k, 384)]
  else if c.fn = 5 then (List.range c.cols).flatMap fun b0 => elem p [b0, k, 0, 0]
  else if c.quantises then
    let kbs := c.cols / 24
    (p.space, c.td.scloff + k % kbs * 16 + k / kbs, 1) ::
      (List.range 24).map fun i => (p.space, p.at_ [24 * (k % kbs) + i, k / kbs, 0, 0] 0, 1)
  else (unitElems c k).flatMap fun b => elem p b ++ (if c.fn = 7 then elem q b else [])

/-- The ranges of the block's spaces that a transfer record names (R187). -/
def recordRanges (x : XRec) : List SpaceRange :=
  (if x.srcK = 0 then [] else [(x.srcK - 1, x.src % 2 ^ 20, x.len)]) ++ (if x.dstK = 0 then [] else [(x.dstK - 1, x.dst % 2 ^ 20, x.len)])

/-- The copy may still touch a line of a range (R176): one whose addresses are not all known may touch any, a RATOM and a
COLL touch none. DESIGN CHOICE (log entry 142): to count bytes at a transaction barrier is no write of the barrier's line
here. -/
def copyTouches (c : Copy) (space ix n : Nat) : Bool :=
  if c.fn = 0x18 ∨ c.fn = 0x19 then false
  else
    rangesMeet space ix n (((c.land.map (·.sp)).getD []).flatten.map fun w => (w.1, w.2.1, 1)) ||
    rangesMeet space ix n (c.carry.sp.map fun x => (x.1 % 4, x.1 / 4 * 128, 128)) ||
    (if c.fn = 6 then (match c.xrec with
      | some x => x.next != 0 || rangesMeet space ix n (recordRanges x)
      | none => c.chain.isSome)
    else !c.ready ||
      rangesMeet space ix n
        ((c.todo ++ c.owed.map (·.1) ++ (List.range (c.units - c.unit)).map (c.unit + ·)).flatMap (unitRanges c)))

/-- A copy of the block that had started before a place in the core's start count, or an operation that has begun, may
still touch a line of a range (R176). -/
def linesBusy (s : State) (b space ix n before : Nat) : Bool :=
  let k := s.blk b
  ((s.core k.core).copies.any fun x => x.2.blk == b && x.2.inFlight && x.2.st != .suspended && decide (x.2.seq < before) &&
    copyTouches x.2 space ix n) ||
  ((k.seqr.mma.map ArrOp.touches).getD []).any (fun r => rangesMeet space ix n [r]) ||
  ((k.seqr.epi.map ArrOp.touches).getD []).any fun r => rangesMeet space ix n [r]

end State

/-- MNOP (R222). -/
def execMnop (s : State) : Out := .next (s.advance s.sq 1)

/-- MMA (R217). -/
def execMma (f : MmFields) (s : State) : Out := .next (s.startMm f (Instr.mma f).streamWord false)

/-- MMAC (R217, R218). -/
def execMmac (f : MmFields) (s : State) : Out := .next (s.startMm f (Instr.mmac f).streamWord true)

/-- MCLR (R217). -/
def execMclr (f : MclrFields) (s : State) : Out :=
  let b := s.sq
  if !s.mmFree b f.tile.toNat [] then .next s
  else if f.sigen = 1 && !s.nbReady b f.nb then .next (s.wordFault b .barrier)
  else .next (s.beginMma b (Instr.mclr f).streamWord 0 0 true f.q)

/-- EPI (R220). -/
def execEpi (f : EpiFields) (s : State) : Out :=
  let b := s.sq
  let dout := s.mreg b f.oreg
  let dp := s.mreg b f.preg
  if !s.epiFree b f.tile.toNat (f.outRanges dout) then .next s
  else match s.epiFault b f dout dp with
    | some c => .next (s.wordFault b c)
    | none => .next ((s.onSeq b fun q => { q with epi := some ⟨(Instr.epi f).streamWord, dout, dp, 0, q.wpos⟩ }).advance b 1)

/-- MSET (R222). -/
def execMset (reg : BitVec 4) (sel : BitVec 2) (imm : BitVec 48) (s : State) : Out :=
  let b := s.sq
  let v : B64 := if sel = 0 then imm.setWidth 64
    else BitVec.ofNat 64 ((s.mreg b reg).toNat % 2 ^ 48 + imm.toNat % 2 ^ 16 * 2 ^ 48)
  .next ((s.setM b reg v).advance b 1)

/-- MADD (R222). -/
def execMadd (dreg areg : BitVec 4) (shift : BitVec 6) (imm : B32) (s : State) : Out :=
  let b := s.sq
  .next ((s.setM b dreg (s.mreg b areg + imm.signExtend 64 <<< shift.toNat)).advance b 1)

/-- MLOOP (R222). -/
def execMloop (reg : BitVec 4) (off : BitVec 20) (s : State) : Out :=
  let b := s.sq
  let v := s.mreg b reg - 1
  .next ((s.setM b reg v).advance b (if v = 0 then 1 else off.toInt))

/-- MJMP (R222). -/
def execMjmp (off : BitVec 20) (s : State) : Out := .next (s.advance s.sq off.toInt)

/-- MWAIT (R223): it waits while the phase is the awaited parity, else the parity flips. -/
def execMwait (nb : BitVec 4) (s : State) : Out :=
  let b := s.sq
  let q := s.seq b
  if !s.nbReady b nb then .next (s.wordFault b .barrier)
  else if ((s.blk b).nb.getD nb.toNat {}).phase = q.sp.getLsbD nb.toNat then
    .next ((s.onSeq b fun q => { q with st := .waiting nb.toNat, woken := false }).seqStuck b false)
  else .next ((s.onSeq b fun q => { q with sp := q.sp ^^^ (1#16 <<< nb.toNat) }).advance b 1)

/-- MSIG (R223): once every earlier operation is complete. -/
def execMsig (nb : BitVec 4) (s : State) : Out :=
  let b := s.sq
  if !s.seqQuiet b then .next s
  else if !s.nbReady b nb then .next (s.wordFault b .barrier)
  else .next ((s.advance b 1).nbArrive b nb.toNat)

/-- MHALT (R222): once every operation has completed the sequencer is IDLE. -/
def execMhalt (s : State) : Out :=
  let b := s.sq
  if !s.seqQuiet b then .next s
  else .next ((s.onSeq b fun q => { q with st := .idle }).advance b 1)

/-- ARRAY_OP_COMPLETE (R171, R217, R220, R223): an EPI lands its output by 16-byte parts and then completes; nothing
completes once the save engine has stopped the sequencer (R227). -/
def execArrayOpComplete (blk : Nat) (isEpi : Bool) (s : State) : Out :=
  match if State.seqClosed (s.blk blk) then none else if isEpi then (s.seq blk).epi else (s.seq blk).mma with
  | none => .next s
  | some o => .next (if isEpi then s.stepEpi blk o else s.finishMma blk o)

/-- MWAIT_WAKE (R223): the phase has flipped; SP flips and the sequencer goes on. -/
def execMwaitWake (blk : Nat) (s : State) : Out :=
  let q := s.seq blk
  match q.st with
  | .waiting nb =>
    if q.woken || ((s.blk blk).nb.getD nb {}).phase != q.sp.getLsbD nb then
      .next ((s.onSeq blk fun q => { q with st := .running, woken := false, sp := q.sp ^^^ (1#16 <<< nb) }).advance blk 1)
    else .next s
  | _ => .next s

/-- MSTART (R215): a release at .block; BARRIER where the block declares no matrix use or its sequencer is not IDLE. -/
def execMstart (f : FmtAb) (s : State) : Out :=
  match s.issue.actor with
  | none => .next s
  | some l =>
    let e := s.issue
    let q := s.iblk.seqr
    let a := e.ss f.a
    let m := e.ss f.b
    if !q.use || q.st != .idle then .next (s.raise [State.memberFault .barrier l 0 a m])
    else .next ((s.release 1).onSeq e.blk fun q =>
      { q with sa := BitVec.ofNat 64 a, wpos := 0, m := Tab.set 0 [] 0 (BitVec.ofNat 64 m), flagWave := e.wv, st := .running
               woken := false })

/-- The word of MQRY (R216). -/
def mqryWord (q : Seqr) : Nat :=
  let (st, nb) := match q.st with
    | .idle => (0, 0)
    | .running => (1, 0)
    | .waiting k => (2, k)
    | .faulted => (3, 0)
  let busy := ([q.mma, q.epi].filterMap id).foldl (fun m o => m ||| 2 ^ o.tile) 0
  st * 2 ^ 62 + nb * 2 ^ 56 + busy * 2 ^ 52 + q.sp.toNat * 2 ^ 32 + q.wpos.toNat

/-- MQRY (R215, R216). -/
def execMqry (f : FmtAb) (s : State) : Out :=
  match s.issue.actor with
  | none => .next s
  | some _ => .next (s.onIssue fun e => e.writeS f.b (mqryWord s.iblk.seqr))

/-- LFREE (R176): frees nothing for SPACE 3 or COUNT 0; else it waits for the engines and unpins the range. -/
def execLfree (f : FmtAb) (s : State) : Out :=
  match s.issue.actor with
  | none => .next s
  | some _ =>
    let w := (rangeWord (s.issue.ss f.a % 2 ^ 32)).toNat
    let space := bits w 30 2
    let n := bits w 16 11
    let ix := bits w 0 10
    let before := match s.issue.cur.hold with
      | some (.lfree _ _ _ m) => m
      | _ => (s.core s.issue.core).starts
    if space = 3 ∨ n = 0 then .next s
    else if s.linesBusy s.issue.blk space ix n before then .next (s.retry (.lfree space ix n before))
    else .next (s.unpin s.issue.blk fun sp i => sp == space && ix ≤ i && i < ix + n)

end Sys2Proof.Machine
end

