-- ==== Sys2Proof/Machine/Hub.lean ====
section
/-!
DEFINITION. Accesses that the parties on the hub dies make through a partition's tables (R254, R283, R287, R294): the
command processors, the launch engine, the frontier unit, the save engine and the debug monitor. They hold no copies.
-/

namespace Sys2Proof.Machine

/-- A fault of such an access: class, level, and the address of the byte at fault. -/
structure HubFault where
  cls : FClass
  lvl : Nat
  va : Nat
deriving DecidableEq, Repr

/-- Bytes from an address to the end of its 16-byte part. -/
def partLeft (va n : Nat) : Nat := min n (16 - va % 16)

namespace State

/-- A party of a partition on the hub dies has read a line: its acquires take in that line's wts (R250, R254). -/
def hubSee (s : State) (p pa : Nat) : State := s.onPart p fun x => { x with cseen := max x.cseen (s.leaseOf pa).1 }

/-- Such a party acquires at .part (R254). -/
def hubSync (s : State) (p : Nat) : State := s.onPart p fun x => { x with cpts := max x.cpts x.cseen, cseen := 0 }

/-- Reads through a partition's tables, by 16-byte parts, at most `fuel` of them. -/
def hubReadN (a : Access) (p : Nat) : Nat → Nat → Nat → State → Except HubFault (List Byte) × State
  | 0, _, _, s => (.ok [], s)
  | fuel + 1, va, n, s =>
    if n = 0 then (.ok [], s)
    else match s.walkAccess p a va with
      | (.error f, s) => (.error ⟨f.cls, f.lvl, va⟩, s)
      | (.ok t, s) =>
        let k := partLeft va n
        let s := ((((s.useCxl t.pa).cross (cpDie p) (homeDie t.pa)).tagRead (cpSrc p) t.pa).checkSectors p 0 va t.pa k a.kind)
        let d := s.mem.read t.pa k
        let s := s.hubSee p t.pa
        match hubReadN a p fuel ((va + k) % 2 ^ 64) (n - k) s with
        | (.error f, s) => (.error f, s)
        | (.ok r, s) => (.ok (d ++ r), s)

/-- Reads `n` bytes. -/
def hubRead (s : State) (p va n : Nat) : Except HubFault (List Byte) × State := hubReadN Access.load p (n / 16 + 2) va n s

/-- A store of a partition's command processor, launch engine or frontier unit at .part (R254): its ts joins that
party's logical time. -/
def hubStore (s : State) (p pa : Nat) (d : List Byte) : State :=
  let (ts, s) := s.writeFrom (cpSrc p) (cpDie p) p pa d (s.part p).cpts
  s.onPart p fun x => { x with cpts := max x.cpts ts }

/-- Such a store tests the old check words of sectors that it covers in part first (R349); a record of a mismatch names `va`. -/
def hubMerge (s : State) (p va pa : Nat) (d : List Byte) (k : AKind := .store) : State :=
  (s.checkMerge p 0 va pa d.length [] k).hubStore p pa d

/-- Such a party acquires at .part after it has read a line (R254). -/
def hubAcquire (s : State) (p pa : Nat) : State := (s.hubSee p pa).hubSync p

/-- Writes through a partition's tables, by 16-byte parts: the parts before one that faults stand (R286). -/
def hubWriteN (p : Nat) : Nat → Nat → List Byte → State → Option HubFault × State
  | 0, _, _, s => (none, s)
  | fuel + 1, va, d, s =>
    if d.isEmpty then (none, s)
    else match s.walkAccess p Access.store va with
      | (.error f, s) => (some ⟨f.cls, f.lvl, va⟩, s)
      | (.ok t, s) =>
        let k := partLeft va d.length
        hubWriteN p fuel ((va + k) % 2 ^ 64) (d.drop k) (s.hubMerge p va t.pa (d.take k))

/-- Writes bytes. -/
def hubWrite (s : State) (p va : Nat) (d : List Byte) : Option HubFault × State := hubWriteN p (d.length / 16 + 2) va d s

/-- Sends an interrupt of a function (R334). -/
def interrupt (s : State) (fn vec : Nat) : State := { s with msi := s.msi ++ [(fn, vec)] }

end State

end Sys2Proof.Machine
end

