-- ==== Sys2Proof/Machine/Faults.lean ====
section
/-!
DEFINITION. The fault queue (R267), the answers of the driver (R268, R282), handler runs (R274), the reset of a context
(R275) and the debug mailbox (R276).
-/

namespace Sys2Proof.Machine

/-- N of a fault queue (R267): other values of LOG2N are read as 6. -/
def Part.fqSize (x : Part) : Nat := if 6 ≤ x.fqLog2 ∧ x.fqLog2 ≤ 15 then 2 ^ x.fqLog2 else 64

/-- FULL (R267). -/
def Part.fqFull (x : Part) : Bool := decide (x.fqSize - 6 < (x.fqTail - x.fqHead).toNat)

/-- The record at the head of those that wait may be written (R267). -/
def Part.recReady (x : Part) : Bool := !x.recWait.isEmpty && x.fqEn && !x.fqFull

/-- The partition that a pending handler run is of. -/
def HPend.part (h : HPend) : Nat := (h.entry.getD 2 0).toNat % 64

/-- The block number that names no block: a doorbell run has no target. -/
def noBlock : Nat := 2 ^ 64

/-- A wave goes on after an answer (R268): its region runs again at full speed, or in the slow gear with the failed pages; a
step of the slow gear is retried (R270). -/
def wakeWave (fail : Bool) (pages : List Nat) (w : Wave) : Wave :=
  match w.gear with
  | .slow n cut f => { w with mode := .run, gear := .slow n cut (if fail then f ++ pages else f) }
  | .fast | .scout _ =>
    if fail then { w with mode := .run, gear := .slow 0 w.cutLanes pages }
    else { w with mode := .run, gear := .fast, first := none, cutLanes := none }

namespace State

/-- Writes the 64-byte entries of a record from entry `t` of a queue on (R267). -/
def putEntries (p base n : Nat) : Nat → List Byte → Nat → State → State
  | 0, _, _, s => s
  | k + 1, d, t, s => putEntries p base n k (d.drop 64) (t + 1) (s.placeStore (cpDie p) p (base + 64 * (t % n)) (d.take 64) 0).2

/-- Writes the first record that waits (R267, R271, R274). -/
def writeRecord (s : State) (p : Nat) (r : RecWait) (rest : List RecWait) : State :=
  let x := s.part p
  let d := s.withSeq p r.data
  let n := d.length / 64
  let i := x.fqTail.toNat
  let s := putEntries p (bits x.fqBase.toNat 12 40 * 2 ^ 12) x.fqSize n d i (s.onPart p fun x => { x with recWait := rest })
  let s := (s.onPart p fun x => { x with fqTail := x.fqTail + BitVec.ofNat 32 n }).countRecord p
  let s := match r.handler with
    | some (c, h) => s.onCore c fun k =>
        { k with hpend := k.hpend ++ [{ h with index := i, entry := d.take 64 }] }
    | none => s
  let s := match r.kills with
    | some b => s.killBlock b
    | none => s
  s.interrupt p 0

/-- A wave's party is awake again: its core's pts takes the recorded HOSTTS (R282). -/
def answerWave (s : State) (n : Nat) (fail : Bool) (pages : List Nat) (b w : Nat) : State :=
  match s.wave? b w with
  | some v =>
    if v.mode = .asleep n then (s.raisePts (s.blk b).core (s.blk b).part s.hostts).onWave b w (wakeWave fail pages) else s
  | none => s

/-- Wakes one sleeper of a batch (R268, R282). -/
def answerOne (s : State) (n : Nat) (fail : Bool) (pages : List Nat) : Sleeper → State
  | .wave b w => s.answerWave n fail pages b w
  | .copy c k => match (s.core c).copies.find k with
    | some x => if x.st = .batch n then (s.raisePts c x.part s.hostts).answerCopy c k fail else s
    | none => s
  | .sequencer b =>
    if (s.seq b).asleep = some n then (s.raisePts (s.blk b).core (s.blk b).part s.hostts).answerSeq b fail else s

/-- The physical cluster admits blocks of a partition (R321): OWNER, or the partition that its present slice serves. -/
def clusterServes (s : State) (k p : Nat) : Bool :=
  let c := s.cluster k
  if bitAt c.cla.toNat 7 then bitAt c.clm.toNat p && c.cur == some p && decide (s.nclk < c.until_)
  else bits c.cla.toNat 0 6 == p

/-- The physical cluster is one that a partition may use (R40). -/
def clusterOpen (s : State) (k p : Nat) : Bool :=
  let c := s.cluster k
  if bitAt c.cla.toNat 7 then bitAt c.clm.toNat p else bits c.cla.toNat 0 6 == p

/-- The logical cores that a partition may use (R18, R40). -/
def coresOf (s : State) (p : Nat) : List Nat := (List.range s.lcoreCount).filter fun n => s.clusterOpen (s.clusterOf n) p

/-- The core on which a partition's monitor runs (R276): its lowest logical core. -/
def monitorCore (s : State) (p : Nat) : Nat := (s.coresOf p).headD 0

/-- The pending handler run that a core serves next (R274, R275): none of a STOPPED partition. -/
def nextHandler (s : State) (c : Nat) : Option HPend :=
  if (s.core c).hrun.isSome then none else (s.core c).hpend.find? fun h => !(s.part h.part).stopped

/-- Registers of a handler's wave (R274). -/
def handlerArch (index : Nat) : Arch :=
  { sc := Tab.set 0 [] 0 (BitVec.ofNat 64 index)
    fib := { st := .live } :: List.replicate 31 {} }

/-- The block of a handler run (R274). -/
def handlerBlock (s : State) (c : Nat) (h : HPend) : Block :=
  let v := (s.part h.part).handler.toNat
  let a := handlerArch h.index
  { part := h.part, core := c, codeBase := bits v 6 58 * 64, w := 8 * (bits v 0 3 + 1), handler := true
    waves := [{ arch := a, entry := a, slot := 63, age := s.nextAge }] }

/-- The request that stands in a partition's mailbox (R276). -/
def request0 (s : State) (p : Nat) : List Byte := s.mem.read (s.mboxPa p) 32

/-- The monitor's reply (R276): the request's first 32 bytes with STATUS in byte 5, then data. -/
def reply (s : State) (p status : Nat) (data : List Byte) : State :=
  let r := s.request0 p
  (s.placeStore (s.coreDie (s.monitorCore p)) p (s.mboxPa p + 0x800) (r.take 5 ++ toBytes 1 status ++ r.drop 6 ++ data) 0).2

/-- The monitor answers a request whose CMD is none of 1 to 10 with STATUS 1, as its doorbell run starts (R276). -/
def badCommand (s : State) (h : HPend) : State :=
  let cmd := ((s.request0 h.part).getD 4 0).toNat
  if h.code = 0xFFFE ∧ ¬(1 ≤ cmd ∧ cmd ≤ 10) then s.reply h.part 1 [] else s

/-- Starts a handler run (R274). -/
def startHandler (s : State) (c : Nat) (h : HPend) : State :=
  let b := s.nextBlk
  let slot := ((s.wave? h.blk h.wave).map (·.slot)).getD 0
  let k := s.handlerBlock c h
  let s := { s with blocks := s.blocks.insert b k, nextBlk := b + 1, nextAge := s.nextAge + 1 }
  (s.badCommand h).onCore c fun x =>
    { x with
      hrun := some (b, h), hpend := x.hpend.erase h, tgt := BitVec.ofNat 64 slot
      hsave := (List.range 8).foldl (fun t i =>
        Tab.set 0 t i (BitVec.ofNat 64 (ofBytes ((h.entry.drop (8 * i)).take 8)))) [] }

/-- Takes a handler run off its core with none of its effects (R275). -/
def dropRun (s : State) (c : Nat) : State :=
  match (s.core c).hrun with
  | some (b, h) =>
    let s := { s.onCore c fun k => { k with hrun := none } with blocks := s.blocks.erase b }
    if h.code = 0xFFFE then s.lowerDoor h.part else s
  | none => s

/-- The handler runs of a partition, running and pending, go (R275); with a doorbell run DOOR returns to 0. -/
def dropRuns (s : State) (p : Nat) : State :=
  s.cores.foldl (fun s x =>
    let s := if (x.2.hrun.map fun r => r.2.part == p).getD false then s.dropRun x.1 else s
    let door := x.2.hpend.any fun h => h.part == p && h.code == 0xFFFE
    let s := s.onCore x.1 fun k => { k with hpend := k.hpend.filter fun h => h.part != p }
    if door then s.lowerDoor p else s) s

end State

/-- A queue emptied by a reset of its context (R275). -/
def queueEmptied (q : Queue) : Queue :=
  { q with head := q.tail, fault := false, qfault := 0, frames := [], skip := 0, loop := none, wait := none, pend := none, ahead := [], fixed := [] }

/-- Gangs of a launch (R36). -/
def LaunchRec.gangs (r : LaunchRec) : Nat := (r.ext.1 * r.ext.2.1 * r.ext.2.2 + r.gang - 1) / r.gang

/-- A launch that a reset of its context ends (R275, R290, R306): nothing of it is dealt any more, and it carries ERR. -/
def Launch.ended (l : Launch) : Launch :=
  { l with
    killed := true, nextGang := l.lr.gangs
    frontier := l.frontier.map fun f => { f with stopped := true, faulted := true } }

namespace State

/-- CTX.RESET of a partition (R275). -/
def resetContext (s : State) (p : Nat) : State :=
  let s := s.dropRuns p
  let s := (s.blocks.filter fun x => x.2.part == p).foldl (fun s x => s.killOne x.1) s
  s.onPart p fun x =>
    { x with
      launches := x.launches.map fun l => (l.1, Launch.ended l.2)
      saved := [], chunks := [], busy := [], stopped := false, ctxReset := false
      queues := x.queues.map fun q => (q.1, queueEmptied q.2) }

/-! ### The mailbox -/

/-- A stopped wave that a mailbox command names by core and wave slot (R276). -/
def mboxWave (s : State) (p core wave : Nat) : Option (Nat × Nat) := s.stoppedAt core p wave

/-- The register that a selector names in a stopped wave (R92, R276). -/
def mboxRead (s : State) (core b w sel reg l : Nat) : Nat :=
  if sel ≤ 0x11 then s.sysReg b w ((s.wave? b w).getD {}).arch l sel
  else if sel = 0x12 then (s.core core).tgt.toNat
  else if sel < 0x18 then 0
  else if sel < 0x20 then ((s.core core).hsave.get 0 (sel - 0x18)).toNat
  else if sel < 0x24 then s.targetReg b w l reg sel
  else 0

/-- Writes the register that a selector names in a stopped wave (R92, R276). -/
def mboxWrite (s : State) (core b w sel reg l v : Nat) : State :=
  if sel ≤ 0x11 then s.writeSys b w sel v
  else if sel = 0x12 then s.onCore core fun c => { c with tgt := BitVec.ofNat 64 v &&& 0x7F1FBF }
  else if sel < 0x18 then s
  else if sel < 0x20 then s.onCore core fun c => { c with hsave := c.hsave.set 0 (sel - 0x18) (BitVec.ofNat 64 v) }
  else if sel < 0x24 then s.writeTarget b w l reg sel v
  else s

/-- Reads bytes as the monitor's loads do (R276): a LOCAL line held in its core's L1 is read there. -/
def monitorRead (core p : Nat) : Nat → Nat → Nat → State → Except WalkFault (List Byte) × State
  | 0, _, _, s => (.ok [], s)
  | fuel + 1, va, n, s =>
    if n = 0 then (.ok [], s)
    else match s.translate core p Access.load va with
      | (.error f, s) => (.error f, s)
      | (.ok t, s) =>
        let k := partLeft va n
        let (d, s) := s.copyRead core p va t.pa t.cls k
        match monitorRead core p fuel ((va + k) % 2 ^ 64) (n - k) s with
        | (.error f, s) => (.error f, s)
        | (.ok r, s) => (.ok (d.map (·.1) ++ r), s)

/-- Writes bytes as the monitor's stores do, released at .part (R276). -/
def monitorWrite (core p : Nat) : Nat → Nat → List Byte → State → Option WalkFault × State
  | 0, _, _, s => (none, s)
  | fuel + 1, va, d, s =>
    if d.isEmpty then (none, s)
    else match s.translate core p Access.store va with
      | (.error f, s) => (some f, s)
      | (.ok t, s) =>
        let k := partLeft va d.length
        let s := if t.cls = .loc then s.localNow ⟨p, va, t.pa, t.cls, d.take k, noBlock, 0, false, []⟩ core
          else
            let (ts, s) := (s.checkMerge p core va t.pa k [] .store).coreStoreNow core p t.pa (d.take k)
            (s.updateCopy core p va ts).raisePts core p ts
        monitorWrite core p fuel ((va + k) % 2 ^ 64) (d.drop k) s

/-- A wave that the monitor resumes (R160, R276). -/
def mboxRestart (s : State) (p core wave : Nat) (step : Bool) : State :=
  match s.mboxWave p core wave with
  | some (b, w) => (s.resumeWave b w step).reply p 0 []
  | none => s.reply p 3 []

/-- The word of a BKPT with code 0 (R159): 0x7D, FN 0x0C. -/
def bkptWord : B32 := 0x7D0C0000

/-- The first word of the packet at a VA becomes another (R276): the word that stood there, where the page can be written. -/
def swapWord (s : State) (p va : Nat) (w : B32) : Option B32 × State :=
  let c := s.monitorCore p
  match monitorRead c p 2 va 4 s with
  | (.error _, s) => (none, s)
  | (.ok old, s) => match monitorWrite c p 2 va (toBytes 4 w.toNat) s with
    | (some _, s) => (none, s)
    | (none, s) => (some (BitVec.ofNat 32 (ofBytes old)), s)

/-- The stopped waves of a partition (R276), as QUERY gives them: logical core and wave slot of each. -/
def stoppedWaves (s : State) (p : Nat) : List (Nat × Nat) :=
  s.blocks.flatMap fun x =>
    if x.2.part ≠ p ∨ x.2.handler then []
    else x.2.waves.filterMap fun w => match w.mode with
      | .stopped _ => some (x.2.core, w.slot)
      | _ => none

/-- CTX of a partition (R274). -/
def ctxWord (s : State) (p : Nat) : Nat := b2n (s.part p).ctxReset * 256 + b2n (s.part p).stopped

end State

/-- HANDLER_RUN_START (R274). -/
def execHandlerRunStart (core : Nat) (s : State) : Out :=
  match s.nextHandler core with
  | some h => .next (s.startHandler core h)
  | none => .next s

/-- FAULT_RECORD_WRITE (R267): the writer waits while EN = 0 or FULL = 1. -/
def execFaultRecordWrite (part : Nat) (s : State) : Out :=
  match (s.part part).recWait with
  | [] => .next s
  | r :: rest => if (s.part part).recReady then .next (s.writeRecord part r rest) else .next s

/-- A write of FQ_ANSWER (R268, R282): an answer for a batch that is not outstanding is ignored. -/
def State.answerBatch (s : State) (part v : Nat) : State :=
  let n := bits v 0 16
  match (s.part part).batches.find n with
  | none => s
  | some r =>
    let s := s.onPart part fun x => { x with batches := x.batches.erase n }
    r.who.foldl (fun s w => s.answerOne n (bitAt v 16) r.pages w) s

/-- FQ_ANSWER_WRITE (R268, R282). -/
def execFqAnswerWrite (part : Nat) (v : B64) (s : State) : Out := s.byHost fun s => s.answerBatch part v.toNat

/-- CONTEXT_RESET (R275). -/
def execContextReset (part : Nat) (s : State) : Out := s.byHost fun s => s.resetContext part

/-- DOOR := 1 (R276): a run on the partition's lowest logical core; nothing while DOOR is 1. -/
def State.ringDoor (s : State) (part : Nat) : State :=
  if bitAt (s.part part).mbox.toNat 0 then s
  else
    let s := s.onPart part fun x => { x with mbox := x.mbox ||| 1 }
    match s.coresOf part with
    | [] => s
    | c :: _ =>
      let r := State.recordBytes part false false 1 {} 0 c 0 { cls := .bkpt, code := 0xFFFE }
      let h : HPend := ⟨noBlock, 0, 0, (toBytes 1 0 ++ r.drop 1).take 64, 0xFFFE⟩
      s.onCore c fun k => { k with hpend := k.hpend ++ [h] }

/-- DOORBELL (R276). -/
def execDoorbell (part : Nat) (s : State) : Out := s.byHost fun s => s.ringDoor part

/-- MBOX_HALT (R276): every wave of the launch, of all launches for 0, stops at its next cut. -/
def execMboxHalt (part : Nat) (launch : B64) (s : State) : Out :=
  let bs := s.blocks.filter fun x => x.2.part == part && !x.2.handler && (launch == 0 || x.2.launch.toNat == launch.toNat)
  let s := bs.foldl (fun s x => s.onWaves x.1 fun _ w => if Wave.isLoose w then { w with stopReq := true } else w) s
  .next (s.reply part 0 [])

/-- MBOX_RESUME (R276). -/
def execMboxResume (part core wave : Nat) (s : State) : Out := .next (s.mboxRestart part core wave false)

/-- MBOX_READREG (R276). -/
def execMboxReadreg (part core wave sel reg fibre : Nat) (s : State) : Out :=
  match s.mboxWave part core wave with
  | some (b, w) => .next (s.reply part 0 (toBytes 8 (s.mboxRead core b w sel (reg % 128) (fibre % 32))))
  | none => .next (s.reply part 3 [])

/-- MBOX_WRITEREG (R276). -/
def execMboxWritereg (part core wave sel reg fibre : Nat) (data : B64) (s : State) : Out :=
  match s.mboxWave part core wave with
  | some (b, w) => .next ((s.mboxWrite core b w sel (reg % 128) (fibre % 32) data.toNat).reply part 0 [])
  | none => .next (s.reply part 3 [])

/-- MBOX_READMEM (R276). -/
def execMboxReadmem (part : Nat) (va : B64) (len : Nat) (s : State) : Out :=
  if 2016 < len then .next (s.reply part 1 [])
  else match State.monitorRead (s.monitorCore part) part (len / 16 + 2) va.toNat len s with
    | (.ok d, s) => .next (s.reply part 0 d)
    | (.error _, s) => .next (s.reply part 2 [])

/-- MBOX_WRITEMEM (R276). -/
def execMboxWritemem (part : Nat) (va : B64) (data : List Byte) (s : State) : Out :=
  if 2016 < data.length then .next (s.reply part 1 [])
  else match State.monitorWrite (s.monitorCore part) part (data.length / 16 + 2) va.toNat data s with
    | (none, s) => .next (s.reply part 0 [])
    | (some _, s) => .next (s.reply part 2 [])

/-- MBOX_STEP (R276): the wave runs one slow-gear step and stops again (R274). -/
def execMboxStep (part core wave : Nat) (s : State) : Out := .next (s.mboxRestart part core wave true)

/-- MBOX_SETBKPT (R276): the monitor keeps the packet's first word and puts a BKPT in its place. -/
def execMboxSetbkpt (part : Nat) (va : B64) (s : State) : Out :=
  if ((s.part part).bkpts.find va.toNat).isSome then .next (s.reply part 0 [])
  else match s.swapWord part va.toNat State.bkptWord with
    | (some w, s) => .next ((s.onPart part fun x => { x with bkpts := x.bkpts.insert va.toNat w }).reply part 0 [])
    | (none, s) => .next (s.reply part 2 [])

/-- MBOX_CLRBKPT (R276): the packet's first word is put back. -/
def execMboxClrbkpt (part : Nat) (va : B64) (s : State) : Out :=
  match (s.part part).bkpts.find va.toNat with
  | none => .next (s.reply part 0 [])
  | some w => match s.swapWord part va.toNat w with
    | (some _, s) => .next ((s.onPart part fun x => { x with bkpts := x.bkpts.erase va.toNat }).reply part 0 [])
    | (none, s) => .next (s.reply part 2 [])

/-- MBOX_QUERY (R276): CTX, FQ_TAIL and the stopped waves. -/
def execMboxQuery (part : Nat) (s : State) : Out :=
  let ws := (s.stoppedWaves part).take 238
  .next (s.reply part 0 (toBytes 8 (s.ctxWord part) ++ toBytes 8 (s.part part).fqTail.toNat ++
    ws.flatMap fun w => toBytes 4 w.1 ++ toBytes 4 w.2))

end Sys2Proof.Machine
end

