-- ==== Sys2Proof/Machine/Launch.lean ====
section
/-!
DEFINITION. Launches: their records and checks (R3, R37, R203, R288, R289), events (R290), admission and dealing (R36, R38 to
R40, R291), block start and end (R23, R31, R292), deschedule (R34), FLEX (R43), the device-side members (R293 to R296).
-/

namespace Sys2Proof.Machine

/-- A little-endian field of bytes. -/
def fieldAt (d : List Byte) (o n : Nat) : Nat := ofBytes ((d.drop o).take n)

/-! ### Launch records -/

/-- A ring descriptor (R203); none where it is refused. Of a ring that is not declared SIZE may be 0. -/
def ringOf (sLines : Nat) (poolSize : Nat) (x : Nat) : Option Ring :=
  let lend := bits x 37 5
  let slots := bits x 30 7
  let size := bits x 20 10
  let base := bits x 0 20
  if bits x 42 22 ≠ 0 ∨ 64 < slots ∨ 16 < lend ∨ 512 < size ∨ base % 128 ≠ 0 then none
  else if slots = 0 then some {}
  else if size = 0 then none
  else if 1024 * sLines < base + 128 * (slots * size) ∨ (0 < lend ∧ poolSize < size) then none
  else some { base := base, size := size, slots := slots, lend := lend }

/-- A lend pool descriptor (R203). -/
def poolOf (sLines x : Nat) : Option Pool :=
  let count := bits x 30 6
  let size := bits x 20 10
  let base := bits x 0 20
  if bits x 36 28 ≠ 0 ∨ 32 < count ∨ 512 < size ∨ base % 128 ≠ 0 then none
  else if count = 0 then some { size := size }
  else if size = 0 then none
  else if 1024 * sLines < base + 128 * (count * size) then none
  else some { base := base, size := size, count := count }

namespace LaunchRec

/-- Dependence vector `k` of DEP (R288). -/
def depOf (x k : Nat) : Int × Int × Int := (sext 4 (x >>> (12 * k)), sext 4 (x >>> (12 * k + 4)), sext 4 (x >>> (12 * k + 8)))

/-- The fields of a launch record (R288). -/
def of (d : List Byte) : LaunchRec :=
  let u := fieldAt d
  let waves := bits (u 64 1) 0 4 + 1
  { code := u 0 8, mstream := u 8 8, arg := BitVec.ofNat 64 (u 16 8), event := u 24 8
    ext := (u 32 4, u 36 4, u 40 4), entry := BitVec.ofNat 32 (u 44 4), stamp := BitVec.ofNat 32 (u 48 4)
    lentry := BitVec.ofNat 32 (u 52 4), res := u 56 8, waves := waves, gang := 2 ^ bits (u 64 1) 4 2
    w := 8 * (bits (u 65 1) 0 4 + 1), tiles := bits (u 65 1) 4 3
    lines := (bits (u 66 4) 0 10, bits (u 66 4) 10 10, bits (u 66 4) 20 10)
    energy := bits (u 70 1) 0 3, prio := bits (u 70 1) 3 3, plevel := bits (u 70 1) 6 2
    det := bitAt (u 71 1) 0, sweep := bits (u 71 1) 1 2, ndep := bits (u 71 1) 3 3
    deps := (List.range 4).map (depOf (u 72 6))
    roles := (List.range waves).map fun k => Role.ofCode (bits (u 80 4) (2 * k) 2)
    flex := (List.range waves).map fun k => bitAt (u 84 2) k
    wring := bits (u 86 1) 0 3, t := bits (u 87 1) 0 7, t2 := bits (u 88 1) 0 7, wn := u 90 2
    nbars := List.replicate 16 0, rings := List.replicate 8 {} }

/-- Some wave is FLEX. -/
def hasFlex (r : LaunchRec) : Bool := r.flex.any id

/-- A record is not refused for its bytes (R37, R50, R289): the reserved bits, the illegal values, the limits. -/
def bytesOk (d : List Byte) : Bool :=
  let u := fieldAt d
  let r := of d
  let (x, y, z) := r.ext
  let (ls, la, lw) := r.lines
  bits (u 64 1) 6 2 == 0 && bits (u 65 1) 7 1 == 0 && bits (u 66 4) 30 2 == 0 && bits (u 71 1) 6 2 == 0 &&
  u 78 2 == 0 && bits (u 86 1) 3 5 == 0 && bits (u 87 1) 7 1 == 0 && bits (u 88 1) 7 1 == 0 && u 89 1 == 0 && u 92 36 == 0 &&
  bits (u 64 1) 4 2 != 3 && r.tiles ≤ 4 && r.plevel != 3 && r.sweep != 3 && r.ndep ≤ 4 &&
  1 ≤ x && x ≤ 65536 && 1 ≤ y && y ≤ 65536 && 1 ≤ z && z ≤ 65536 && x * y * z ≤ 2 ^ 32 &&
  r.code % 64 == 0 && r.res % 64 == 0 && ls + la + lw ≤ 896 &&
  u 84 2 / 2 ^ r.waves == 0 && u 80 4 / 4 ^ r.waves == 0 &&
  (!r.hasFlex || (r.t < r.t2 && r.t2 ≤ 64 && r.wn != 0))

/-- The record with its resource block (R203, R288); none where it is refused. -/
def withRes (r : LaunchRec) (d : List Byte) : Option LaunchRec :=
  let u := fieldAt d
  match poolOf r.lines.1 (u 80 8) with
  | none => none
  | some p =>
    let rs := (List.range 8).map fun k => ringOf r.lines.1 p.size (u (16 + 8 * k) 8)
    if u 88 40 ≠ 0 ∨ rs.any Option.isNone then none
    else some { r with nbars := (d.take 16).map (·.toNat), rings := rs.map fun x => x.getD {}, pool := p }

/-- The watched ring of a FLEX launch is declared (R208). -/
def watchOk (r : LaunchRec) : Bool := !r.hasFlex || (r.rings.getD r.wring {}).slots != 0

/-- Points of a launch (R36). -/
def points (r : LaunchRec) : Nat := r.ext.1 * r.ext.2.1 * r.ext.2.2

/-- The coordinates of a point (R36). -/
def point (r : LaunchRec) (i : Nat) : Nat × Nat × Nat :=
  let (x, y, _) := r.ext
  (i % x, i / x % y, i / (x * y))

/-- Column and sweep coordinate of a point (R301). -/
def columnOf (r : LaunchRec) (p : Nat × Nat × Nat) : Nat × Nat :=
  match r.sweep with
  | 0 => (p.2.1 + r.ext.2.1 * p.2.2, p.1)
  | 1 => (p.1 + r.ext.1 * p.2.2, p.2.1)
  | _ => (p.1 + r.ext.1 * p.2.1, p.2.2)

/-- Energy weight (R38). -/
def weight (r : LaunchRec) : Nat := ([1, 2, 3, 4, 6, 8, 12, 16] : List Nat).getD r.energy 16

/-- Lines that a block pins at its start (R165). -/
def lineCount (r : LaunchRec) : Nat := r.lines.1 + r.lines.2.1 + r.lines.2.2

end LaunchRec

namespace State

/-- Reads a launch record and its resource block (R288, R289): the record, or the cause. A LAUNCH may name no dependence
vector. -/
def readLaunch (s : State) (p : Nat) (d : List Byte) (frontier : Bool) : Except CmdCause LaunchRec × State :=
  let r := LaunchRec.of d
  if !LaunchRec.bytesOk d || (!frontier && r.ndep != 0) then (.error .record, s)
  else if r.res = 0 then (if r.watchOk then (.ok r, s) else (.error .record, s))
  else match s.hubRead p r.res 128 with
    | (.error _, s) => (.error .fetch, s)
    | (.ok b, s) => match r.withRes b with
      | none => (.error .record, s)
      | some r => if r.watchOk then (.ok r, s) else (.error .record, s)

/-! ### Events -/

/-- How a party on the hubs reaches an event (R290). -/
def hubEventAccess : Access := { kind := .atomic, rd := true, wr := true, cls := [.dev] }

/-- An event lies in a page of 512 MiB for a party on the hubs (R232). -/
def bigPage (s : State) (p va : Nat) : Bool :=
  match (s.walkAccess p hubEventAccess va).1 with
  | .ok t => t.big
  | .error _ => false

/-- Where an event lies for a party on the hubs (R286, R289, R290). -/
def eventReach (s : State) (p va : Nat) : Except CmdCause Nat × State :=
  if va % 16 ≠ 0 then (.error .event, s)
  else match s.walkAccess p hubEventAccess va with
    | (.ok t, s) => (.ok t.pa, s)
    | (.error f, s) => (.error (if f.cls = .cls then .event else .access), s)

/-- Where the event that a launch record names lies; none for 0 (R289). -/
def eventOf (s : State) (p va : Nat) : Except CmdCause (Option Nat) × State :=
  if va = 0 then (.ok none, s)
  else match s.eventReach p va with
    | (.ok a, s) => (.ok (some a), s)
    | (.error c, s) => (.error c, s)

/-- COUNT of an event. -/
def eventCount (s : State) (pa : Nat) : Nat := s.mem.readNat pa 8
/-- FLG of an event. -/
def eventFlg (s : State) (pa : Nat) : Nat := s.mem.readNat (pa + 12) 1
/-- The launch whose completion signals an event, where OWNV = 1 (R290). -/
def eventOwner (s : State) (pa : Nat) : Option Nat :=
  if bitAt (s.eventFlg pa) 1 then some (s.mem.readNat (pa + 8) 4) else none

/-- The bytes of an event that a launch takes as its own (R290): OWNER and OWNV. -/
def ownEvent (s : State) (p va pa id : Nat) : State :=
  s.hubMerge p (va + 8) (pa + 8) (toBytes 4 id ++ toBytes 1 (s.eventFlg pa ||| 2))

/-- The WRITE step of a completion (R290) at a logical time: COUNT, ERR, OWNV. -/
def signalEvent (s : State) (pa : Nat) (err : Bool) (t : Nat) : Nat × State :=
  let f := s.eventFlg pa
  s.homeStore pa (toBytes 8 (s.eventCount pa + 1) ++ s.mem.read (pa + 8) 4 ++
    toBytes 1 (((f ||| b2n err) &&& 0xFD))) t

/-! ### Acceptance -/

/-- The checks after those of the record and the event (R3, R40, R286, R289): STAMP, PRIO, ENERGY. -/
def acceptCheck (s : State) (p q : Nat) (r : LaunchRec) : Option CmdCause :=
  let cs := s.coresOf p
  if r.stamp.toNat ≠ Config.devid then some .stamp
  else if ((s.part p).queues.get {} q).prio < r.prio then some .prio
  else if !cs.isEmpty && cs.all fun c => bits (s.core c).budget.toNat 0 8 < r.weight then some .energy
  else none

/-- A launch receives its identifier and joins those to deal (R289, R290). -/
def enterLaunch (s : State) (p q : Nat) (r : LaunchRec) (pa : Option Nat) (cpts : Nat) (pooled : Bool)
    (f : Option Frontier) : Nat × State :=
  let x := s.part p
  let n := (x.count.toNat + 1) % 2 ^ 32
  let prio := (x.queues.get {} q).prio
  let l : Launch :=
    { queue := q, lr := r, seq := x.count.toNat + 1, pooled := pooled, prio := prio, eff := prio, eventPa := pa, eventBig := s.bigPage p r.event,
      cpts := cpts, frontier := f }
  let s := s.onPart p fun x => { x with count := x.count + 1, launches := x.launches.insert n l }
  (n, match pa with
    | some a => s.ownEvent p r.event a n
    | none => s)

/-- The checks of a launch that is no frontier launch (R289): its record and where its event lies. -/
def checkLaunch (s : State) (p q : Nat) (d : List Byte) : Except CmdCause (LaunchRec × Option Nat) × State :=
  match s.readLaunch p d false with
  | (.error c, s) => (.error c, s)
  | (.ok r, s) =>
    match s.eventOf p r.event with
    | (.error c, s) => (.error c, s)
    | (.ok pa, s) => match s.acceptCheck p q r with
      | some c => (.error c, s)
      | none => (.ok (r, pa), s)

/-- The checks and the acceptance of a launch that is no frontier launch (R289). -/
def acceptLaunch (s : State) (p q : Nat) (d : List Byte) (cpts : Nat) : Except CmdCause Nat × State :=
  match s.checkLaunch p q d with
  | (.error c, s) => (.error c, s)
  | (.ok (r, pa), s) => let (n, s) := s.enterLaunch p q r pa cpts false none; (.ok n, s)

/-! ### Admission -/

/-- Wave slots that the blocks of a core hold. -/
def usedSlots (s : State) (c : Nat) : List Nat :=
  s.blocks.flatMap fun x =>
    if x.2.core ≠ c ∨ x.2.handler then []
    else (List.range x.2.waves.length).filterMap fun i => match s.wave? x.1 i with
      | some w => if Wave.isEnded w then none else some w.slot
      | none => none

/-- The free wave slots of a core (R40): slot 63 never counts. -/
def freeSlots (s : State) (c : Nat) : List Nat := let u := s.usedSlots c; (List.range 63).filter fun k => !u.contains k

/-- Registers that the resident waves of a core have been allotted (R32). -/
def usedRegs (s : State) (c : Nat) : Nat := (s.residentWaves c).foldl (fun n x => n + 32 * x.2.1.w) 0

/-- Hold-buffer bytes that the resident waves of a core reserve (R156). -/
def usedHold (s : State) (c : Nat) : Nat := (s.residentWaves c).foldl (fun n x => n + reserve x.2.1.plevel) 0

/-- What a block needs of a core (R40). -/
structure Need where
  weight : Nat
  waves : Nat
  regs : Nat
  lines : Nat
  tiles : Nat
  matrix : Bool
  hold : Nat
deriving DecidableEq, Repr

/-- What a fresh block of a launch needs. -/
def need (r : LaunchRec) : Need :=
  { weight := r.weight, waves := r.waves, regs := 32 * r.w * r.waves, lines := r.lineCount, tiles := r.tiles
    matrix := r.tiles != 0, hold := reserve r.plevel * r.waves }

/-- A core admits a block (R40). -/
def admits (s : State) (c : Nat) (n : Need) : Bool :=
  let bs := s.blocks.filter fun x => x.2.core == c && !x.2.handler
  let tiles := bs.foldl (fun t x => t + x.2.tiles.length) 0
  bs.foldl (fun t x => t + x.2.weight) 0 + n.weight ≤ bits (s.core c).budget.toNat 0 8 &&
  n.waves ≤ (s.freeSlots c).length && s.usedRegs c + n.regs ≤ 131072 && n.lines ≤ s.freePinnable c &&
  tiles + n.tiles ≤ 4 && !(n.matrix && bs.any fun x => x.2.seqr.use) && s.usedHold c + n.hold ≤ 262144

/-- The physical clusters that hold enabled cores, in logical order (R17). -/
def clusterOrder (s : State) : List Nat := ((List.range s.lcoreCount).map s.clusterOf).eraseDups

/-- The logical cores of a physical cluster, in order. -/
def coresIn (s : State) (k : Nat) : List Nat := (List.range s.lcoreCount).filter fun n => s.clusterOf n == k

/-- The clusters in the order in which a gang tries them (R291). -/
def tryOrder (s : State) (last : Option Nat) : List Nat :=
  let cs := s.clusterOrder
  match last with
  | none => cs
  | some k => match cs.idxOf? k with
    | some i => cs.drop (i + 1) ++ cs.take (i + 1)
    | none => cs

/-- The admitting cores of a cluster for the blocks of a gang, in logical order; none where one does not admit (R20, R291). -/
def gangCores (s : State) (p k n : Nat) (x : Need) : Option (List Nat) :=
  let cs := s.coresIn k
  if cs.length < n || !s.clusterServes k p then none
  else
    let ok := cs.filter fun c => s.admits c x
    if ok.length < n then none else some (ok.take n)

/-- The first cluster that admits a gang, with its cores; in a P2 launch also the cores of the twins, in another cluster
(R272, R291). -/
def placeFor (s : State) (p n : Nat) (x : Need) (twins : Bool) (order : List Nat) : Option (Nat × List Nat × List Nat) :=
  order.findSome? fun k => match s.gangCores p k n x with
    | none => none
    | some cs =>
      if !twins then some (k, cs, [])
      else (order.filter (· != k)).findSome? fun j => (s.gangCores p j n x).map fun ts => (k, cs, ts)

/-! ### Block start -/

/-- A wave at block start (R23, R41, R43, R75, R292). -/
def freshWave (r : LaunchRec) (id lin wi slot slice age : Nat) : Wave :=
  let (x, y, z) := r.point lin
  let flex := r.flex.getD wi false
  let v := (List.range 32).foldl (fun t l => Tab.set 0 t (l * r.w) (BitVec.ofNat 32 (wi * 32 + l))) ([] : Tab B32)
  let sc := Tab.set 0 (Tab.set 0 (Tab.set 0 ([] : Tab B64) 0 r.arg) 1 (BitVec.ofNat 64 (x + y * 2 ^ 16 + z * 2 ^ 32))) 2
    (BitVec.ofNat 64 id)
  let a : Arch :=
    { v := v, sc := sc, fib := (List.range 32).map fun l => { st := .live, pc := ⟨r.entry, 0⟩, wb := l * r.w } }
  { arch := a, entry := a, slot := slot, slice := slice, age := age
    role := if flex then .vec else r.roles.getD wi .any, flex := flex, entryPc := r.entry, loadPc := r.lentry
    batches := List.replicate 4 {} }

/-- The issue slice with the fewest resident waves, the lowest on a tie (R40). -/
def slimSlice (used : List Nat) : Nat :=
  let count (k : Nat) : Nat := (used.filter (· == k)).length
  (List.range 4).foldl (fun m k => if count k < count m then k else m) 0

/-- Places waves one at a time in wave-index order (R40): each with its slot, slice and age. -/
def placeWaves (mk : Nat → Nat → Nat → Nat → Wave) : Nat → Nat → List Nat → List Nat → Nat → List Wave
  | 0, _, _, _, _ => []
  | n + 1, i, slots, used, age =>
    let sl := slimSlice used
    mk i (slots.headD 0) sl age :: placeWaves mk n (i + 1) (slots.drop 1) (used ++ [sl]) (age + 1)

/-- The slices of the waves that hold a slot of a core, descheduled ones too: no slice has more than 16 (R21, R34). -/
def usedSlices (s : State) (c : Nat) : List Nat :=
  (s.blocks.filter fun x => x.2.core == c && !x.2.handler).flatMap fun x =>
    (List.range x.2.waves.length).filterMap fun i => match s.wave? x.1 i with
      | some w => if Wave.isEnded w then none else some w.slice
      | none => none

/-- The set at which a block's pins start (R164). -/
def pinStart (lin id : Nat) : Nat := (lin * 37 + id) % 64

/-- A block with its waves takes its place on its core (R40, R165, R254): lines pinned, pts at least that of its launch. -/
def addBlock (s : State) (b : Nat) (k : Block) (cpts : Nat) (lines : Nat × Nat × Nat) : State :=
  let s := { s with blocks := s.blocks.insert b k, nextBlk := max s.nextBlk (b + 1), nextAge := s.nextAge + k.waves.length }
  let s := ((s.pinLines b 0 0 lines.1).pinLines b 1 0 lines.2.1).pinLines b 2 0 lines.2.2
  s.raisePts k.core k.part cpts

/-- Starts a block of a launch on a core (R21, R23, R292). -/
def startBlock (s : State) (p id : Nat) (l : Launch) (lin gang rank size core : Nat) (twin : Option Nat) (primary : Bool)
    (b : Nat) : State :=
  let r := l.lr
  let ws := placeWaves (freshWave r id lin) r.waves 0 (s.freeSlots core) (s.usedSlices core) s.nextAge
  let k : Block :=
    { part := p, launch := BitVec.ofNat 32 id, pt := r.point lin, lin := lin, gang := gang, gangSize := size, rank := rank
      core := core, codeBase := r.code, w := r.w, det := r.det, plevel := r.plevel, weight := r.weight, prio := l.prio
      eff := max l.prio l.eff, waves := ws, cursor := pinStart lin id
      nb := r.nbars.map fun n => { expect := n, remain := n }
      rings := r.rings, pool := r.pool, tiles := List.replicate r.tiles {}, seqr := { use := r.tiles != 0 }
      watch := if r.hasFlex then some (r.wring, r.t, r.t2, r.wn) else none
      twin := twin, primary := primary, frontier := l.frontier.isSome }
  let ft := match l.frontier with
    | some f => f.ft
    | none => 0
  s.addBlock b k (max l.cpts ft) r.lines

/-- Starts the blocks of a gang on their cores, and the twins on theirs (R36, R272, R291). -/
def startGang (s : State) (p id : Nat) (l : Launch) (gang first : Nat) (cs ts : List Nat) : State :=
  let n := cs.length
  (List.range n).foldl (fun s j =>
    let b := s.nextBlk
    let c := cs.getD j 0
    match ts[j]? with
    | none => s.startBlock p id l (first + j) gang j n c none true b
    | some t =>
      (s.startBlock p id l (first + j) gang j n c (some (b + 1)) true b).startBlock p id l (first + j) gang j n t (some b)
        false (b + 1)) s

/-! ### Dealing -/

/-- Blocks of a gang (R36). -/
def gangBlocks (r : LaunchRec) (g : Nat) : Nat := min r.gang (r.points - g * r.gang)

/-- The firing of a frontier launch is frozen (R306): a wave of one of its blocks is asleep on a batch or stopped for the
handler. -/
def frozen (s : State) (p id : Nat) : Bool :=
  s.blocks.any fun x => x.2.part == p && x.2.launch.toNat == id && !x.2.handler &&
    x.2.waves.any fun w => match w.mode with
      | .asleep _ | .stopped .handler => true
      | _ => false

/-- The gang or the point that a launch places next (R291, R302): its number, its first point, its size. -/
def nextGang (s : State) (p id : Nat) (l : Launch) : Option (Nat × Nat × Nat) :=
  match l.frontier with
  | none => if l.nextGang < l.lr.gangs then some (l.nextGang, l.nextGang * l.lr.gang, gangBlocks l.lr l.nextGang) else none
  | some f =>
    if f.stopped || s.frozen p id then none
    else match f.ready with
      | i :: _ => some (i, i, 1)
      | [] => none

/-- A saved image may be restored: the launch pool does not hold it back (R295, R307). -/
def imgFree (x : SavedImg) : Bool := x.why != .pool || x.waiters.isEmpty || !x.verdicts.isEmpty

/-- A launch has saved blocks to restore first (R307). -/
def hasSaved (s : State) (p id : Nat) : Bool := (s.part p).saved.any fun x => x.launch.toNat == id && imgFree x

/-- Launches that wait for room try again (R291). -/
def retryDeals (s : State) (p : Nat) : State :=
  s.onPart p fun x => { x with launches := x.launches.map fun l => (l.1, { l.2 with waiting := false }) }

/-- Every launch that waits for room tries again (R39, R291, R321). -/
def retryAll (s : State) : State := s.parts.foldl (fun s x => s.retryDeals x.1) s

/-- A point has been taken from the ready queue, or a gang has been placed. -/
def placedGang (s : State) (p id k : Nat) : State :=
  (s.onLaunch p id fun l =>
    { l with
      nextGang := if l.frontier.isSome then l.nextGang else l.nextGang + 1, placed := true, lastCluster := some k
      frontier := l.frontier.map fun f => { f with ready := f.ready.drop 1 } }).onPart p fun x =>
    let l := x.launches.get { queue := 0, lr := {} } id
    { x with lastQueue := x.lastQueue.insert l.prio l.queue }

end State

end Sys2Proof.Machine
end

