-- ==== Sys2Proof/Machine/Save.lean ====
section
/-!
DEFINITION. Pre-emption (R307 to R316): requests, the room for images, block images and wave images, the save of a block and
its restoration, the deschedule of waves (R34).
-/

namespace Sys2Proof.Machine

/-- Bytes with zeros after them up to a length. -/
def padTo (n : Nat) (d : List Byte) : List Byte := d ++ List.replicate (n - d.length) 0

/-- Bytes with zeros after them up to a multiple of 64. -/
def pad64 (d : List Byte) : List Byte := padTo (roundUp d.length 64) d

/-- A little-endian bit map of some numbers, in bytes. -/
def bitMap (bytes : Nat) (ks : List Nat) : List Byte := toBytes bytes (ks.foldl (fun m k => m ||| 2 ^ k) 0)

/-- The numbers whose bits are set in bytes. -/
def mapBits (d : List Byte) : List Nat := let x := ofBytes d; (List.range (8 * d.length)).filter x.testBit

/-- Maximal runs of a rising list of indices: first and length (R311). -/
def runsOf : List Nat → List (Nat × Nat)
  | [] => []
  | k :: r => match runsOf r with
    | (f, n) :: t => if f = k + 1 then (k, n + 1) :: t else (k, 1) :: (f, n) :: t
    | [] => [(k, 1)]

/-! ### Wave images -/

/-- STOP of a wave (R309). -/
def stopKind (w : Wave) : Nat :=
  match w.mode with
  | .stopped (.preempt k) => k
  | .ended => 4
  | _ => 3

/-- MASK of a wave's image (R312). -/
def imageMask (win : Nat) (w : Wave) : Nat :=
  match stopKind w with
  | 0 => (w.live.map fun x => x.1.toNat).getD 0
  | 1 => w.phaseMask
  | 4 => 0
  | _ => 2 ^ (win / 8) - 1

/-- The two range words of a wave's image (R312). -/
def imageRanges (w : Wave) : Nat × Nat :=
  match stopKind w, w.live with
  | 0, some (_, r0, r1) => (r0.toNat, r1.toNat)
  | _, _ => (0xC0000000, 0xC0000000)

/-- A batch class in bytes 24 to 27 of a wave image (R312). -/
def batchByte (b : BatchCls) : Nat := b.sealed.length % 64 + 128 * b2n (!b.opened.isEmpty)

/-- The groups of 8 vector registers of each lane slot (R312). -/
def groupBytes (a : Arch) (g : Nat) : List Byte :=
  (List.range 32).flatMap fun l => (List.range 8).flatMap fun r =>
    toBytes 4 (if (a.fibre l).st = .empty then 0 else (a.v.get 0 ((a.fibre l).wb + 8 * g + r)).toNat)

/-- The bytes of a fibre in a wave image (R312). -/
def fibreBytes (f : Fibre) : List Byte :=
  toBytes 4 f.pc.ix.toNat ++ toBytes 1 (f.pc.sl + 4 * f.st.code) ++ toBytes 3 0 ++ toBytes 2 (f.pred.toNat ||| 1) ++
    toBytes 2 f.wb ++ toBytes 4 0

/-- A wave image (R312): FLAGS with flags of finished engine operations that no cut has delivered yet (R112). -/
def waveImage (k : Block) (w : Wave) (due : Nat := 0) : List Byte :=
  let mask := imageMask k.w w
  let (r0, r1) := imageRanges w
  let head := toBytes 2 mask ++ toBytes 1 (k.w / 8) ++ toBytes 1 (stopKind w)
  if Wave.isEnded w then padTo 1088 head
  else
    let c (i : Nat) : BatchCls := w.batches.getD i {}
    head ++ toBytes 1 (roleWord w) ++ toBytes 1 0 ++ toBytes 2 w.wp.toNat ++
      toBytes 8 (orFlags w.arch.flags due).toNat ++
      toBytes 8 (wstatWord k w w.arch) ++ ((List.range 4).flatMap fun i => toBytes 1 (batchByte (c i))) ++ toBytes 4 0 ++
      toBytes 4 r0 ++ toBytes 4 r1 ++ ((List.range 4).flatMap fun i => toBytes 2 (c i).seq) ++ toBytes 16 0 ++
      ((List.range 64).flatMap fun i => toBytes 8 (w.arch.sc.get 0 i).toNat) ++
      ((List.range 32).flatMap fun l => fibreBytes (w.arch.fibre l)) ++
      ((List.range 16).filter fun g => bitAt mask g).flatMap (groupBytes w.arch)

/-- A fibre from its bytes (R312, R314). -/
def fibreOf (d : List Byte) : Fibre :=
  let u := fieldAt d
  { st := match bits (u 4 1) 2 2 with
      | 1 => .live
      | 2 => .helper
      | _ => .empty
    pc := ⟨BitVec.ofNat 32 (u 0 4), bits (u 4 1) 0 2⟩, pred := BitVec.ofNat 16 (u 8 2) ||| 1, wb := u 10 2 }

/-- The registers in a wave image (R312, R314). -/
def archOf (d : List Byte) : Arch :=
  let u := fieldAt d
  let fib := (List.range 32).map fun l => fibreOf ((d.drop (576 + 16 * l)).take 16)
  let gs := (List.range 16).filter fun g => bitAt (u 0 2) g
  let v := gs.zipIdx.foldl (fun v g => (List.range 32).foldl (fun v l =>
      let f := fib.getD l {}
      if f.st = .empty then v
      else (List.range 8).foldl (fun v r =>
        Tab.set 0 v (f.wb + 8 * g.1 + r) (BitVec.ofNat 32 (u (1088 + 1024 * g.2 + 32 * l + 4 * r) 4))) v) v) ([] : Tab B32)
  { v := v, fib := fib, flags := BitVec.ofNat 64 (u 8 8), vanished := bitAt (u 16 8) 5, clamp := bitAt (u 16 8) 0
    sc := (List.range 64).foldl (fun t i => Tab.set 0 t i (BitVec.ofNat 64 (u (64 + 8 * i) 8))) [] }

/-- The batch classes in a wave image (R312, R314): the suspended copies join them later. -/
def batchesOf (d : List Byte) : List BatchCls :=
  (List.range 4).map fun i =>
    { seq := fieldAt d (40 + 2 * i) 2, sealed := List.replicate (bits (fieldAt d (24 + i) 1) 0 6) [] }

/-- A wave from its image (R314): `w` has its slot, slice and age. -/
def waveOf (r : LaunchRec) (i : Nat) (d : List Byte) (w : Wave) : Wave :=
  let u := fieldAt d
  let a := archOf d
  if u 3 1 = 4 then { w with mode := .ended, batches := List.replicate 4 {} }
  else
    { w with
      arch := a, entry := a, role := Role.ofCode (bits (u 4 1) 0 2), flex := r.flex.getD i false
      entryPc := r.entry, loadPc := r.lentry, wp := BitVec.ofNat 16 (u 6 2), batches := batchesOf d
      live := if u 3 1 = 0 then some (BitVec.ofNat 16 (u 0 2), BitVec.ofNat 32 (u 32 4), BitVec.ofNat 32 (u 36 4)) else none }

/-! ### The other sections -/

/-- A slot's state byte and TBAR (R313). -/
def slotBytes (owner : Nat) (pos : Nat) (x : Option SlotSt) : List Byte :=
  let (st, tb) := match x with
    | none => (0, 0)
    | some .held => (1, 0)
    | some (.pubw b p) => (2 + 16 * b2n p, b)
    | some (.full e) => (3 + 8 * b2n e, 0)
    | some .taken => (4, 0)
  toBytes 1 (st + 32 * owner) ++ toBytes 2 tb ++ toBytes 1 (if x.isNone then 0xFF else pos)

/-- The place of a slot in its ring's queue (R313). -/
def queuePos (r : Ring) (k : Nat) : Nat := (r.queue.idxOf? k).getD 0xFF

/-- A ring of the object area (R313). -/
def ringImage (r : Ring) : List Byte :=
  padTo 320 (toBytes 8 r.phase ++ toBytes 1 r.acq ++ toBytes 1 r.lent ++ toBytes 6 0 ++
    (List.range 64).flatMap fun i => slotBytes 0 (queuePos r i) (r.st.find i))

/-- The object area of a block (R313). -/
def objImage (k : Block) : List Byte :=
  let rs := (List.range 8).map fun i => k.rings.getD i {}
  padTo 2752 (rs.flatMap ringImage ++ (List.range 32).flatMap fun j =>
    match rs.zipIdx.find? fun r => (r.1.st.find (64 + j)).isSome with
    | some (r, i) => slotBytes i (queuePos r (64 + j)) (r.st.find (64 + j))
    | none => slotBytes 0 0xFF none)

/-- A slot's state from its bytes. -/
def slotOfBytes (d : List Byte) : Option SlotSt :=
  let b := fieldAt d 0 1
  match bits b 0 3 with
  | 1 => some .held
  | 2 => some (.pubw (fieldAt d 1 2) (bitAt b 4))
  | 3 => some (.full (bitAt b 3))
  | 4 => some .taken
  | _ => none

/-- Puts a queued slot in its place (R313). -/
def putQueued : List (Nat × Nat) → Nat × Nat → List (Nat × Nat)
  | [], x => [x]
  | y :: r, x => if x.1 < y.1 then x :: y :: r else y :: putQueued r x

/-- Ring `k` with its state from the object area (R313, R314). -/
def ringState (d : List Byte) (k : Nat) (r : Ring) : Ring :=
  let o := 320 * k
  let at_ (i : Nat) : List Byte := (d.drop (if i < 64 then o + 16 + 4 * i else 2560 + 4 * (i - 64))).take 4
  let mine := (List.range 96).filter fun i => i < 64 || (bits (fieldAt (at_ i) 0 1) 5 3 == k && (slotOfBytes (at_ i)).isSome)
  let q := mine.foldl (fun q i => let p := fieldAt (at_ i) 3 1; if p = 0xFF then q else putQueued q (p, i)) []
  { r with
    phase := fieldAt d o 8, acq := fieldAt d (o + 8) 1, queue := q.map (·.2)
    st := mine.filterMap fun i => (slotOfBytes (at_ i)).map fun x => (i, x) }

/-- A tile image (R226). -/
def tileImage (t : Tile) : List Byte :=
  toBytes 2 (wrap 16 t.q.toInt) ++ toBytes 2 t.rinv.toNat ++ toBytes 4 0 ++ toBytes 48 t.cinv.toNat ++ toBytes 8 0 ++
    (dense 0 6144 0 t.a).flatMap fun a => toBytes 8 a.toNat

/-- A tile from its image (R226). -/
def tileOf (d : List Byte) : Tile :=
  { q := BitVec.ofNat 10 (fieldAt d 0 2), rinv := BitVec.ofNat 16 (fieldAt d 2 2), cinv := BitVec.ofNat 384 (fieldAt d 8 48)
    a := sparse 0 0 ((List.range 6144).map fun i => BitVec.ofNat 64 (fieldAt d (64 + 8 * i) 8)) }

/-- The sequencer image (R226): its flags, and those that its wave has still to be given (R112). -/
def seqImage (q : Seqr) (due : Nat := 0) : List Byte :=
  let st := match q.st with
    | .running => 1
    | .waiting _ => 2
    | _ => 0
  let (w, kb, a, b) := match q.mma with
    | some o => (o.word.toNat, o.kb, o.da.toNat, o.db.toNat)
    | none => (0, 0, 0, 0)
  padTo 256 (((List.range 16).flatMap fun i => toBytes 8 (q.m.get 0 i).toNat) ++ toBytes 8 q.sa.toNat ++
    toBytes 4 q.wpos.toNat ++ toBytes 2 q.sp.toNat ++ toBytes 1 st ++ toBytes 1 (q.flags ||| due) ++ toBytes 8 w ++ toBytes 2 kb ++
    toBytes 1 q.flagWave ++ toBytes 5 0 ++ toBytes 8 a ++ toBytes 8 b)

/-- The sequencer from its image (R226, R227): `at_` is the barrier of the MWAIT word at which a WAITING one goes on waiting.
DESIGN CHOICE (log entry 136): the image has no field for the WPOS of the interrupted word, so a record of it names the word
before WPOS. -/
def seqOf (d : List Byte) (at_ : Option Nat := none) : Seqr :=
  let u := fieldAt d
  { use := true, m := (List.range 16).foldl (fun t i => Tab.set 0 t i (BitVec.ofNat 64 (u (8 * i) 8))) []
    sa := BitVec.ofNat 64 (u 128 8), wpos := BitVec.ofNat 32 (u 136 4), sp := BitVec.ofNat 16 (u 140 2)
    st := if u 142 1 = 0 then .idle else if u 142 1 = 2 then (at_.map SeqSt.waiting).getD .running else .running
    flags := u 143 1, flagWave := bits (u 154 1) 0 4
    mma := if u 144 8 = 0 then none
      else some ⟨BitVec.ofNat 64 (u 144 8), BitVec.ofNat 64 (u 160 8), BitVec.ofNat 64 (u 168 8), u 152 2,
        BitVec.ofNat 32 (u 136 4) - 1⟩ }

/-- A suspended copy from its operand record (R192, R314): FN 8 names a COLL, since no copy has the FN of CPYQ. -/
def copyOf (b : Nat) (k : Block) (d : List Byte) : Copy :=
  let u := fieldAt d
  let fn := if bits (u 4 1) 4 4 = 8 then 0x18 else bits (u 4 1) 4 4
  let x (o n : Nat) : B64 := BitVec.ofNat 64 (u o n)
  { seq := 0, blk := b, wave := u 5 1, part := k.part, det := k.det, st := .queued
    pc := ⟨BitVec.ofNat 32 (u 0 4), bits (u 4 1) 0 2⟩, wslot := 0, word := 0, fn := fn, cls := bits (u 4 1) 2 2, bseq := u 6 2
    a := if fn = 6 ∨ fn = 0x18 then [x 8 8] else [x 8 4, x 12 4, x 16 4, BitVec.ofNat 64 (u 20 4 + 2 ^ 32 * u 52 4)]
    b := if fn = 6 ∨ fn = 0x18 then [] else [x 24 8, x 32 8, x 40 8], ext := BitVec.ofNat 24 (u 48 3), chain := if fn = 6 then some (u 8 8) else none }

namespace State

/-! ### Room for images -/

/-- The reserved size B of a block (R311). -/
def imageBound (s : State) (b : Nat) : Nat :=
  let k := s.blk b
  let l := (s.spaceIxs b 0).length + (s.spaceIxs b 1).length + (s.spaceIxs b 2).length
  roundUp (640 + k.waves.length * (1088 + 128 * k.w) + 2752 + 1028 * l + 64 + 49216 * k.tiles.length + 256 + 4096) 64

/-- The chunk lies in a reserved run. -/
def chunkTaken (s : State) (p c : Nat) : Bool := (s.part p).chunks.any fun r => r.1 ≤ c && c < r.1 + r.2

/-- The lowest run of `n` free chunks of a partition's save pool (R308). -/
def freeChunks (s : State) (p n : Nat) : Option Nat :=
  let total := bits (s.part p).savePool.toNat 0 16
  (List.range (total + 1 - n)).find? fun c => (List.range n).all fun i => !s.chunkTaken p (c + i)

/-- PA of a chunk (R308). -/
def chunkPa (s : State) (p c : Nat) : Nat := bits (s.part p).savePool.toNat 16 36 * 2 ^ 16 + c * 2 ^ 16

/-- The block is stopped for a rebase (R251). -/
def rebasing (s : State) (b : Nat) : Bool := ((s.blk b).pre.map (·.why)) == some .rebase

/-- A pts of a partition has reached 2^47 (R251). -/
def rebaseDue (s : State) (p : Nat) : Bool := s.cores.any fun c => 2 ^ 47 ≤ c.2.pts.get 0 p

/-- A wave of a block that becomes pending stops at once when it stands released from a BAR, or has been descheduled there,
or is blocked (R34, R309). -/
def settleOne (s : State) (b i : Nat) : State :=
  match s.wave? b i with
  | none => s
  | some w => match w.mode with
    | .desched c =>
      let p := (s.blk b).part
      let a := { archOf (s.mem.read (s.chunkPa p c) (1088 + 128 * (s.blk b).w)) with fseq := w.arch.fseq }
      if w.stopAs.isSome || s.rebasing b then s else (s.onPart p fun x => { x with chunks := x.chunks.erase (c, 1) }).onWave b i fun w =>
        { w with mode := .stopped (.preempt 1), arch := a, entry := a }
    | .run => if w.atPhase then s.onWave b i (Wave.stop (.preempt 1)) else s.settleWait b i
    | _ => s

/-- The waves of a pending block that stop now (R309), if nothing holds that off. -/
def settleWaits (s : State) (b : Nat) : State :=
  if s.stopping b then (List.range (s.blk b).waves.length).foldl (fun s i => s.settleOne b i) s else s

/-- The points of a frontier launch for whose images room in its save area is reserved (R315). -/
def areaPending (s : State) (p id : Nat) : Nat :=
  (s.blocks.filter fun x => x.2.part == p && x.2.launch.toNat == id && x.2.primary &&
    (x.2.pre.map (·.why)) == some .savec).length

/-- A save area has room for the image of a block besides `n` that are to come (R304, R315): there is an area, and its directory
has an entry left. -/
def areaRoom (f : Frontier) (n size : Nat) : Bool :=
  f.saveBase != 0 && f.saveUsed + size + 0x20000 ≤ f.saveSize && f.saved.length + n < 8192

/-- The block is passed over (R309): its sequencer is FAULTED. -/
def passedOver (s : State) (b : Nat) : Bool := (s.seq b).st == .faulted

/-- A block with room for its image is pending (R308). -/
def setPending (s : State) (b : Nat) (x : Preempt) : State :=
  (s.onBlk b fun k => { k with ask := none, pre := some x }).settleWaits b

/-- A block and its twin, if it has one that is resident. -/
def pairOf (s : State) (b : Nat) : List Nat := b :: (s.blk b).twin.toList.filter fun t => (s.blk? t).isSome

/-- Reserves runs of chunks for some blocks (R308): all of them, or none. -/
def reserveChunks (s : State) (p : Nat) : List Nat → Option (List (Nat × Nat × Nat) × State)
  | [] => some ([], s)
  | b :: r =>
    let n := (s.imageBound b + 65535) / 65536
    match s.freeChunks p n with
    | none => none
    | some c => (reserveChunks (s.onPart p fun x => { x with chunks := x.chunks ++ [(c, n)] }) p r).map fun y =>
        ((b, c, n) :: y.1, y.2)

/-- Room for a block that has been asked to stop is reserved, if there is some (R308, R315): the block is pending, and the
twin of a primary with it, each with its own image (R309). -/
def reserveRoom (s : State) (b : Nat) : State :=
  let k := s.blk b
  match k.ask with
  | none => s
  | some (why, dl) =>
    let bs := s.pairOf b
    if k.killed || k.pre.isSome || bs.any fun b => s.passedOver b then s
    else if why = .savec then
      let size := (bs.map fun b => roundUp (s.imageBound b) 64).sum
      match ((s.part k.part).launches.find k.launch.toNat).bind (·.frontier) with
      | some f =>
        if areaRoom f (s.areaPending k.part k.launch.toNat) size then
          let s := s.onLaunch k.part k.launch.toNat fun l => { l with
            frontier := l.frontier.map fun f => { f with saveUsed := f.saveUsed + size } }
          bs.foldl (fun s b => s.setPending b { why := why, deadline := dl }) s
        else s.onBlk b fun k => { k with ask := none }
      | none => s.onBlk b fun k => { k with ask := none }
    else match s.reserveChunks k.part bs with
      | none => s
      | some (rs, s) => rs.foldl (fun s r =>
          s.setPending r.1 { why := why, deadline := dl, chunk := r.2.1, chunks := r.2.2 }) s

/-- NCLK counts of a grace window (R307): units of 256 CCLK. -/
def graceNclk (s : State) (p : Nat) : Nat := (bits (s.part p).preempt.toNat 16 16 * 1024 + 2) / 3

/-- The block, or the primary of its pair. -/
def leader (s : State) (b : Nat) : Nat := if (s.blk b).primary then b else (s.blk b).twin.getD b

/-- Pre-emption of a block is requested (R307), of a P2 pair through its primary. -/
def askStop (s : State) (b : Nat) (why : AskWhy) : State :=
  let b := s.leader b
  let k := s.blk b
  if k.handler || k.killed || (k.pre.isSome && !s.rebasing b) || (k.ask.isSome && why != .savec) then s
  else
    let dl := if why = .pool then s.nclk else s.nclk + s.graceNclk k.part
    (s.onBlk b fun k => { k with ask := some (why, dl) }).reserveRoom b

/-- Requests that have been passed over are tried again (R308): with every step, so whenever a chunk has become free. -/
def retryRoom (s : State) (p : Nat) : State :=
  s.blocks.foldl (fun s x => if x.2.part = p && x.2.ask.isSome then s.reserveRoom x.1 else s) s

/-- Gives a run of chunks back (R308). -/
def freeRunOf (s : State) (p c n : Nat) : State :=
  if n = 0 then s else (s.onPart p fun x => { x with chunks := x.chunks.erase (c, n) }).retryRoom p

/-! ### The block image -/

/-- The space lines that an image holds (R309): those of the PRE ranges when every wave stopped as PRE or ENDED, else all. -/
def savedLines (s : State) (b space : Nat) : List Nat :=
  let ws := (s.blk b).waves
  let all := s.spaceIxs b space
  if ws.all fun w => stopKind w == 0 || stopKind w == 4 then
    let rs := ws.flatMap fun w => let (r0, r1) := imageRanges w; [r0, r1]
    all.filter fun i => rs.any fun r => bits r 30 2 == space && bits r 0 10 ≤ i && i < bits r 0 10 + bits r 16 11
  else all

/-- The space section (R311): its range words and its bytes. -/
def spaceSection (s : State) (b : Nat) : Nat × List Byte :=
  let rs := (List.range 3).flatMap fun sp => (runsOf (s.savedLines b sp)).map fun r => (sp, r.1, r.2)
  let words := rs.flatMap fun r => toBytes 4 (r.1 * 2 ^ 30 + r.2.2 * 2 ^ 16 + r.2.1)
  let lines := rs.flatMap fun r => (List.range r.2.2).flatMap fun i =>
    s.spaceRead b r.1 ((r.2.1 + i) * 1024) 1024
  (rs.length, pad64 words ++ lines)

/-- The suspended copies of a block, in start order: slot and copy. -/
def suspended (s : State) (b : Nat) : List (Nat × Copy) :=
  ((s.core (s.blk b).core).copies.filter fun x => x.2.blk == b && x.2.st == .suspended).foldl (fun l x =>
    (l.filter fun y => y.2.seq < x.2.seq) ++ x :: l.filter fun y => !(y.2.seq < x.2.seq)) []

/-- The block image (R311). DESIGN CHOICE (log entry 97): the image has no field for flags that are due to a wave other than the
sequencer's (R112); they join its FLAGS at the save. -/
def blockImage (s : State) (b : Nat) : List Byte :=
  let k := s.blk b
  let mine := if k.seqr.use then s.seqWave b else none
  let ws := k.waves.zipIdx.flatMap fun w => waveImage k w.1 (if mine = some w.2 then 0 else w.1.engFl)
  let obj := objImage k
  let (nr, sp) := s.spaceSection b
  let tl := k.tiles.flatMap tileImage ++ (if k.seqr.use then
    seqImage k.seqr ((mine.map fun i => (k.waves.getD i {}).engFl).getD 0) else [])
  let cs := s.suspended b
  let cp := cs.flatMap fun x => x.2.oprec x.1 x.2.wave 0
  let o1 := 640 + ws.length
  let o2 := o1 + obj.length
  let o3 := o2 + sp.length
  let o4 := o3 + tl.length
  let size := o4 + cp.length
  let head1 := toBytes 4 k.launch.toNat ++ toBytes 2 k.pt.1 ++ toBytes 2 k.pt.2.1 ++ toBytes 2 k.pt.2.2 ++
    toBytes 1 (k.waves.length - 1) ++ toBytes 1 (k.tiles.length + 8 * b2n k.seqr.use) ++ toBytes 4 size ++ toBytes 4 k.gang ++
    toBytes 1 k.rank ++ toBytes 1 (k.baton % 16) ++ toBytes 2 cs.length ++ toBytes 6 (s.pts k.core k.part) ++ toBytes 2 nr ++
    toBytes 4 o1 ++ toBytes 4 o2 ++ toBytes 4 o3 ++ toBytes 4 o4
  let rest := padTo 204 (toBytes 12 0 ++ (List.range 16).flatMap fun i =>
      let n := k.nb.getD i {}
      toBytes 1 n.remain ++ toBytes 1 (b2n n.phase)) ++
    bitMap 128 (s.spaceIxs b 0) ++ bitMap 128 (s.spaceIxs b 1) ++ bitMap 128 (s.spaceIxs b 2)
  let tail := padTo 588 rest ++ ws ++ obj ++ sp ++ tl ++ cp
  head1 ++ toBytes 4 (crc32c (head1 ++ toBytes 4 0 ++ tail)) ++ tail

/-! ### The save -/

/-- The sequencer of a block stops for a save (R227): an EPI completes, an MMA completes a K block,
unless an operand that these read is poisoned (R272). -/
def stopSeq (s : State) (b : Nat) : State :=
  let s := match (s.seq b).epi with
    | some o => s.finishEpi b o
    | none => s
  match (s.seq b).mma with
  | none => s
  | some o => match o.mm? with
    | none => s.finishMma b o
    | some f =>
      let left := f.kb.toNat - o.kb
      let (n, s) := s.takeFree
      let m := 1 + Config.choose n % max left 1
      let now := { f with kb := BitVec.ofNat _ (o.kb + m) }
      if left ≤ m then s.finishMma b o
      else if (s.poisonIn b (now.aRanges o.da o.kb ++ now.wRanges o.db o.kb)).isSome then s.seqPoison b o.pos (some o.word)
      else s.runMma b o f m

/-- Every wave of a block has stopped for its pre-emption or has ended, and nothing holds the save (R309, R310). -/
def allStopped (s : State) (b : Nat) : Bool :=
  let k := s.blk b
  k.pre.isSome && !k.doomed && !(s.part k.part).stopped && k.seqr.st != .faulted && k.waves.all fun w => match w.mode with
    | .ended | .stopped (.preempt _) => true
    | .desched _ => s.rebasing b
    | _ => false

/-- Every wave has ended: the block ends by itself. -/
def noWaveLeft (s : State) (b : Nat) : Bool := (s.blk b).waves.all Wave.isEnded

/-- A copy of a block runs or sleeps (R310). -/
def copiesRun (s : State) (b : Nat) : Bool :=
  (s.core (s.blk b).core).copies.any fun x => x.2.blk == b && (match x.2.st with
    | .running | .batch _ => true
    | _ => false)

/-- Steps 1 and 3 of a save (R310): the sequencer stops, the copies still queued are suspended. -/
def closeBlock (s : State) (b : Nat) : State :=
  let k := s.blk b
  let s := (s.stopSeq b).onCore k.core fun c => { c with copies := c.copies.map fun x =>
    if x.2.blk = b && x.2.st == .queued then (x.1, { x.2 with st := .suspended }) else x }
  s.onBlk b fun k => { k with pre := k.pre.map fun p => { p with closed := true } }

/-- The committed stores of a block are acknowledged, and its waves have released (R310); the stores of a P2 wave that were
chained to the cut at which it stopped are committed first (R272). -/
def settleStores (s : State) (b : Nat) : State :=
  let k := s.blk b
  (List.range k.waves.length).foldl (fun s i =>
    (if ((s.wave? b i).map fun w => w.held.isEmpty).getD true then s else s.commit b i).releaseWave k.core k.part b i 4) s

/-- The waves of a block that wait for an entry of the launch pool (R295). -/
def poolWaiters (k : Block) : List (Nat × Nat × Option B32) :=
  k.waves.zipIdx.flatMap fun w => if w.1.verdict.isSome then [] else w.1.waits.filterMap fun x => match x.kind with
    | .launch _ _ _ _ => some (x.order, w.2, none)
    | .waitchPool c _ => some (x.order, w.2, some c)
    | _ => none

/-- The resources of a block that leaves its core are free (R31, R310), and launches that wait try again (R291). -/
def dropBlock (s : State) (b : Nat) : State :=
  let p := (s.blk b).part
  let s := s.unpin b fun _ _ => true
  { s with blocks := s.blocks.erase b }.retryDeals p

/-- The suspended copies of a block that is gone leave their slots. -/
def dropCopies (s : State) (b : Nat) : State :=
  s.onCore (s.blk b).core fun c => { c with copies := c.copies.filter fun y => !(y.2.st == .suspended && y.2.blk == b) }

/-- What is kept of a saved block. -/
def imgOf (s : State) (b : Nat) (pre : Preempt) (addr : Nat) : SavedImg :=
  let k := s.blk b
  { blk := b, launch := k.launch, gang := k.gang, rank := k.rank, lin := k.lin, primary := k.primary
    chunk := pre.chunk, chunks := pre.chunks, addr := addr, why := pre.why, waiters := poolWaiters k, fwd := k.fwd
    fseqs := k.waves.map fun w => w.arch.fseq
    verdicts := k.waves.zipIdx.filterMap fun w => w.1.verdict.map fun v => (w.2, v) }

/-- Ends a frontier launch whose record, directory or image cannot be written (R371): the record of the fault. -/
def frontierFault (s : State) (p id : Nat) (f : HubFault) : State :=
  let info : FaultInfo := { cls := f.cls, lvl := f.lvl, kind := .store, addr := f.va, code := f.cls.levelCode f.lvl }
  let s := s.pushRecord p (recordBytes p false false 1 { launch := BitVec.ofNat 32 id } 0 0 0 info) none
  s.onLaunch p id fun l => { l.kill with frontier := l.kill.frontier.map fun x => { x with unwritable := true } }

/-- The image of a point goes to its launch's save area, with its directory entry (R304, R315). DESIGN CHOICE (log entry 137):
that of a twin has none; it stands after its primary's. -/
def imageToArea (s : State) (p id : Nat) (pt : Nat × Nat × Nat) (primary : Bool) (img : List Byte) : State :=
  match ((s.part p).launches.find id).bind (·.frontier) with
  | none => s
  | some f =>
    let va := f.saveBase + 0x20000 + f.saveEnd
    match s.hubWrite p va img with
    | (some e, s) => s.frontierFault p id e
    | (none, s) =>
      let s := s.onLaunch p id fun l => { l with
        frontier := l.frontier.map fun f => { f with saveEnd := f.saveEnd + img.length } }
      if !primary then s
      else
        let (c, t) := ((s.part p).launches.get { queue := 0, lr := {} } id).lr.columnOf pt
        match s.hubWrite p (f.saveBase + 16 * f.saved.length) (toBytes 4 c ++ toBytes 4 t ++ toBytes 8 va) with
        | (some e, s) => s.frontierFault p id e
        | (none, s) => s.onLaunch p id fun l => { l with
            frontier := l.frontier.map fun f => { f with saved := f.saved ++ [(c, t, va)] } }

/-- The image `y` is that of the twin of the block of `x`. -/
def isTwinImg (x y : SavedImg) : Bool := y.launch == x.launch && y.gang == x.gang && y.rank == x.rank && !y.primary

/-- A pooled image of a launch whose SAVEC is under way is copied into the save area, where that has room (R315), and its twin's
after it. -/
def poolToArea (s : State) (p : Nat) (x : SavedImg) : State :=
  match (s.part p).launches.find x.launch.toNat with
  | none => s
  | some l => match l.frontier with
    | none => s
    | some f =>
      let xs := x :: (s.part p).saved.filter fun y => isTwinImg x y
      let size (x : SavedImg) : Nat := s.mem.readNat (x.addr + 12) 4
      let n := (xs.map size).sum
      if !f.saving || x.why == .savec || !x.primary || !areaRoom f (s.areaPending p x.launch.toNat) n then s
      else
        let imgs := xs.map fun x => (x, s.mem.read x.addr (size x))
        let s := s.onLaunch p x.launch.toNat fun l => { l with
          frontier := l.frontier.map fun f => { f with saveUsed := f.saveUsed + n } }
        let s := imgs.foldl (fun s y =>
          (s.cross (cpDie p) (homeDie y.1.addr)).imageToArea p x.launch.toNat (l.lr.point y.1.lin) y.1.primary y.2) s
        xs.foldl (fun s y => s.freeRunOf p y.chunk y.chunks)
          (s.onPart p fun y => { y with saved := y.saved.filter fun z => !xs.contains z })

/-- Steps 4 to 6 of a save (R310): the image is written, a release at .part, and the block leaves its core. -/
def saveBlock (s : State) (b : Nat) : State :=
  let s := s.settleStores b
  let k := s.blk b
  match k.pre with
  | none => s
  | some pre =>
    let img := s.blockImage b
    let s := s.onPart k.part fun x => { x with cpts := max x.cpts (s.pts k.core k.part) }
    let s := if pre.why = .savec then s.imageToArea k.part k.launch.toNat k.pt k.primary img
      else
        let pa := s.chunkPa k.part pre.chunk
        let x := s.imgOf b pre pa
        (s.hubMerge k.part pa pa img).onPart k.part fun y => { y with saved := y.saved ++ [x] }
    (s.dropCopies b).dropBlock b

/-! ### Restoration -/

/-- The bytes of an image in a save area, read through the tables. -/
def areaImage (s : State) (p va : Nat) : Except HubFault (List Byte) × State :=
  match s.hubRead p va 64 with
  | (.error f, s) => (.error f, s)
  | (.ok h, s) => s.hubRead p va (fieldAt h 12 4)

/-- The bytes of a saved image: from the pool, or from a save area, where a twin's follows its primary's. -/
def readImage (s : State) (p : Nat) (x : SavedImg) : Except HubFault (List Byte) × State :=
  if x.why = .savec then
    if x.primary then s.areaImage p x.addr
    else match s.areaImage p x.addr with
      | (.error f, s) => (.error f, s)
      | (.ok d, s) => s.areaImage p ((x.addr + d.length) % 2 ^ 64)
  else (.ok (s.mem.read x.addr (s.mem.readNat (x.addr + 12) 4)), s.cross (cpDie p) (homeDie x.addr))

/-- What the block of an image needs of a core (R40, R314). -/
def imgNeed (r : LaunchRec) (d : List Byte) : Need :=
  let size := 1088
  let n := bits (fieldAt d 10 1) 0 4 + 1
  let alive := ((List.range n).foldl (fun (x : Nat × Nat) _ =>
    let m := ((List.range 16).filter fun g => bitAt (fieldAt d x.2 2) g).length
    (x.1 + (if fieldAt d (x.2 + 3) 1 = 4 then 0 else 1), x.2 + size + 1024 * m)) (0, 640)).1
  { weight := r.weight, waves := alive, regs := 32 * r.w * alive
    lines := (mapBits ((d.drop 256).take 384)).length, tiles := r.tiles, matrix := r.tiles != 0, hold := reserve r.plevel * alive }

/-- The offsets of the wave images of an image (R311). -/
def waveOffsets (d : List Byte) : Nat → Nat → List Nat
  | 0, _ => []
  | n + 1, o => o :: waveOffsets d n (o + 1088 + 1024 * ((List.range 16).filter fun g => bitAt (fieldAt d o 2) g).length)

/-- Writes the saved lines of an image into a block's spaces (R314). -/
def restoreLines (b : Nat) (d : List Byte) : List (Nat × Nat) → Nat → State → State
  | [], _, s => s
  | (sp, ix) :: r, o, s => restoreLines b d r (o + 1024) (s.spaceWrite b sp (ix * 1024) ((d.drop o).take 1024))

/-- Pins the indices of a map (R164, R314). -/
def pinAll (s : State) (b space : Nat) (ixs : List Nat) : State := ixs.foldl (fun s i => s.pinOne b space i) s

/-- A suspended copy goes on with a new handle (R310, R314): it joins the batch that its record names. -/
def restartCopy (s : State) (b : Nat) (d : List Byte) : State :=
  let k := s.blk b
  let c := copyOf b k d
  let id := (s.core k.core).starts
  let slot := if (s.startsBefore k.core 0) = 0 then s.freeSlot k.core else none
  let key := slot.getD (Tab.freeKey (s.core k.core).copies 4096 64)
  (s.putCopy k.core key { c with ts := s.pts k.core k.part }).onWave b c.wave fun w =>
    let q := Wave.batch w c.cls
    let i := (c.bseq + 2 ^ 16 + q.sealed.length - q.seq % 2 ^ 16) % 2 ^ 16
    w.setBatch c.cls (if i < q.sealed.length then { q with sealed := q.sealed.modify i fun l => l ++ [id] }
      else { q with opened := q.opened ++ [id] })

/-- The barrier of the MWAIT word at which a restored sequencer stands, if it stands at one (R226, R227). -/
def mwaitAt (s : State) (p : Nat) (q : Seqr) : Option Nat :=
  match (s.peekStream p (seqAt q)).bind decodeStream with
  | some (.mwait nb) => some nb.toNat
  | _ => none

/-- Restores a block from its image on a core (R314). DEDUCED (log entry 97): flags of byte 143 of the sequencer's image are due
at the next cut where no MMA was interrupted, else when that MMA ends. DESIGN CHOICE (log entry 141): the image holds no
allocator cursor (R164), which starts again at H of the restoring launch. -/
def restoreBlock (s : State) (p id : Nat) (l : Launch) (x : SavedImg) (d : List Byte) (core size : Nat) (twin : Option Nat)
    (primary : Bool) (b : Nat) : State :=
  let r := l.lr
  let u := fieldAt d
  let n := bits (u 10 1) 0 4 + 1
  let os := waveOffsets d n 640
  let alive := (List.range n).filter fun i => u (os.getD i 0 + 3) 1 ≠ 4
  let seats := placeWaves (fun _ slot slice age => { slot := slot, slice := slice, age := age }) alive.length 0 (s.freeSlots core)
    (s.usedSlices core) s.nextAge
  let ws := (List.range n).map fun i =>
    let w := waveOf r i (d.drop (os.getD i 0)) ((alive.idxOf? i).bind (seats[·]?) |>.getD {})
    { w with
      arch := { w.arch with fseq := x.fseqs.getD i 0 }, entry := { w.entry with fseq := x.fseqs.getD i 0 }
      verdict := if primary then (x.verdicts.find? fun v => v.1 == i).map (·.2) else none }
  let o1 := u 32 4
  let o2 := u 36 4
  let o3 := u 40 4
  let o4 := u 44 4
  let nt := bits (u 11 1) 0 3
  let obj := d.drop o1
  let hasSeq := bitAt (u 11 1) 3
  let sd := (d.drop (o3 + 49216 * nt)).take 256
  let q : Seqr := if hasSeq then seqOf sd (s.mwaitAt p (seqOf sd)) else {}
  let alone := hasSeq && q.mma.isNone
  let baton := if alive.contains (bits (u 21 1) 0 4) then bits (u 21 1) 0 4 else 16
  let k : Block :=
    { part := p, launch := BitVec.ofNat 32 id, pt := (u 4 2, u 6 2, u 8 2), lin := x.lin, gang := u 16 4, gangSize := size
      rank := bits (u 20 1) 0 2, core := core, codeBase := r.code, w := r.w, det := r.det, plevel := r.plevel
      weight := r.weight, prio := l.prio, eff := max l.prio l.eff, waves := ws, baton := baton, cursor := pinStart x.lin id
      nb := r.nbars.zipIdx.map fun e =>
        { expect := e.1, remain := u (64 + 2 * e.2) 1, phase := bitAt (u (65 + 2 * e.2) 1) 0 }
      rings := r.rings.zipIdx.map fun y => ringState obj y.2 y.1, pool := r.pool
      tiles := (List.range nt).map fun i => tileOf ((d.drop (o3 + 49216 * i)).take 49216)
      seqr := if alone then { q with flags := 0 } else q
      watch := if r.hasFlex then some (r.wring, r.t, r.t2, r.wn) else none
      twin := twin, primary := primary, fwd := x.fwd, frontier := l.frontier.isSome }
  let s := s.addBlock b k (u 24 6) (0, 0, 0)
  let s := if alone then s.deliver b q.flagWave q.flags else s
  let s := ((s.pinAll b 0 (mapBits ((d.drop 256).take 128))).pinAll b 1 (mapBits ((d.drop 384).take 128))).pinAll b 2
    (mapBits ((d.drop 512).take 128))
  let nr := u 30 2
  let rs := (List.range nr).flatMap fun i =>
    let w := u (o2 + 4 * i) 4
    (List.range (bits w 16 11)).map fun j => (bits w 30 2, bits w 0 10 + j)
  let s := restoreLines b d rs (o2 + roundUp (4 * nr) 64) s
  (List.range (u 22 2)).foldl (fun s i => s.restartCopy b ((d.drop (o4 + 64 * i)).take 64)) s

/-! ### Deschedule -/

/-- The waves of a core that stand released from a BAR in blocks of a priority below `prio` (R34). -/
def idleWaves (s : State) (c prio : Nat) : List (Nat × Nat) :=
  ((s.residentWaves c).filter fun x => x.2.1.eff < prio && x.2.2.2.atPhase && x.2.1.pre.isNone && match x.2.2.2.mode with
    | .run => true
    | _ => false).map fun x => (x.1, x.2.2.1)

/-- A wave is descheduled (R34): its phase record is written, its allotment released. -/
def deschedule (s : State) (b i : Nat) : State :=
  let k := s.blk b
  match s.wave? b i, s.freeChunks k.part 1 with
  | some w, some c =>
    let img := waveImage k { w with mode := .stopped (.preempt 1) }
    let s := ((s.hubMerge k.part (s.chunkPa k.part c) (s.chunkPa k.part c) img).onPart k.part fun x => { x with chunks := x.chunks ++ [(c, 1)] }).onWave b i
      fun w => { w with mode := .desched c, arch := { w.arch with v := [] }, entry := { w.entry with v := [] } }
    if s.hasBaton b i then s.passBaton b none else s
  | _, _ => s

/-- Descheduled waves make registers free on a core for a block of a higher priority (R34). -/
def freeFor (s : State) (c : Nat) (x : Need) (prio : Nat) : State :=
  (s.idleWaves c prio).foldl (fun s w => if s.admits c x then s else s.deschedule w.1 w.2) s

/-- The images that are restored together with one (R314): those of its gang, in rank order, primaries or twins. -/
def gangImgs (s : State) (p : Nat) (x : SavedImg) (primary : Bool) : List SavedImg :=
  (List.range 4).flatMap fun r => (s.part p).saved.filter fun y =>
    y.launch == x.launch && y.gang == x.gang && y.rank == r && y.primary == primary

/-- A block of the image's gang is still on its core (R314): none may be about to be saved. -/
def gangRests (s : State) (p : Nat) (x : SavedImg) : List Block :=
  (s.blocks.filter fun y => y.2.part == p && y.2.launch == x.launch && y.2.gang == x.gang && !y.2.handler).map (·.2)

/-- The cores on which a gang of a priority is restored: one cluster, that of its blocks that were not saved, if any
(R314), if need be in room that descheduled waves make (R34). -/
def gangSeats (s : State) (p prio : Nat) (ns : List Need) (rest : List Block) (not_ : Option Nat) : Option (Nat × List Nat) :=
  s.clusterOrder.findSome? fun k =>
    if not_ == some k || !s.clusterServes k p || !rest.all (fun y => s.clusterOf y.core == k) then none
    else
      let cs := ns.foldl (fun (m : Option (List Nat)) n => match m with
        | none => none
        | some l => ((s.coresIn k).find? fun c =>
            !l.contains c && !rest.any (fun y => y.core == c) && (s.freeFor c n prio).admits c n).map fun c => l ++ [c]) (some [])
      cs.map fun l => (k, l)

/-- Reads the images of a gang. -/
def readImages (p : Nat) : List SavedImg → State → Except HubFault (List (List Byte)) × State
  | [], s => (.ok [], s)
  | x :: r, s => match s.readImage p x with
    | (.error f, s) => (.error f, s)
    | (.ok d, s) => match readImages p r s with
      | (.error f, s) => (.error f, s)
      | (.ok ds, s) => (.ok (d :: ds), s)

/-- What a restoration would do: the images with their bytes and cores, primaries and twins. -/
structure Seating where
  one : List (SavedImg × List Byte × Nat)
  two : List (SavedImg × List Byte × Nat)

/-- The image's turn has come (R316): the images of a save directory are restored in its order. -/
def imgTurn (s : State) (p : Nat) (x : SavedImg) : Bool :=
  x.why != .savec || (((s.part p).saved.find? fun y => y.launch == x.launch && y.why == .savec).map (·.lin)) == some x.lin

/-- Where a saved gang can be restored (R314): no point of a faulted launch is (R306). -/
def seating (s : State) (p : Nat) (x : SavedImg) (l : Launch) : Option Seating :=
  let is := s.gangImgs p x true
  let ts := if l.lr.plevel ≠ 2 then [] else s.gangImgs p x false
  let rest := s.gangRests p x
  if (s.part p).stopped || s.rebaseDue p || !imgFree x || !s.imgTurn p x || (l.frontier.map (·.faulted)).getD false || rest.any (fun y => y.pre.isSome || y.ask.isSome) then none
  else match (readImages p is s).1, (readImages p ts s).1 with
    | .ok ds, .ok es =>
      match s.gangSeats p l.eff (ds.map (imgNeed l.lr)) (rest.filter (·.primary)) none with
      | none => none
      | some (k, cs) =>
        if ts.isEmpty then some ⟨is.zip (ds.zip cs), []⟩
        else (s.gangSeats p l.eff (es.map (imgNeed l.lr)) (rest.filter fun y => !y.primary) (some k)).map fun y =>
          ⟨is.zip (ds.zip cs), ts.zip (es.zip y.2)⟩
    | _, _ => none

/-- Restores a gang (R314): its chunks are free again. -/
def restoreGang (s : State) (p id : Nat) (l : Launch) (x : SavedImg) (t : Seating) : State :=
  let size := min l.lr.gang (l.lr.points - x.gang * l.lr.gang)
  let n := t.one.length
  let two := !t.two.isEmpty
  let s := (t.one ++ t.two).foldl (fun s y => s.freeFor y.2.2 (imgNeed l.lr y.2.1) l.eff) s
  let b := s.nextBlk
  let s := t.one.zipIdx.foldl (fun s y =>
    s.restoreBlock p id l y.1.1 y.1.2.1 y.1.2.2 size (if two then some (b + n + y.2) else none) true (b + y.2)) s
  let s := t.two.zipIdx.foldl (fun s y =>
    s.restoreBlock p id l y.1.1 y.1.2.1 y.1.2.2 size (some (b + y.2)) false (b + n + y.2)) s
  let gone := ((t.one ++ t.two).map (·.1)).eraseDups
  let s := s.onPart p fun y => { y with saved := y.saved.filter fun z => !gone.contains z }
  gone.foldl (fun s z => s.freeRunOf p z.chunk z.chunks) s

/-- Drops the saved blocks of a launch (R306). -/
def dropSaved (s : State) (p id : Nat) : State :=
  let gone := (s.part p).saved.filter fun z => z.launch.toNat == id
  let s := s.onPart p fun y => { y with saved := y.saved.filter fun z => z.launch.toNat != id }
  gone.foldl (fun s z => s.freeRunOf p z.chunk z.chunks) s

/-! ### Reschedule -/

/-- The descheduled waves of a core, in priority and then age order (R34). -/
def deschedOf (s : State) (c : Nat) : List (Nat × Nat × Nat × Block × Wave) :=
  (s.blocks.filter fun x => x.2.core == c && !x.2.handler && x.2.pre.isNone).flatMap fun x =>
    x.2.waves.zipIdx.filterMap fun w => match w.1.mode with
      | .desched n => some (x.1, w.2, n, x.2, w.1)
      | _ => none

/-- The descheduled wave of a core that gets an allotment next, when one is free (R34). -/
def nextDesched (s : State) (c : Nat) : Option (Nat × Nat × Nat × Block × Wave) :=
  let best := (s.deschedOf c).foldl (fun (m : Option (Nat × Nat × Nat × Block × Wave)) x => match m with
    | none => some x
    | some y =>
      if y.2.2.2.1.eff < x.2.2.2.1.eff ∨ (x.2.2.2.1.eff = y.2.2.2.1.eff ∧ x.2.2.2.2.age < y.2.2.2.2.age) then some x
      else some y) none
  best.bind fun x =>
    let k := x.2.2.2.1
    if s.usedRegs c + 32 * k.w ≤ 131072 ∧ s.usedHold c + reserve k.plevel ≤ 262144 then some x else none

end State

/-- A write of PREEMPT (R307): GO asks every resident block of the launch to stop. -/
def State.writePreempt (s : State) (part : Nat) (v : B64) : State :=
  let keep : B64 := v &&& 0xFFFFFFFFFFFF0000
  let s := s.onPart part fun x => { x with preempt := keep }
  if !bitAt v.toNat 0 then s
  else
    let bs := (s.blocks.filter fun x =>
      x.2.part == part && !x.2.handler && x.2.launch.toNat == bits v.toNat 32 32).map (·.1)
    bs.foldl (fun s b => s.askStop b .launch) (s.onPart part fun x => { x with busy := bs })

/-- PREEMPT_GO (R307). -/
def execPreemptGo (part : Nat) (v : B64) (s : State) : Out := s.byHost fun s => s.writePreempt part v

/-- GRACE_EXPIRY (R309): the waves of a pending block that have not stopped roll back and stop as FORCED. -/
def execGraceExpiry (blk : Nat) (s : State) : Out :=
  let k := s.blk blk
  match k.pre with
  | none => .next s
  | some p =>
    if s.nclk < p.deadline || s.stopHeld blk then .next s
    else
      let force (s : State) (i : Nat) : State :=
        match s.wave? blk i with
        | some w =>
          if Wave.isLoose w && (match w.mode with
            | .desched _ => false
            | _ => true) then
            ((s.leaveGatesOf blk i).rollback blk i).onWave blk i fun w =>
              { State.stopAsWait w with mode := .stopped (.preempt 3), gear := .fast, first := none }
          else s
        | none => s
      .next ((List.range k.waves.length).foldl force s)

/-- BLOCK_SAVE (R310): first the sequencer stops and queued copies are suspended; once the running copies are done the image
is written and the block leaves its core, a P2 block together with its twin; one that is stopped for a rebase stays (R251). -/
def execBlockSave (blk : Nat) (s : State) : Out :=
  let bs := s.pairOf blk
  if !bs.all fun b => s.allStopped b then .next s
  else if !bs.all fun b => (((s.blk b).pre.map (·.closed)).getD false) then
    .next (bs.foldl (fun s b => s.closeBlock b) s)
  else if bs.any fun b => s.copiesRun b || s.rebasing b then .next s
  else
    let p := (s.blk blk).part
    let s := bs.foldl (fun s b => s.saveBlock b) s
    .next (((s.part p).saved.filter fun x => bs.contains x.blk && x.why != .savec).foldl (fun s x => s.poolToArea p x) s)

/-- BLOCK_RESTORE (R314): the gang of a saved image is restored where it is admitted. -/
def execBlockRestore (part image : Nat) (s : State) : Out :=
  match (s.part part).saved[image]? with
  | none => .next s
  | some x => match (s.part part).launches.find x.launch.toNat with
    | none => .next (s.dropSaved part x.launch.toNat)
    | some l => match s.seating part x l with
      | some t => .next (s.restoreGang part x.launch.toNat l x t)
      | none => .next s

/-- WAVE_RESCHEDULE (R34): a descheduled wave gets an allotment again and resumes after its BAR, or stands stopped where
its block has been stopped meanwhile (R159). -/
def execWaveReschedule (blk wave : Nat) (s : State) : Out :=
  let c := (s.blk blk).core
  match s.nextDesched c with
  | none => .next s
  | some (b, i, n, k, w) =>
    if b ≠ blk ∨ i ≠ wave then .next s
    else
      let d := s.mem.read (s.chunkPa k.part n) (1088 + 128 * k.w)
      let a := { archOf d with fseq := w.arch.fseq }
      .next (((s.cross (cpDie k.part) (homeDie (s.chunkPa k.part n))).onWave b i fun w => { w with
        mode := (w.stopAs.map WaveMode.stopped).getD .run, stopAs := none, arch := a, entry := a }).freeRunOf k.part n 1)

end Sys2Proof.Machine
end

