-- ==== Sys2Proof/Machine/Frontier.lean ====
section
/-!
DEFINITION. The frontier unit (R300 to R306, R315, R316, R371): columns and the height map, readiness, completions, the
checks of a frontier record, SAVEC, the write-back.
-/

namespace Sys2Proof.Machine

namespace LaunchRec

/-- E_s (R301). -/
def sweepExt (r : LaunchRec) : Nat :=
  match r.sweep with
  | 0 => r.ext.1
  | 1 => r.ext.2.1
  | _ => r.ext.2.2

/-- The extents of the two dimensions that are not swept, the lower first (R301). -/
def colExt (r : LaunchRec) : Nat × Nat :=
  match r.sweep with
  | 0 => (r.ext.2.1, r.ext.2.2)
  | 1 => (r.ext.1, r.ext.2.2)
  | _ => (r.ext.1, r.ext.2.1)

/-- NCOL (R301). -/
def ncol (r : LaunchRec) : Nat := r.colExt.1 * r.colExt.2

/-- The linear index of a point (R36, R301). -/
def linOf (r : LaunchRec) (c t : Nat) : Nat :=
  let (ea, _) := r.colExt
  let a := c % ea
  let b := c / ea
  let (x, y, z) := match r.sweep with
    | 0 => (t, a, b)
    | 1 => (a, t, b)
    | _ => (a, b, t)
  x + r.ext.1 * (y + r.ext.2.1 * z)

/-- A dependence vector as its sweep component and its two column components (R300). -/
def depParts (r : LaunchRec) (d : Int × Int × Int) : Int × Int × Int :=
  match r.sweep with
  | 0 => (d.1, d.2.1, d.2.2)
  | 1 => (d.2.1, d.1, d.2.2)
  | _ => (d.2.2, d.1, d.2.1)

/-- The dependence vectors in force. -/
def vectors (r : LaunchRec) : List (Int × Int × Int) := (r.deps.take r.ndep).map r.depParts

/-- The conditions of R300. -/
def frontierOk (r : LaunchRec) : Bool :=
  (r.vectors.all fun d => !(d.1 < 0) && !(d.1 == 0 && (d.2.1 < 0 || (d.2.1 == 0 && d.2.2 < 0))) && d != (0, 0, 0)) &&
    ((r.deps.drop r.ndep).all fun d => d == (0, 0, 0)) && r.gang == 1 && r.ncol ≤ 65536

/-- A column moved by a vector's column components, where it stays inside (R302). -/
def moveCol (r : LaunchRec) (c : Nat) (da db : Int) : Option Nat :=
  let (ea, eb) := r.colExt
  let a := ((c % ea : Nat) : Int) + da
  let b := ((c / ea : Nat) : Int) + db
  if 0 ≤ a ∧ a < ea ∧ 0 ≤ b ∧ b < eb then some (a.toNat + ea * b.toNat) else none

end LaunchRec

namespace Frontier

/-- H of a column (R301). -/
def height (f : Frontier) (c : Nat) : Nat := bits (f.h.get 0 c) 0 24
/-- IF of a column (R301). -/
def inFlight (f : Frontier) (c : Nat) : Bool := bitAt (f.h.get 0 c) 31
/-- Writes a column's word. -/
def setCol (f : Frontier) (c n : Nat) (fl : Bool) : Frontier := { f with h := f.h.set 0 c (n + 2 ^ 31 * b2n fl) }

/-- READY (R302). -/
def isReady (r : LaunchRec) (f : Frontier) (c t : Nat) : Bool :=
  decide (t < r.sweepExt) && f.height c == t && !f.inFlight c &&
    r.vectors.all fun d =>
      match r.moveCol c (-d.2.1) (-d.2.2) with
      | none => true
      | some c2 => decide ((t : Int) - d.1 < 0) || decide ((t : Int) - d.1 < f.height c2)

/-- A point joins the ready queue in its place (R302). -/
def queuePoint : List Nat → Nat → List Nat
  | [], i => [i]
  | j :: r, i => if i < j then i :: j :: r else j :: queuePoint r i

/-- Tests a point, and queues it when it is ready (R302). -/
def test (r : LaunchRec) (f : Frontier) (c t : Nat) : Frontier :=
  if f.stopped || !isReady r f c t then f
  else { f.setCol c t true with ready := queuePoint f.ready (r.linOf c t) }

/-- Tests every column (R302). -/
def testAll (r : LaunchRec) (f : Frontier) : Frontier := (List.range r.ncol).foldl (fun f c => test r f c (f.height c)) f

/-- A point completes (R303). -/
def complete (r : LaunchRec) (f : Frontier) (c t pts : Nat) : Frontier :=
  let f := { f.setCol c (f.height c + 1) false with ft := max f.ft pts }
  r.vectors.foldl (fun f d =>
    match r.moveCol c d.2.1 d.2.2 with
    | some c2 => if 0 ≤ (t : Int) + d.1 then test r f c2 ((t : Int) + d.1).toNat else f
    | none => f) (test r f c (t + 1))

/-- Firing stops (R306, R315): queued points leave the queue and lose their IF. -/
def stopFiring (r : LaunchRec) (f : Frontier) : Frontier :=
  let f := { f with stopped := true }
  { f.ready.foldl (fun f i =>
      let (c, t) := r.columnOf (r.point i)
      f.setCol c t false) f with ready := [] }

/-- Every column is complete (R303). -/
def allDone (r : LaunchRec) (f : Frontier) : Bool := (List.range r.ncol).all fun c => f.height c == r.sweepExt

end Frontier

namespace State

/-- Changes a frontier launch's state. -/
def onFrontier (s : State) (p id : Nat) (g : LaunchRec → Frontier → Frontier) : State :=
  s.onLaunch p id fun l => { l with frontier := l.frontier.map (g l.lr) }

/-- The IFs of the saved points of a killed launch are cleared (R306). -/
def clearSaved (s : State) (p id : Nat) : State :=
  let ls := ((s.part p).saved.filter fun x => x.launch.toNat == id).map (·.lin)
  (s.onFrontier p id fun r f =>
    ls.foldl (fun f i => let (c, t) := r.columnOf (r.point i); f.setCol c t false) f).dropSaved p id

/-- A block of a frontier launch has ended (R303), or has been killed (R306). -/
def pointDone (s : State) (p id lin pts : Nat) (killed : Bool) : State :=
  if killed then
    (s.clearSaved p id).onFrontier p id fun r f =>
      let (c, t) := r.columnOf (r.point lin)
      let f := (f.stopFiring r).setCol c t false
      { f with faulted := true }
  else s.onFrontier p id fun r f => let (c, t) := r.columnOf (r.point lin); f.complete r c t pts

/-! ### The frontier record -/

/-- The words of a height map in bytes. -/
def mapWords (d : List Byte) (n : Nat) : List Nat := (List.range n).map fun i => fieldAt d (4 * i) 4

/-- The entries of a save directory in bytes (R304). -/
def dirEntries (d : List Byte) (n : Nat) : List (Nat × Nat × Nat) :=
  (List.range n).map fun i => (fieldAt d (16 * i) 4, fieldAt d (16 * i + 4) 4, fieldAt d (16 * i + 8) 8)

/-- The header agrees with the launch record (R304, R305). -/
def headOk (r : LaunchRec) (depBytes : Nat) (h : List Byte) : Bool :=
  let u := fieldAt h
  u 0 4 == r.ext.1 && u 4 4 == r.ext.2.1 && u 8 4 == r.ext.2.2 && u 12 1 == r.sweep + 4 * r.ndep && (u 13 1 == 0 || u 13 1 == 2) &&
    u 14 2 == 0 && u 16 6 == depBytes && u 22 2 == 0 && u 24 4 == r.ncol && u 48 16 == 0

/-- The map agrees with the header (R305). -/
def mapOk (r : LaunchRec) (f : FrontRec) : Bool :=
  let st := fieldAt f.head 13 1
  let n := fieldAt f.head 28 4
  (f.map.all fun w => bits w 24 7 == 0 && bits w 0 24 ≤ r.sweepExt) &&
  (if st = 0 then n == 0 && f.map.all (fun w => !bitAt w 31)
   else n ≤ 8192 && f.dir.all (fun e => e.1 < r.ncol && bits (f.map.getD e.1 0) 0 24 == e.2.1 && bitAt (f.map.getD e.1 0) 31) &&
     f.map.zipIdx.all fun w => !bitAt w.1 31 || (f.dir.filter fun e => e.1 == w.2).length == 1)

/-- CHECK of a block image (R311). -/
def imageOk (d : List Byte) : Bool :=
  fieldAt d 12 4 == d.length && d.length % 64 == 0 && 640 ≤ d.length &&
    fieldAt d 48 4 == crc32c (d.take 48 ++ toBytes 4 0 ++ d.drop 52)

/-- Reads and checks a block image (R305, R311): its size, or the cause that refuses the launch. -/
def checkImage (s : State) (p va : Nat) : Except CmdCause Nat × State :=
  match s.hubRead p va 64 with
  | (.error _, s) => (.error .fetch, s)
  | (.ok h, s) =>
    let n := fieldAt h 12 4
    if n % 64 ≠ 0 ∨ n < 640 ∨ 2 ^ 24 < n then (.error .record, s)
    else match s.hubRead p va n with
      | (.error _, s) => (.error .fetch, s)
      | (.ok d, s) => if imageOk d then (.ok n, s) else (.error .record, s)

/-- Reads and checks the images of a directory (R305, R311): under P2 each with its twin's after it (R309). -/
def checkImages (p : Nat) (two : Bool) : List (Nat × Nat × Nat) → State → Option CmdCause × State
  | [], s => (none, s)
  | e :: r, s => match s.checkImage p e.2.2 with
    | (.error c, s) => (some c, s)
    | (.ok n, s) =>
      if !two then checkImages p two r s
      else match s.checkImage p ((e.2.2 + n) % 2 ^ 64) with
        | (.error c, s) => (some c, s)
        | (.ok _, s) => checkImages p two r s

/-- Reads and checks a frontier record (R305). -/
def readFrontier (s : State) (p va : Nat) (r : LaunchRec) (depBytes : Nat) : Except CmdCause FrontRec × State :=
  match s.hubRead p va 64 with
  | (.error _, s) => (.error .fetch, s)
  | (.ok h, s) =>
    if !headOk r depBytes h then (.error .record, s)
    else match s.hubRead p ((va + 64) % 2 ^ 64) (4 * r.ncol) with
      | (.error _, s) => (.error .fetch, s)
      | (.ok m, s) =>
        let n := fieldAt h 28 4
        if 8192 < n then (.error .record, s)
        else match if n = 0 ∨ fieldAt h 13 1 = 0 then (Except.ok [], s) else s.hubRead p (fieldAt h 32 8) (16 * n) with
          | (.error _, s) => (.error .fetch, s)
          | (.ok d, s) =>
            let f : FrontRec := ⟨h, mapWords m r.ncol, dirEntries d n⟩
            if !mapOk r f then (.error .record, s)
            else match checkImages p (r.plevel == 2) f.dir s with
              | (some c, s) => (.error c, s)
              | (none, s) => (.ok f, s)

/-- Frontier launches of a partition that are active (R305). -/
def activeFrontiers (s : State) (p : Nat) : Nat := ((s.part p).launches.filter fun l => l.2.frontier.isSome).length

/-- The frontier unit takes up a launch (R305, R316): STATE := 1, the saved points to restore, then every column tested. -/
def enterFrontier (s : State) (p q : Nat) (r : LaunchRec) (pa : Option Nat) (va : Nat) (f : FrontRec) : State :=
  let u := fieldAt f.head
  let h := f.map.zipIdx.foldl (fun t w => Tab.set 0 t w.2 w.1) ([] : Tab Nat)
  let fr : Frontier := { va := va, h := h, saveBase := u 32 8, saveSize := u 40 8, head := f.head }
  let (id, s) := s.enterLaunch p q r pa (s.part p).cpts false (some (fr.testAll r))
  let s := s.onPart p fun x => { x with saved := x.saved ++ f.dir.flatMap fun e =>
    let lin := r.linOf e.1 e.2.1
    let one : SavedImg :=
      { blk := noBlock, launch := BitVec.ofNat 32 id, gang := lin, rank := 0, lin := lin, addr := e.2.2, why := .savec }
    if r.plevel = 2 then [one, { one with primary := false }] else [one] }
  match s.hubWrite p ((va + 13) % 2 ^ 64) [1] with
  | (some e, s) => s.frontierFault p id e
  | (none, s) => s

/-- The record as it is written back (R303, R306, R315): header fields and the map. -/
def frontierBytes (r : LaunchRec) (f : Frontier) (state : Nat) (h : List Byte) : List Byte :=
  h.take 13 ++ toBytes 1 state ++ (h.drop 14).take 14 ++ toBytes 4 f.saved.length ++ h.drop 32 ++
    (List.range r.ncol).flatMap fun c => toBytes 4 (f.h.get 0 c)

/-- Writes a frontier record back (R303, R305, R306, R315, R371): the state that the unit has held, whatever software has stored
since. -/
def writeFrontier (s : State) (p id : Nat) (l : Launch) : State :=
  match l.frontier with
  | none => s
  | some f =>
    let state := if f.faulted then 4 else if f.saving then 2 else 3
    match s.hubWrite p f.va (frontierBytes l.lr f state f.head) with
    | (none, s) => s
    | (some e, s) => (if f.unwritable then s else s.frontierFault p id e).hubWrite p (f.va + 13) [4] |>.2

/-! ### SAVEC -/

/-- The images of points that have not been restored since FLAUNCH go to the front of the save area (R315), under P2 each with
its twin's after it. -/
def keepUnrestored (s : State) (p id : Nat) : State :=
  let none_ := (((s.part p).launches.find id).bind (·.frontier)).all fun f => f.saveBase == 0
  let xs := if none_ then [] else (s.part p).saved.filter fun x => x.launch.toNat == id && x.why == .savec
  match (readImages p xs s).1 with
  | .error e => s.frontierFault p id e
  | .ok ds =>
    let s := s.onPart p fun y => { y with saved := y.saved.filter fun x => !xs.contains x }
    (xs.zip ds).foldl (fun s x =>
      let s := s.onFrontier p id fun _ f => { f with saveUsed := f.saveUsed + x.2.length }
      let r := ((s.part p).launches.get { queue := 0, lr := {} } id).lr
      s.imageToArea p id (r.point x.1.lin) x.1.primary x.2) s

/-- SAVEC of an active frontier launch (R315). -/
def startSave (s : State) (p id : Nat) : State :=
  let s := s.onFrontier p id fun r f => { f.stopFiring r with saving := true }
  let s := s.keepUnrestored p id
  let bs := (s.blocks.filter fun x => x.2.part == p && x.2.launch.toNat == id && !x.2.handler).map (·.1)
  let s := bs.foldl (fun s b => s.askStop b .savec) s
  ((s.part p).saved.filter fun x => x.launch.toNat == id).foldl (fun s x => s.poolToArea p x) s

/-! ### Kills -/

/-- A wave that has stopped for a pre-emption goes on where it stands, which is where its image would have resumed it (R306,
R314). -/
def unstop (w : Wave) : Wave :=
  match w.mode with
  | .stopped (.preempt _) => { w with mode := .run }
  | _ => w

/-- A block that is pending, or has been stopped for a rebase, goes on: its waves, its queued copies and its sequencer,
and the room reserved for it is free (R251, R306). -/
def goOn (s : State) (b : Nat) : State :=
  let k := s.blk b
  match k.pre with
  | none => s
  | some x =>
    let s := s.onWaves b fun _ => unstop
    let s := s.onCore k.core fun c => { c with copies := c.copies.map fun x =>
      if x.2.blk = b && x.2.st == .suspended then (x.1, { x.2 with st := .queued }) else x }
    let s := s.onBlk b fun k => { k with pre := none }
    if x.why = .savec then s else s.freeRunOf k.part x.chunk x.chunks

/-- A block's pre-emption, asked for or pending, is cancelled (R306). -/
def cancelStop (s : State) (b : Nat) : State := (s.onBlk b fun k => { k with ask := none }).goOn b

/-- What follows at once when a block of a frontier launch has been killed, or a write of its unit has faulted (R306, R371): its
queue and its saved points are dropped, and its resident points, whose pre-emption ends, go on to complete. -/
def endFaulted (s : State) (p id : Nat) : State :=
  match ((s.part p).launches.find id).bind (·.frontier) with
  | some f =>
    if !f.faulted then s
    else
      let s := (s.clearSaved p id).onFrontier p id fun r f => f.stopFiring r
      (s.blocks.filter fun x => x.2.part == p && x.2.launch.toNat == id && !x.2.handler && !x.2.killed).foldl
        (fun s x => s.cancelStop x.1) s
  | none => s

/-- The faulted frontier launches of a partition (R306, R371), with every step. -/
def endAllFaulted (s : State) (p : Nat) : State := (s.part p).launches.foldl (fun s l => s.endFaulted p l.1) s

end State

end Sys2Proof.Machine
end

