-- ==== Sys2Proof/Machine/Queue.lean ====
section
/-!
DEFINITION. Queues and the command processors (R283 to R287): places in the queue and in indirect buffers, fetches ahead,
command faults, the command records.
-/

namespace Sys2Proof.Machine

/-- The size of a queue in bytes (R283). -/
def Queue.size (q : Queue) : Nat := 4096 * 2 ^ (if q.sz ≤ 8 then q.sz else 0)

/-- The VA of a byte `o` bytes on from the next record (R283, R285). -/
def Queue.va (q : Queue) (o : Nat) : Nat :=
  match q.frames with
  | f :: _ => (f.va + f.pos + o) % 2 ^ 64
  | [] => (bits q.base.toNat 12 52 * 2 ^ 12 + (q.head.toNat + o) % q.size) % 2 ^ 64

/-- Bytes left before the end of the buffer or the queue's TAIL (R283, R286). -/
def Queue.left (q : Queue) : Nat :=
  match q.frames with
  | f :: _ => f.len - f.pos
  | [] => (q.tail - q.head).toNat

/-- Sets the number of records to skip (R285): those that come next, in the buffer and then in its caller. -/
def Queue.setSkip (q : Queue) (n : Nat) : Queue := { q with skip := n }

/-- Starts a LOOPC (R285): `n` passes of the next `k` records. -/
def Queue.setLoop (q : Queue) (k n : Nat) : Queue :=
  { q with loop := some ⟨q.frames, q.head, q.frames.length, k, k, n⟩ }

/-- A record `d` buffers deep is done, after which the queue stands at `fs` and `head` (R285): the place, and the running LOOPC,
of which the record has been one unless it stands in a buffer that the body calls. -/
def countLoop (d : Nat) (fs : List CmdFrame) (head : B32) (l : Option CmdLoop) : (List CmdFrame × B32) × Option CmdLoop :=
  match l with
  | none => ((fs, head), none)
  | some x =>
    if x.depth < d then ((fs, head), l)
    else if 1 < x.left then ((fs, head), some { x with left := x.left - 1, depth := d })
    else if 1 < x.passes then
      ((x.frames, x.head), some { x with left := x.k, passes := x.passes - 1, depth := x.frames.length })
    else ((fs, head), none)

/-- The place after a record of `n` bytes (R285): a buffer that has ended returns to the record after its IBCALL. `fuel` is one
more than the buffers entered. -/
def leavePlace (head : B32) : Nat → List CmdFrame → Nat → Option CmdLoop → (List CmdFrame × B32) × Option CmdLoop
  | 0, fs, _, l => ((fs, head), l)
  | _, [], n, l => countLoop 0 [] (head + BitVec.ofNat 32 n) l
  | fuel + 1, f :: r, n, l =>
    let fs := { f with pos := f.pos + n } :: r
    let (p, l2) := countLoop fs.length fs head l
    if p.1 == fs && f.len ≤ f.pos + n then leavePlace head fuel r 24 l2 else (p, l2)

/-- The queue after a record of `n` bytes. -/
def Queue.leave (q : Queue) (n : Nat) : Queue :=
  let (p, l) := leavePlace q.head (q.frames.length + 1) q.frames n q.loop
  { q with frames := p.1, head := p.2, loop := l, wait := none, pend := none }

/-- The bytes that may be fetched of the 16-byte part of the word `o` bytes on (R283): its first word alone where that is the
last one published. -/
def Queue.partBytes (q : Queue) (o : Nat) : Nat := if q.va o % 16 = 0 && q.left ≤ o + 8 then 8 else 16

/-- The parts that may be fetched ahead from the present place, with the bytes of each (R283, R287): none at or beyond TAIL. -/
def Queue.window (q : Queue) : List (Nat × Nat) :=
  ((List.range (min 512 q.left / 8)).map fun i => (q.va (8 * i) / 16, q.partBytes (8 * i))).eraseDups

namespace State

/-- A queue. -/
def queue (s : State) (p q : Nat) : Queue := (s.part p).queues.get {} q
/-- Changes a queue. -/
def onQueue (s : State) (p q : Nat) (f : Queue → Queue) : State :=
  s.onPart p fun x => { x with queues := x.queues.insert q (f (x.queues.get {} q)) }

/-- Bytes read ahead, without a fault (R283, R287): a relaxed read, whose line the next acquire takes in (R254). -/
def readAhead (s : State) (p va n : Nat) : Option (List Byte) × State :=
  match s.walk p va with
  | .ok (e, lvl, _) => match leafCheck p Access.load e lvl with
    | none =>
      let pa := (leafTrans va e (lvl == 2) 0).pa
      (some (s.mem.read pa n), s.hubSee p pa)
    | some _ => (none, s)
  | .error _ => (none, s)

/-- The parts ahead of the present place are fetched (R287): those fetched before stand. -/
def fetchAhead (s : State) (p q : Nat) : State :=
  let x := s.queue p q
  let outer : List Nat := match x.frames with
    | _ :: r => r.flatMap (fun f => (List.range 33).map fun i => (f.va + f.pos) / 16 + i) ++
        ({ x with frames := [] } : Queue).window.map (·.1)
    | [] => []
  let ws := x.window
  let old := x.ahead.filter fun y => ws.any (fun w => w.1 == y.1) || outer.contains y.1
  let short (w : Nat × Nat) : Bool := ((Tab.find old w.1).map (·.length)).getD 0 < w.2
  let (new, s) := ws.foldl (fun (t : Tab (List Byte) × State) w =>
    if !short w then t
    else match t.2.readAhead p (16 * w.1) w.2 with
      | (some d, s) => (t.1.insert w.1 (let e := t.1.get [] w.1; e ++ d.drop e.length), s)
      | (none, s) => (t.1, s)) (old, s)
  s.onQueue p q fun y => { y with
    ahead := new, fixed := y.fixed.filter fun k => (Tab.find old k).isSome && !ws.any fun w => w.1 == k && short w }

/-- Reads a 16-byte part, of which `n` bytes are published, for a command processor (R287): one fetched ahead is seen as it was
or as it is, whole; once a word of it has been read it is seen so again. -/
def readPart (s : State) (p q k n : Nat) : Except HubFault (List Byte) × State :=
  let x := s.queue p q
  let keep (d : List Byte) (s : State) : State :=
    s.onQueue p q fun y => { y with ahead := y.ahead.insert k d, fixed := k :: y.fixed.filter (· != k) }
  let fresh (e : List Byte) (s : State) : Except HubFault (List Byte) × State :=
    match s.hubRead p (16 * k) n with
    | (.error f, s) => (.error f, s)
    | (.ok d, s) => let d := e ++ d.drop e.length; (.ok d, keep d s)
  match x.ahead.find k with
  | none => fresh [] s
  | some d =>
    if x.fixed.contains k then (if n ≤ d.length then (.ok d, s) else fresh d s)
    else
      let (c, s) := s.takeFree
      if !Config.fetchedOld c then fresh [] s
      else if n ≤ d.length then (.ok d, keep d s)
      else fresh d s

/-- Fetches `n` words from the one `o` bytes on (R283). -/
def fetchWords (p q : Nat) : Nat → Nat → State → Except HubFault (List B64) × State
  | 0, _, s => (.ok [], s)
  | n + 1, o, s =>
    let va := (s.queue p q).va o
    match s.readPart p q (va / 16) ((s.queue p q).partBytes o) with
    | (.error f, s) => (.error f, s)
    | (.ok d, s) => match fetchWords p q n (o + 8) s with
      | (.error f, s) => (.error f, s)
      | (.ok r, s) => (.ok (BitVec.ofNat 64 (fieldAt d (va % 16) 8) :: r), s)

/-- A command fault (R286): the queue stops at the record. -/
def cmdStop (s : State) (p q op : Nat) (c : CmdCause) : State :=
  (s.onQueue p q fun x =>
    { x with
      fault := true, frames := [], skip := 0, loop := none, wait := none, pend := none, ahead := [], fixed := []
      qfault := BitVec.ofNat 64 (x.head.toNat * 2 ^ 32 + op * 2 ^ 8 + c.code) }).interrupt p 1

/-- The command fault of the record that is being executed. -/
def cmdFault (s : State) (op : Nat) (c : CmdCause) : State := s.cmdStop s.cq.1 s.cq.2 op c

/-- The record that is being executed is done: `n` words. -/
def cmdDone (s : State) (n : Nat) : State :=
  (s.onQueue s.cq.1 s.cq.2 fun x => x.leave (8 * n)).fetchAhead s.cq.1 s.cq.2

/-- The record that is being executed waits. -/
def cmdWait (s : State) (w : QWait) (i : Instr) : State :=
  s.onQueue s.cq.1 s.cq.2 fun x => { x with wait := some w, pend := some i }

/-- Every launch of a queue up to the n-th of the partition has completed (R285, R287). -/
def drained (s : State) (p q upTo : Nat) : Bool :=
  (s.part p).launches.all fun l => l.2.queue != q || upTo < l.2.seq

/-- The launches that the record that is being executed waits for under AFTER or DRAIN (R285, R287): those accepted before it
came up. -/
def drainBound (s : State) : Nat :=
  match (s.queue s.cq.1 s.cq.2).wait with
  | some (.drained n) => n
  | _ => (s.part s.cq.1).count.toNat

/-- What a queue waits for is there (R285, R287, R305, R315). -/
def waitOver (s : State) (p q : Nat) : QWait → Bool
  | .event pa _ t => t.toNat ≤ s.eventCount pa
  | .drained n => s.drained p q n
  | .save id => match (s.part p).launches.find id with
    | none => true
    | some l => !((l.frontier.map (·.saving)).getD false) && !s.frozen p id
  | .frontierRoom _ _ _ _ => s.activeFrontiers p < 16

/-- A command processor may execute a record of a queue (R275, R283, R286). -/
def commandReady (s : State) (p q : Nat) : Bool :=
  let x := s.queue p q
  x.run && !x.fault && !(s.part p).stopped && (match x.wait with
    | some (.event _ _ _) => false
    | some w => s.waitOver p q w
    | none => x.left != 0)

/-- The operation code of a header. -/
def opOf (h : B64) : Nat := bits h.toNat 0 8

/-- Takes the next record of a queue (R283, R285, R286): the instruction to execute; none where it is skipped or faults. -/
def openCommand (s : State) (p q : Nat) : Option Instr × State :=
  if !s.commandReady p q then (none, s)
  else
    let s := { s with cq := (p, q) }
    match (s.queue p q).pend with
    | some i => (some i, s)
    | none => match fetchWords p q 1 0 s with
      | (.error _, s) => (none, s.cmdStop p q 0 .fetch)
      | (.ok hs, s) =>
        let h := hs.headD 0
        let len := bits h.toNat 16 16
        let x := s.queue p q
        let fits := len != 0 && 8 * len ≤ x.left
        if 0 < x.skip then
          if fits then (none, (s.onQueue p q fun x => x.setSkip (x.skip - 1)).cmdDone len)
          else (none, s.cmdStop p q (opOf h) .length)
        else if !fits then
          (none, s.cmdStop p q (opOf h) (match decodeCommand h [] with
            | .error .opcode => .opcode
            | _ => .length))
        else match if opOf h = 0 then (.ok (List.replicate (len - 1) 0), s) else fetchWords p q (len - 1) 8 s with
          | (.error _, s) => (none, s.cmdStop p q (opOf h) .fetch)
          | (.ok ws, s) => match decodeCommand h ws with
            | .ok i => (some i, s)
            | .error c => (none, s.cmdStop p q (opOf h) c)

/-- The bytes of payload words. -/
def wordBytes (ws : List B64) : List Byte := ws.flatMap fun w => toBytes 8 w.toNat

/-- The bytes of the launch record that a LAUNCH or FLAUNCH names (R285, R288), read after an acquire (R254). -/
def launchBytes (s : State) (ptr : Bool) (ws : List B64) : Except CmdCause (List Byte) × State :=
  let s := s.hubSync s.cq.1
  if ptr then match s.hubRead s.cq.1 (ws.getD 0 0).toNat 128 with
    | (.ok d, s) => (.ok d, s)
    | (.error _, s) => (.error .fetch, s)
  else (.ok (wordBytes (ws.take 16)), s)

/-- The checks of a frontier launch (R289, R305): its record, where its event lies, and its frontier record. -/
def checkFrontier (s : State) (p q : Nat) (d : List Byte) (va : Nat) :
    Except CmdCause (LaunchRec × Option Nat × FrontRec) × State :=
  match s.readLaunch p d true with
  | (.error c, s) => (.error c, s)
  | (.ok r, s) =>
    if !r.frontierOk then (.error .record, s)
    else match s.eventOf p r.event with
      | (.error c, s) => (.error c, s)
      | (.ok pa, s) => match s.readFrontier p va r (fieldAt d 72 6) with
        | (.error c, s) => (.error c, s)
        | (.ok f, s) => match s.acceptCheck p q r with
          | some c => (.error c, s)
          | none => (.ok (r, pa, f), s)

end State

/-- NOPC (R285). -/
def execNopc (len : Nat) (s : State) : Out := .next (s.cmdDone len)

/-- LAUNCH as a command record (R285, R287, R289). -/
def execLaunchCommand (ptr : Bool) (queue : B32) (words : List B64) (s : State) : Out :=
  match s.launchBytes ptr words with
  | (.error c, s) => .next (s.cmdFault 1 c)
  | (.ok d, s) => match s.acceptLaunch s.cq.1 queue.toNat d (s.part s.cq.1).cpts with
    | (.error c, s) => .next (s.cmdFault 1 c)
    | (.ok _, s) => .next (s.cmdDone (words.length + 1))

/-- An FLAUNCH that has passed every check is accepted, or waits while 16 frontier launches are active (R305): what it has read
it does not read again (R288). -/
def State.admitFrontier (s : State) (queue : Nat) (r : LaunchRec) (pa : Option Nat) (va : Nat) (f : FrontRec) (i : Instr)
    (len : Nat) : State :=
  if 16 ≤ s.activeFrontiers s.cq.1 then s.cmdWait (.frontierRoom r pa va f) i
  else (s.enterFrontier s.cq.1 queue r pa va f).cmdDone len

/-- FLAUNCH (R285, R305). -/
def execFlaunch (ptr : Bool) (queue : B32) (words : List B64) (s : State) : Out :=
  let i : Instr := .flaunch ptr queue words
  let len := words.length + 1
  match (s.queue s.cq.1 s.cq.2).wait with
  | some (.frontierRoom r pa va f) => .next (s.admitFrontier queue.toNat r pa va f i len)
  | _ => match s.launchBytes ptr words with
    | (.error c, s) => .next (s.cmdFault 2 c)
    | (.ok d, s) =>
      let va := (words.getD (words.length - 1) 0).toNat
      match s.checkFrontier s.cq.1 queue.toNat d va with
      | (.error c, s) => .next (s.cmdFault 2 c)
      | (.ok x, s) => .next (s.admitFrontier queue.toNat x.1 x.2.1 va x.2.2 i len)

/-- COPYC (R285, R286). -/
def execCopyc (src dst count : B64) (s : State) : Out :=
  match s.hubRead s.cq.1 src.toNat count.toNat with
  | (.error _, s) => .next (s.cmdFault 3 .access)
  | (.ok d, s) => match s.hubWrite s.cq.1 dst.toNat d with
    | (some _, s) => .next (s.cmdFault 3 .access)
    | (none, s) => .next (s.cmdDone 4)

/-- WRITEC (R285, R286): the words before one that faults stand. -/
def execWritec (va : B64) (data : List B64) (s : State) : Out :=
  match s.hubWrite s.cq.1 va.toNat (State.wordBytes data) with
  | (some _, s) => .next (s.cmdFault 4 .access)
  | (none, s) => .next (s.cmdDone (data.length + 2))

/-- EVSIGC (R285, R290). -/
def execEvsigc (after : Bool) (value : B32) (va : B64) (s : State) : Out :=
  let (p, q) := s.cq
  let bound := s.drainBound
  if after && !s.drained p q bound then .next (s.cmdWait (.drained bound) (.evsigc after value va))
  else match s.eventReach p va.toNat with
    | (.error c, s) => .next (s.cmdFault 5 c)
    | (.ok pa, s) => .next ((s.hubMerge p va.toNat pa (toBytes 8 (s.eventCount pa + value.toNat)) .atomic).cmdDone 2)

/-- EVWAITC (R285). -/
def execEvwaitc (va target : B64) (s : State) : Out :=
  let p := s.cq.1
  match s.eventReach p va.toNat with
  | (.error c, s) => .next (s.cmdFault 6 c)
  | (.ok pa, s) =>
    let s := s.cross (cpDie p) (homeDie pa)
    if target.toNat ≤ s.eventCount pa then .next ((s.hubAcquire p pa).cmdDone 3)
    else .next (s.cmdWait (.event pa (s.bigPage p va.toNat) target) (.evwaitc va target))

/-- IBCALL (R285, R286). -/
def execIbcall (va bytes : B64) (s : State) : Out :=
  let (p, q) := s.cq
  if 3 ≤ (s.queue p q).frames.length then .next (s.cmdFault 7 .nest)
  else if bytes = 0 then .next (s.cmdDone 3)
  else .next ((s.onQueue p q fun x => { x with frames := { va := va.toNat, len := bytes.toNat } :: x.frames }).fetchAhead p q)

/-- PREDC (R285): the next k records are skipped when (word ≠ 0) XOR SENSE is 0. -/
def execPredc (sense : Bool) (k : B32) (va : B64) (s : State) : Out :=
  let (p, q) := s.cq
  if va.toNat % 4 ≠ 0 then .next (s.cmdFault 8 .length)
  else match s.hubRead p va.toNat 4 with
    | (.error _, s) => .next (s.cmdFault 8 .access)
    | (.ok d, s) =>
      let s := s.cmdDone 2
      if (ofBytes d != 0) != sense then .next s else .next (s.onQueue p q fun x => x.setSkip k.toNat)

/-- LOOPC (R285, R286). -/
def execLoopc (n : B32) (k : B64) (s : State) : Out :=
  let (p, q) := s.cq
  if (s.queue p q).loop.isSome then .next (s.cmdFault 9 .nest)
  else
    let s := s.cmdDone 2
    .next (s.onQueue p q fun x => if n = 0 then x.setSkip k.toNat else x.setLoop k.toNat n.toNat)

/-- FFENCE (R287): every record fetched ahead is discarded; under DRAIN after every earlier launch, and an acquire. -/
def execFfence (drain : Bool) (s : State) : Out :=
  let (p, q) := s.cq
  let bound := s.drainBound
  if drain && !s.drained p q bound then .next (s.cmdWait (.drained bound) (.ffence drain))
  else
    let s := if drain then (s.hubSync p).onPart p fun x => { x with cpts := max x.cpts x.relts } else s
    .next ((s.onQueue p q fun x => { x with ahead := [], fixed := [] }).cmdDone 1)

/-- TSC (R285): the NCLK count and the launch count. -/
def execTsc (va : B64) (s : State) : Out :=
  let p := s.cq.1
  match s.hubWrite p va.toNat (toBytes 8 s.nclk ++ toBytes 8 (s.part p).count.toNat) with
  | (some _, s) => .next (s.cmdFault 11 .access)
  | (none, s) => .next (s.cmdDone 2)

/-- SAVEC (R315): no effect for a launch that is no active frontier launch; a frozen one is waited for, and so is the end of one
that a kill has faulted (R306). -/
def execSavec (launch : B32) (s : State) : Out :=
  let p := s.cq.1
  let id := launch.toNat
  match ((s.part p).launches.find id).bind (·.frontier) with
  | none => .next (s.cmdDone 1)
  | some f =>
    if f.saving || f.faulted || s.frozen p id then .next (s.cmdWait (.save id) (.savec launch))
    else .next ((s.startSave p id).cmdWait (.save id) (.savec launch))

/-- EVWAITC_WAKE (R285): the target is met; the queue acquires and goes on. -/
def execEvwaitcWake (part q : Nat) (s : State) : Out :=
  match (s.queue part q).wait with
  | some (.event pa _ t) =>
    if t.toNat ≤ s.eventCount pa then .next (((({ s with cq := (part, q) } : State).cross (cpDie part) (homeDie pa)).hubAcquire part pa).cmdDone 3) else .next s
  | _ => .next s

/-- A write of QTAIL (R283): a TAIL that is no multiple of 8, or beyond the size, is ignored; the records that it
publishes may be fetched ahead (R287). -/
def State.writeTail (s : State) (part q : Nat) (v : B32) : State :=
  let x := s.queue part (q % 16)
  if v.toNat % 8 ≠ 0 ∨ x.size < (v - x.head).toNat then s
  else (s.onQueue part (q % 16) fun x => { x with tail := v }).fetchAhead part (q % 16)

/-- QTAIL_WRITE (R283). -/
def execQtailWrite (part q : Nat) (v : B32) (s : State) : Out := s.byHost fun s => s.writeTail part q v

/-- RUN := 1 clears FAULT and QFAULT (R286). -/
def State.resumeQueue (s : State) (part q : Nat) : State :=
  s.onQueue part (q % 16) fun x => { x with run := true, fault := false, qfault := 0, ahead := [], fixed := [] }

/-- QUEUE_RESUME (R286). -/
def execQueueResume (part q : Nat) (s : State) : Out := s.byHost fun s => s.resumeQueue part q

/-- One of the three shares of QRES (R284). -/
def qresField (v : B64) (i : Nat) : Nat := bits v.toNat (8 * i) 8

/-- A write of QRES (R284): ignored where the sum of a field over every queue of every partition would exceed 224. -/
def State.writeRes (s : State) (part q : Nat) (v : B64) : State :=
  let sum (i : Nat) : Nat := s.parts.foldl (fun n x => x.2.queues.foldl (fun n y =>
    if x.1 = part ∧ y.1 = q % 16 then n else n + qresField y.2.res i) n) 0
  if (List.range 3).all fun i => sum i + qresField v i ≤ 224 then
    s.onQueue part (q % 16) fun x => { x with res := v &&& 0xFFFFFF }
  else s

/-- QRES_WRITE (R284). -/
def execQresWrite (part q : Nat) (v : B64) (s : State) : Out := s.byHost fun s => s.writeRes part q v

end Sys2Proof.Machine
end

