-- ==== Sys2Proof/Machine/Deal.lean ====
section
/-!
DEFINITION. The launch engine at work: the device-side members (R293 to R296), the launch pool (R295), dealing (R34, R291),
the ends of blocks and launches (R31, R290), FLEX (R43), CORE_BUDGET (R39), inherited priorities (R297).
-/

namespace Sys2Proof.Machine

/-- A wave holds or awaits entries of the launch pool (R295): those it holds. -/
def poolHeld (w : Wave) : Nat :=
  if Wave.isEnded w then 0
  else b2n (w.verdict == some true) + (w.waits.filter fun x => match x.kind with
    | .waitch _ _ => x.woken.isNone
    | _ => false).length

/-- What has become of an attempt to launch a child (R294): refused, no entry free, or its identifier. -/
inductive Tried where
  | refused
  | full
  | entered (id : Nat)
deriving DecidableEq, Repr

/-- The place of a waiter for an entry of the launch pool (R295): in a resident block, or in the saved image of an index. -/
inductive Waiter where
  | here (blk wave : Nat) (x : Waiting)
  | away (image wave : Nat) (isLaunch : Bool)
deriving DecidableEq, Repr

/-- The waiter waits at a LAUNCH. -/
def Waiter.isLaunch : Waiter → Bool
  | .here _ _ x => match x.kind with
    | .launch _ _ _ _ => true
    | _ => false
  | .away _ _ l => l

namespace State

/-! ### The launch pool -/

/-- Entries of a partition's launch pool that are taken (R295), of 4,096. -/
def poolUsed (s : State) (p : Nat) : Nat :=
  let x := s.part p
  (x.launches.filter fun l => l.2.pooled).length +
  (s.blocks.foldl (fun n k =>
    if k.2.part ≠ p then n
    else (List.range k.2.waves.length).foldl (fun n i => n + ((s.wave? k.1 i).map poolHeld).getD 0) n) 0) +
  x.saved.foldl (fun n y => n + (y.verdicts.filter (·.2)).length) 0

/-- The pool has no entry free (R295). -/
def poolFull (s : State) (p : Nat) : Bool := 4096 ≤ s.poolUsed p

/-- The waiters of a partition with their places in the order in which they began to wait (R295). -/
def poolQueue (s : State) (p : Nat) : List (Nat × Waiter) :=
  (s.blocks.flatMap fun k =>
    if k.2.part ≠ p then []
    else (s.blockWaits k.1).filterMap fun y => if WaitKind.isPool y.2.kind then some (y.2.order, Waiter.here k.1 y.1 y.2) else none) ++
  ((s.part p).saved.zipIdx.flatMap fun y => y.1.waiters.map fun w => (w.1, Waiter.away y.2 w.2.1 w.2.2.isNone))

/-- No entry is there for one that comes now (R295): none is free, or those that wait come first. -/
def poolShut (s : State) (p : Nat) : Bool := s.poolFull p || !(s.poolQueue p).isEmpty

/-- Tries a child launch from the record at an address (R294): a wave of block `b` reads it; `held` when it holds an entry. -/
def tryLaunch (s : State) (b ptr q : Nat) (held : Bool) : Tried × State :=
  let p := (s.blk b).part
  let c := (s.blk b).core
  if ptr % 64 ≠ 0 then (.refused, s)
  else match monitorRead c p 10 ptr 128 s with
    | (.error _, s) => (.refused, s)
    | (.ok d, s) => match s.checkLaunch p q d with
      | (.error _, s) => (.refused, s)
      | (.ok (r, pa), s) =>
        if !held && s.poolShut p then (.full, s)
        else let (id, s) := s.enterLaunch p q r pa (s.pts c p) true none; (.entered id, s)

/-- The launch is a child that holds an entry of its partition's pool (R296). -/
def isChild (s : State) (p id : Nat) : Bool := (((s.part p).launches.find id).map (·.pooled)).getD false

/-- sd of a refused LAUNCH (R294). -/
def noChild : Nat := 2 ^ 64 - 1

/-- PD and sd of the issuing LAUNCH (R294), forwarded to a twin. -/
def putChild (s : State) (pd : Nat) (sd : Byte) (id : Option Nat) : State :=
  ((s.putPd pd id.isSome).onIssue fun e => e.writeS sd (id.getD noChild)).forwardTo s.issue.blk s.issue.wv
    [b2n id.isSome, id.getD noChild]

/-- What the twin of a P2 pair takes from its primary (R272): PD first. -/
def twinPd (s : State) (pd : Nat) (f : List Nat → State → State) : State :=
  match s.asPrimary fun s => ([], s) with
  | none => s.retry .value
  | some (vs, s) => f vs (s.putPd pd (vs.headD 0 != 0))

/-- A waiting member returns (R27), and its twin takes its values (R272). -/
def finishBoth (s : State) (b w : Nat) (x : Waiting) (sd : Option (Nat × Nat)) (pd : Nat) (v : Bool) (more : List Nat) :
    State :=
  (s.finishWait b w x sd (some (pd, v))).forwardTo b w (b2n v :: more)

/-- The acquire of a WAITCH or EVWAIT at a logical time (R254, R296). -/
def acquireAt (s : State) (b w t : Nat) : State :=
  (s.raisePts (s.blk b).core (s.blk b).part t).acquireWave (s.blk b).core (s.blk b).part b w 4

/-- A child of the partition has ended, or is unknown, to a WAITCH that returns (R296). -/
def endWaitch (s : State) (b w : Nat) (x : Waiting) (pd : Nat) (ok : Bool) : State :=
  let t := (s.part (s.blk b).part).relts
  (s.finishBoth b w x none pd ok [t]).acquireAt b w t

/-- The LAUNCH of a resident waiter ends with an identifier, or refused (R294). -/
def endLaunch (s : State) (b w : Nat) (x : Waiting) (sd pd : Nat) (id : Option Nat) : State :=
  s.finishBoth b w x (some (sd, id.getD noChild)) pd id.isSome [id.getD noChild]

/-- A resident waiter gets an entry, or gives up (R295): one whose wave is stopped finds the verdict when it goes on. -/
def decide_ (s : State) (b w : Nat) (x : Waiting) (ok : Bool) : State :=
  let loose := ((s.wave? b w).map Wave.isLoose).getD false
  if !loose then
    let free (a : Arch) : Arch := { a with fib := a.fib.zipIdx.map fun y => if x.eff.contains y.2 then { y.1 with blocked := none } else y.1 }
    (s.onBoth b w free).onWave b w fun v => { v with verdict := some ok, waits := v.waits.erase x }
  else match x.kind with
    | .launch ptr q sd pd =>
      if !ok then s.endLaunch b w x sd pd none
      else match s.tryLaunch b ptr.toNat q true with
        | (.entered id, s) => s.endLaunch b w x sd pd (some id)
        | (_, s) => s.endLaunch b w x sd pd none
    | .waitchPool id pd =>
      if !ok then s.endWaitch b w x pd false
      else if !s.isChild (s.blk b).part id.toNat then s.endWaitch b w x pd true
      else s.onWave b w fun v => { v with waits := v.waits.map fun y => if y == x then { y with kind := .waitch id pd } else y }
    | _ => s

/-- The oldest of some waiters. -/
def oldest (l : List (Nat × Waiter)) : Option Waiter :=
  (l.foldl (fun (m : Option (Nat × Waiter)) x => match m with
    | none => some x
    | some y => if x.1 < y.1 then some x else some y) none).map (·.2)

/-- The pool has decided for a waiter (R295): a saved block may be restored. -/
def settleWaiter (s : State) (p : Nat) (w : Waiter) (ok : Bool) : State :=
  match w with
  | .here b i x => s.decide_ b i x ok
  | .away k i _ => s.onPart p fun x => { x with saved := x.saved.modify k fun y =>
      { y with waiters := y.waiters.filter fun z => z.2.1 != i, verdicts := y.verdicts ++ [(i, ok)] } }

/-- No entry's launch has a resident block (R295). -/
def poolIdle (s : State) (p : Nat) : Bool :=
  (s.part p).launches.all fun l => !l.2.pooled || s.blocks.all fun k => k.2.part != p || k.2.launch.toNat != l.1 || k.2.handler

/-- Since when the pool has been full with no resident entry (R295). -/
def watchPool (s : State) (p : Nat) : State :=
  s.onPart p fun x => { x with
    fullSince := if s.poolFull p && s.poolIdle p then some (x.fullSince.getD s.nclk) else none }

/-- 2^20 CCLK in NCLK, 4/3 of them at the nominal clocks, rounded up (R295, R357). -/
def starveNclk : Nat := 1398102

/-- The launch pool has starved its waiters (R295). -/
def starved (s : State) (p : Nat) : Bool :=
  match (s.part p).fullSince with
  | some t => t + starveNclk ≤ s.nclk
  | none => false

/-- A block has a wave that waits for an entry of the launch pool, and every other one is blocked or has ended (R295): the
block is saved. -/
def poolStalled (s : State) (b : Nat) (k : Block) : Bool :=
  let ws := (List.range k.waves.length).filterMap fun i => s.wave? b i
  !k.handler && !k.killed && k.ask.isNone && k.pre.isNone &&
  (ws.any fun w => w.waits.any fun x => WaitKind.isPool x.kind) && ws.all fun w =>
    Wave.isEnded w || (match w.mode with
      | .run => (w.hold.map Hold.waits).getD false || (s.readySlots b w).isEmpty
      | .desched _ => true
      | _ => false)

/-! ### Dealing -/

/-- The cores of a cluster that admit the blocks of a gang once waves are descheduled (R34). -/
def roomIn (s : State) (p n prio : Nat) (x : Need) (k : Nat) : Option (List Nat) :=
  if !s.clusterServes k p then none
  else
    let ok := (s.coresIn k).filter fun c => (s.freeFor c x prio).admits c x
    if ok.length < n then none else some (ok.take n)

/-- Where a gang finds room once waves are descheduled (R34): the cluster and the cores; of a P2 launch also the cores of the
twins, in another cluster (R272). -/
def roomFor (s : State) (p n prio : Nat) (x : Need) (twins : Bool) (order : List Nat) : Option (Nat × List Nat × List Nat) :=
  order.findSome? fun k => match s.roomIn p n prio x k with
    | none => none
    | some cs =>
      if !twins then some (k, cs, [])
      else (order.filter (· != k)).findSome? fun j => (s.roomIn p n prio x j).map fun ts => (k, cs, ts)

/-- A launch's turn to place a gang has come (R287, R307): every earlier launch of its queue has placed its first, and no saved
block of its own waits. -/
def isTurn (s : State) (p id : Nat) (l : Launch) : Bool :=
  !s.hasSaved p id && (s.part p).launches.all fun x => x.2.queue != l.queue || l.seq ≤ x.2.seq || x.2.placed || x.2.killed

/-- Launch `id` may place a gang (R34, R291): its turn has come, and it does not wait for room, or a wave that can be
descheduled makes it. -/
def mayDeal (s : State) (p id : Nat) (l : Launch) : Bool :=
  match s.nextGang p id l with
  | none => false
  | some (_, _, n) =>
    s.isTurn p id l &&
      (!l.waiting || (s.roomFor p n l.eff (need l.lr) (l.lr.plevel == 2) (s.tryOrder l.lastCluster)).isSome)

/-- The order of two launches at a deal (R291): the queue's priority, then the queues of that priority in turn, then the earlier
launch. -/
def dealsFirst (last : Tab Nat) (x y : Nat × Launch) : Bool :=
  let turn (q : Nat) : Nat := (q + 15 - last.get 15 x.2.prio % 16) % 16
  if x.2.prio ≠ y.2.prio then y.2.prio < x.2.prio
  else if x.2.queue ≠ y.2.queue then turn x.2.queue < turn y.2.queue else x.2.seq < y.2.seq

/-- The launch to which a partition deals next (R291). -/
def dealNext (s : State) (p : Nat) : Option Nat :=
  let x := s.part p
  if x.stopped || s.rebaseDue p then none
  else
    ((x.launches.filter fun l => s.mayDeal p l.1 l.2).foldl (fun (m : Option (Nat × Launch)) l => match m with
      | none => some l
      | some y => if dealsFirst x.lastQueue l y then some l else some y) none).map (·.1)

/-! ### Ends -/

/-- A block is over (R31): its waves have ended, its copies have finished and its sequencer has stopped. -/
def blockOver (s : State) (b : Nat) (k : Block) : Bool :=
  let q := s.seq b
  !k.handler && !(k.doomed && !k.killed) && s.allEnded b && q.mma.isNone && q.epi.isNone &&
  (match q.st with
   | .idle => true
   | .faulted => q.frec.isNone
   | _ => false) &&
  (s.core k.core).copies.all fun x => x.2.blk != b || !x.2.inFlight

/-- A block ends (R31): its stores reach their homes, its launch learns of it, its resources are free. -/
def finishBlock (s : State) (b : Nat) (k : Block) : State :=
  let id := k.launch.toNat
  let s := s.settleStores b
  let t := s.pts k.core k.part
  let s := s.onLaunch k.part id fun l => { l with relts := max l.relts t }
  let s := if k.frontier && k.primary then s.pointDone k.part id k.lin t k.killed else s
  let s := s.onCore k.core fun c => { c with copies := c.copies.filter fun x => x.2.blk != b || !x.2.inFlight }
  ((s.dropChunks b).dropBlock b).retryRoom k.part

/-- Nothing of a launch is left to place, to restore or to end (R290, R303, R306, R315). -/
def launchOver (s : State) (p id : Nat) (l : Launch) : Bool :=
  (s.blocks.all fun k => k.2.part != p || k.2.launch.toNat != id || k.2.handler) &&
  match l.frontier with
  | none => l.lr.gangs ≤ l.nextGang && (s.part p).saved.all fun x => x.launch.toNat != id
  | some f =>
    f.faulted || ((s.part p).saved.all (fun x => x.launch.toNat != id) && (f.saving || f.allDone l.lr))

/-- A faulted frontier launch as it is written back (R306): no point of it is in flight. -/
def clearFlight (s : State) (p id : Nat) : State :=
  (s.clearSaved p id).onFrontier p id fun r f =>
    if f.faulted then { f.stopFiring r with h := f.h.map fun w => (w.1, bits w.2 0 24) } else f

/-- A launch completes (R290, R303): the frontier record is written back, the event is signalled, its pool entry is free and
those that wait for it learn of it. -/
def finishLaunch (s : State) (p id : Nat) : State :=
  let s := match ((s.part p).launches.find id).bind (·.frontier) with
    | some f => if f.faulted then s.clearFlight p id else s
    | none => s
  match (s.part p).launches.find id with
  | none => s
  | some l =>
    let s := s.writeFrontier p id l
    let killed := (((s.part p).launches.find id).map (·.killed)).getD l.killed
    let (t, s) := match l.eventPa with
      | some pa =>
        let s := s.checkMerge p 0 l.lr.event pa 13 [] .atomic
        let (t, s) := (s.cross (cpDie p) (homeDie pa)).signalEvent pa killed (max l.relts (s.part p).cpts)
        (t, s.tagWrites (cpSrc p) p pa 13 t)
      | none => (l.relts, s)
    let s := s.onPart p fun x =>
      { x with relts := max x.relts (max l.relts t), launches := x.launches.erase id }
    s.blocks.foldl (fun s k =>
      if k.2.part ≠ p then s
      else s.wake k.1 fun _ x => match x.kind with
        | .waitch c _ => if c.toNat = id then some (!killed) else none
        | _ => none) s

/-! ### Inherited priorities -/

/-- Who waits for whom (R297): launches of a partition whose waves, those of saved blocks that wait for a pool entry among them
(R295), wait for the event or child of another. -/
def waitEdges (s : State) (p : Nat) : List (Nat × Nat) :=
  (s.blocks.flatMap fun k =>
    if k.2.part ≠ p ∨ k.2.handler then []
    else (s.blockWaits k.1).filterMap fun y => match y.2.kind with
      | .evwait _ pa _ _ _ => (s.eventOwner pa).map fun o => (k.2.launch.toNat, o)
      | .waitch c _ | .waitchPool c _ => some (k.2.launch.toNat, c.toNat)
      | _ => none) ++
  (s.part p).saved.flatMap fun x => x.waiters.filterMap fun w => w.2.2.map fun c => (x.launch.toNat, c.toNat)

/-- The queues of a partition that stand in EVWAITC (R297): their priorities and the launches that they wait for. -/
def queueEdges (s : State) (p : Nat) : List (Nat × Nat) :=
  (s.part p).queues.filterMap fun q => match q.2.wait with
    | some (.event pa _ _) => (s.eventOwner pa).map fun o => (q.2.prio, o)
    | _ => none

/-- One passage of priorities along the waits (R297). -/
def raiseEff (es qs : List (Nat × Nat)) (ls : Tab Launch) : Tab Launch :=
  ls.map fun l =>
    let own := qs.foldl (fun m q => if q.2 = l.1 then max m q.1 else m) l.2.prio
    (l.1, { l.2 with eff := es.foldl (fun m e => if e.2 = l.1 then max m (((ls.find e.1).map (·.eff)).getD 0) else m) own })

/-- Passages of priorities, at most `n`. -/
def raiseEffs (es qs : List (Nat × Nat)) : Nat → Tab Launch → Tab Launch
  | 0, ls => ls
  | n + 1, ls => raiseEffs es qs n (raiseEff es qs ls)

/-- PRIO.EFF of the launches and blocks of a partition (R297). -/
def inherit (s : State) (p : Nat) : State :=
  let base := (s.part p).launches.map fun l => (l.1, { l.2 with eff := l.2.prio })
  let ls := raiseEffs (s.waitEdges p) (s.queueEdges p) (base.length + 1) base
  let s := s.onPart p fun x => { x with launches := ls }
  { s with blocks := s.blocks.map fun k =>
      if k.2.part ≠ p ∨ k.2.handler then k
      else (k.1, { k.2 with eff := ((ls.find k.2.launch.toNat).map (·.eff)).getD k.2.prio }) }

/-! ### Events of waves -/

/-- The access of EVSIG (R290, R293). -/
def signalAccess : Access := { kind := .atomic, rd := true, wr := true, cls := [.dev] }
/-- The access of EVWAIT. -/
def eventAccess : Access := { kind := .atomic, rd := true, cls := [.dev] }

/-- EVWAITs on one event whose targets are met and that began to wait earlier (R296). -/
def evwaitAhead (s : State) (pa order : Nat) : Bool :=
  s.blocks.any fun k => (List.range k.2.waves.length).any fun i => (s.openWaits k.1 i).any fun x => match x.kind with
    | .evwait _ a _ t _ => a == pa && t.toNat ≤ s.eventCount pa && x.order < order
    | _ => false

/-- An EVWAIT returns (R296). -/
def endEvwait (s : State) (b w : Nat) (x : Waiting) (pa pd : Nat) : State :=
  let t := (s.leaseOf pa).1
  (s.finishBoth b w x none pd (!bitAt (s.eventFlg pa) 0) [t]).acquireAt b w t

end State

/-- LAUNCH (R293, R294, R295). -/
def execLaunch (f : FmtAbx) (s : State) : Out :=
  let p := f.x.p.toNat
  let pd := pdOf f.x
  match s.issue.actor with
  | none => .next s
  | some _ =>
    let s := s.release 4
    if !s.iblk.primary then .next (s.twinPd pd fun vs s => s.onIssue fun e => e.writeS f.b (vs.getD 1 0))
    else
      let s := s.cross (s.coreDie s.issue.core) (cpDie s.ipart)
      let ptr := s.issue.ss f.a
      let q := bits p 4 4
      let v := s.issue.cur.verdict
      let s := s.onIssue fun e => { e with cur := { e.cur with verdict := none } }
      if v = some false then .next (s.putChild pd f.b none)
      else match s.tryLaunch s.issue.blk ptr q (v == some true) with
        | (.refused, s) => .next (s.putChild pd f.b none)
        | (.entered id, s) => .next (s.putChild pd f.b (some id))
        | (.full, s) =>
          if bitAt p 8 then .next (s.putChild pd f.b none)
          else .next (s.wait (.launch (BitVec.ofNat 64 ptr) q (scalarOf f.b) pd))

/-- WAITCH (R293, R295, R296). -/
def execWaitch (f : FmtAbx) (s : State) : Out :=
  let pd := pdOf f.x
  match s.issue.actor with
  | none => .next s
  | some _ =>
    if !s.iblk.primary then
      .next (s.twinPd pd fun vs s => s.acquireAt s.issue.blk s.issue.wv (vs.getD 1 0))
    else
      let s := s.cross (s.coreDie s.issue.core) (cpDie s.ipart)
      let id := s.issue.ss f.a % 2 ^ 32
      let v := s.issue.cur.verdict
      let s := s.onIssue fun e => { e with cur := { e.cur with verdict := none } }
      let (b, w) := (s.issue.blk, s.issue.wv)
      let t := (s.part s.ipart).relts
      if v = some false then .next (((s.putPd pd false).forwardTo b w [0, t]).acquireAt b w t)
      else if !s.isChild s.ipart id then .next (((s.putPd pd true).forwardTo b w [1, t]).acquireAt b w t)
      else if v.isNone && s.poolShut s.ipart then .next (s.wait (.waitchPool (BitVec.ofNat 32 id) pd))
      else .next (s.wait (.waitch (BitVec.ofNat 32 id) pd))

/-- EVSIG (R290, R293, R296): the WRITE step adds to COUNT. -/
def execEvsig (f : FmtAb) (s : State) : Out :=
  match s.issue.actor with
  | none => .next s
  | some l =>
    let ea := s.issue.ss f.a
    let n := s.issue.ss f.b % 2 ^ 32
    match s.reach State.signalAccess 16 l ea ea n with
    | (.error x, s) => .next (s.raise [x])
    | (.ok t, s) =>
      let s := s.release 4
      if !s.iblk.primary then .next s
      else
        let c := s.issue.core
        let s := s.checkMerge s.ipart c ea t.pa 8 [] .atomic
        let s := s.catchUp c t.pa
        let (ts, s) := s.coreStore c s.ipart t.pa (toBytes 8 (s.eventCount t.pa + n))
        .next ((s.updateCopy c s.ipart ea ts).onIssue fun e => { e with cur := { e.cur with pend := max e.cur.pend ts } })

/-- EVWAIT (R290, R293, R296). -/
def execEvwait (f : FmtAbx) (s : State) : Out :=
  let pd := pdOf f.x
  match s.issue.actor with
  | none => .next s
  | some l =>
    let ea := s.issue.ss f.a
    let n := s.issue.ss f.b
    match s.reach State.eventAccess 16 l ea ea n with
    | (.error x, s) => .next (s.raise [x])
    | (.ok t, s) =>
      let (b, w) := (s.issue.blk, s.issue.wv)
      if !s.iblk.primary then .next (s.twinPd pd fun vs s => s.acquireAt b w (vs.getD 1 0))
      else if n ≤ s.eventCount t.pa then
        let s := s.cross (s.coreDie s.issue.core) (homeDie t.pa)
        let v := !bitAt (s.eventFlg t.pa) 0
        let ts := (s.leaseOf t.pa).1
        .next (((s.putPd pd v).forwardTo b w [b2n v, ts]).acquireAt b w ts)
      else .next (s.wait (.evwait ea t.pa t.big (BitVec.ofNat 64 n) pd))

/-- EVWAIT_WAKE (R296): waiters on one event return in the order in which they began to wait. -/
def execEvwaitWake (blk wave : Nat) (s : State) : Out :=
  match (s.openWaits blk wave).findSome? fun x => match x.kind with
    | .evwait _ pa _ t pd => if t.toNat ≤ s.eventCount pa && !s.evwaitAhead pa x.order then some (x, pa, pd) else none
    | _ => none with
  | some (x, pa, pd) => .next ((s.cross (s.coreDie (s.blk blk).core) (homeDie pa)).endEvwait blk wave x pa pd)
  | none => .next s

/-- WAITCH_WAKE (R296): the child has completed. -/
def execWaitchWake (blk wave : Nat) (s : State) : Out :=
  match (s.openWaits blk wave).findSome? fun x => match x.kind, x.woken with
    | .waitch _ pd, some v => some (x, pd, v)
    | _, _ => none with
  | some (x, pd, v) => .next (s.endWaitch blk wave x pd v)
  | none => .next s

/-- GANG_DEAL (R34, R36, R272, R291): the launch whose turn it is places its next gang where it is admitted, if need be in
room that descheduled waves make, or waits. -/
def execGangDeal (part launch : Nat) (s : State) : Out :=
  if s.dealNext part != some launch then .next s
  else match (s.part part).launches.find launch with
    | none => .next s
    | some l => match s.nextGang part launch l with
      | none => .next s
      | some (g, first, n) =>
        let order := s.tryOrder l.lastCluster
        let x := State.need l.lr
        let twins := l.lr.plevel == 2
        match s.placeFor part n x twins order with
        | some (k, cs, ts) => .next ((s.startGang part launch l g first cs ts).placedGang part launch k)
        | none => match s.roomFor part n l.eff x twins order with
          | some (k, cs, ts) =>
            let s := (cs ++ ts).foldl (fun s c => s.freeFor c x l.eff) s
            .next ((s.startGang part launch l g first cs ts).placedGang part launch k)
          | none => .next (s.onLaunch part launch fun l => { l with waiting := true })

/-- BLOCK_END (R31, R165, R303). -/
def execBlockEnd (blk : Nat) (s : State) : Out :=
  match s.blk? blk with
  | none => .next s
  | some k => if s.blockOver blk k then .next (s.finishBlock blk k) else .next s

/-- LAUNCH_COMPLETE (R290, R303, R306, R315). -/
def execLaunchComplete (part launch : Nat) (s : State) : Out :=
  match (s.part part).launches.find launch with
  | none => .next s
  | some l => if s.launchOver part launch l then .next (s.finishLaunch part launch) else .next s

/-- FLEX_MARK (R43): one wave is marked, and the windows start again. -/
def execFlexMark (blk : Nat) (toLoad : Bool) (s : State) : Out :=
  match s.blk? blk with
  | none => .next s
  | some k =>
    if !State.flexDue k toLoad then .next s
    else match State.flexWave k toLoad with
      | some i => .next ((s.onWave blk i fun w => { w with mark := true }).onBlk blk fun k => { k with low := 0, high := 0 })
      | none => .next s

/-- A write of CORE_BUDGET (R39): it governs later admissions, and waiting launches try again. -/
def State.writeBudget (s : State) (core : Nat) (v : B32) : State :=
  if 144 ≤ core then s else (s.onCore core fun c => { c with budget := v &&& 0xFF }).retryAll

/-- CORE_BUDGET_WRITE (R39). -/
def execCoreBudgetWrite (core : Nat) (v : B32) (s : State) : Out := s.byHost fun s => s.writeBudget core v

/-- LAUNCH_STARVED (R295): a record; the oldest waiting LAUNCH and the oldest waiting WAITCH give up. -/
def execLaunchStarved (part : Nat) (s : State) : Out :=
  if !s.starved part then .next s
  else
    let s := s.partRecord part 0 { cls := .launchStarved }
    let give (s : State) (l : Bool) : State :=
      match State.oldest ((s.poolQueue part).filter fun x => x.2.isLaunch == l) with
      | some w => s.settleWaiter part w false
      | none => s
    .next ((give (give s true) false).onPart part fun x => { x with fullSince := none })

/-- POOL_ENTRY_FREED (R295): a free entry goes to the waiter that has waited longest. -/
def execPoolEntryFreed (part : Nat) (s : State) : Out :=
  if s.poolFull part then .next s
  else match State.oldest (s.poolQueue part) with
    | some w => .next (s.settleWaiter part w true)
    | none => .next s

end Sys2Proof.Machine
end

