-- ==== Sys2Proof/Machine/Gate.lean ====
section
/-!
DEFINITION. Gates (R322 to R333): the table, the four members, the token buckets, migration.
-/

namespace Sys2Proof.Machine

/-- STATE of a gate (R322): FREE, VALID, TRANSIT. -/
def gFree : Nat := 0
/-- VALID. -/
def gValid : Nat := 1
/-- TRANSIT. -/
def gTransit : Nat := 2

/-- The GCTL word of a gate (R322). -/
def Gate.ctl (g : Gate) : Nat :=
  g.depth * 2 ^ 32 + g.rate * 2 ^ 16 + g.st * 2 ^ 14 + b2n g.sat * 2 ^ 6 + g.owner

/-- The status word of GQRY (R329) for a partition. -/
def Gate.status (g : Gate) (p : Nat) : Nat :=
  g.st * 2 ^ 62 + b2n g.sat * 2 ^ 61 + b2n (bitAt g.sig.toNat p) * 2 ^ 60 + b2n (bitAt g.wmask.toNat p) * 2 ^ 59 +
    g.waiters % 65536 * 2 ^ 32 + (if g.depth = 0 then 0xFFFFFFFF else g.tokens.toNat)

/-- The next tick of the token buckets after an NCLK count (R324). -/
def nextRefill (n : Nat) : Nat := (n / Config.nclkPerUs + 1) * Config.nclkPerUs

/-- GSIG on a gate by a core whose pts is `p` (R327): PD and the gate. -/
def Gate.signal (g : Gate) (n p : Nat) : Bool × Gate :=
  if g.depth ≠ 0 ∧ g.tokens = 0 then (false, g)
  else
    let t := g.count.toNat + n
    (true, { g with
      tokens := if g.depth ≠ 0 then g.tokens - 1 else g.tokens
      count := if 2 ^ 64 ≤ t then BitVec.allOnes 64 else BitVec.ofNat 64 t
      sat := g.sat || decide (2 ^ 64 ≤ t)
      ts := max g.ts p })

/-- A tick of a gate's token bucket (R324). -/
def Gate.refill (g : Gate) : Gate :=
  { g with
    tokens := if g.depth ≠ 0 then BitVec.ofNat 32 (min g.depth (g.tokens.toNat + g.rate)) else g.tokens
    refillAt := g.refillAt + Config.nclkPerUs }

/-- A migration record (R332) for a gate whose owner's clock is `clock`. -/
def migRecord (n : Nat) (g : Gate) (clock : Nat) : List Byte :=
  let d := toBytes 8 g.count.toNat ++ toBytes 6 (wrap 48 ((g.ts : Int) - clock)) ++ toBytes 1 (b2n g.sat) ++ toBytes 1 0 ++
    toBytes 4 g.tokens.toNat ++ toBytes 2 g.waiters ++ toBytes 2 0 ++ toBytes 4 n ++ List.replicate 32 0
  d ++ toBytes 4 (crc32c d)

/-- A migration record is well made (R333). -/
def migOk (d : List Byte) : Bool :=
  let u := fieldAt d
  u 60 4 == crc32c (d.take 60) && u 14 1 / 2 == 0 && u 15 1 == 0 && u 22 2 == 0 && u 28 32 == 0

/-- A gate loaded from a record (R333). -/
def Gate.load (g : Gate) (d : List Byte) (clock : Nat) : Gate :=
  let u := fieldAt d
  { g with
    count := BitVec.ofNat 64 (u 0 8), sat := bitAt (u 14 1) 0
    tokens := BitVec.ofNat 32 (min (u 16 4) g.depth)
    ts := ((clock : Int) + sext 48 (u 8 6)).toNat
    waiters := 0, st := gValid }

namespace State

/-- The partition clock (R331). -/
def partClock (s : State) (p : Nat) : Nat := s.cores.foldl (fun m c => max m (c.2.pts.get 0 p)) 0

/-- The hub of a gate reads the partition clock from every core (R11, R331), but those of a lost die, which has none. -/
def askClock (s : State) (g : Nat) : State :=
  (((List.range s.lcoreCount).map s.coreDie).eraseDups.filter fun d => !s.lost.contains d).foldl (fun s d => s.cross (gateDie g) d) s

/-- The gate checks of a member (R326). -/
def gateBad (s : State) (g p : Nat) (may : Gate → Nat → Bool) : Bool :=
  4096 ≤ g || (s.gate g).st == gFree || !may (s.gate g) p

/-- SIGMASK names a partition. -/
def maySignal (g : Gate) (p : Nat) : Bool := bitAt g.sig.toNat p
/-- WAITMASK names a partition. -/
def mayWait (g : Gate) (p : Nat) : Bool := bitAt g.wmask.toNat p

/-- A gate member (R326): the checks by the issuing fibre, then its effect; the twin of a P2 pair takes PD or sd and a
logical time from its primary. -/
def gateMember (s : State) (a : Byte) (b : Option Byte) (may : Gate → Nat → Bool) (twin : List Nat → State → State)
    (f : State → Nat → Nat → State) : State :=
  match s.issue.actor with
  | none => s
  | some l =>
    if !s.iblk.primary then
      match s.asPrimary fun s => ([], s) with
      | none => s.retry .value
      | some (vs, s) => twin vs s
    else
      let g := s.issue.ss a
      let n := (b.map s.issue.ss).getD 0
      let s := s.cross (s.coreDie s.issue.core) (gateDie g)
      if s.gateBad g s.ipart may then s.raise [memberFault .gate l 0 g n] else f s g n

/-- PD and the logical time of the issuing member, forwarded to a twin; a member that is met acquires (R328). -/
def putGate (s : State) (pd : Nat) (v : Bool) (t : Nat) : State :=
  let s := (s.putPd pd v).forwardTo s.issue.blk s.issue.wv [b2n v, t]
  if v then s.acquireAt s.issue.blk s.issue.wv t else s

/-- What a twin does with them. -/
def twinGate (pd : Nat) (vs : List Nat) (s : State) : State :=
  let v := vs.headD 0 != 0
  let s := s.putPd pd v
  if v then s.acquireAt s.issue.blk s.issue.wv (vs.getD 1 0) else s

/-- Waits on a gate in every block learn of a change (R326, R327). -/
def wakeGate (s : State) (p : WaitKind → Option Bool) : State := s.blocks.foldl (fun s k => s.wake k.1 fun _ x => p x.kind) s

/-- The waits in progress on a gate (R322, R328). -/
def gateWaits (s : State) (g : Nat) : Nat :=
  s.blocks.foldl (fun n k => n + ((s.blockWaits k.1).filter fun x => match x.2.kind with
    | .gwait h _ _ => h == g && x.2.woken.isNone
    | _ => false).length) 0

/-- A GSIG reaches its gate (R327): the waits whose targets are met are woken. -/
def signalGate (s : State) (g n pts : Nat) : Bool × State :=
  let (v, y) := (s.gate g).signal n pts
  if !v then (false, s)
  else
    let s := (s.onGate g fun _ => y).wakeGate fun k => match k with
      | .gwait h t _ => if h = g ∧ t.toNat ≤ y.count.toNat then some true else none
      | _ => none
    (true, s.onGate g fun y => { y with waiters := s.gateWaits g })

/-- A gate is freed (R323): every wait on it and every queued member ends with PD = 0. -/
def freeGate (s : State) (g : Nat) : State :=
  (s.onGate g fun y => { y with
    st := gFree, waiters := 0, wroteSig := y.wroteSig && y.st == gFree, wroteWait := y.wroteWait && y.st == gFree }).wakeGate fun k => match k with
    | .gwait h _ _ => if h = g then some false else none
    | .gqueued h _ => if h = g then some false else none
    | _ => none

/-- A write of GCTL by partition 0 (R322, R323): the fields, then the STATE that is written. -/
def writeGctl (s : State) (g : Nat) (v : Nat) : State :=
  let s := s.onGate g fun y =>
    { y with
      depth := bits v 32 16, rate := bits v 16 16, owner := bits v 0 6
      wroteCtl := true, refillAt := if y.depth = 0 then nextRefill s.nclk else y.refillAt }
  match bits v 14 2 with
  | 0 => s.freeGate g
  | 1 => if (s.gate g).st = gFree then s.onGate g fun y => { y with st := gValid, sat := false, waiters := 0 } else s
  | _ => s

/-- A write of another word of a gate's entry (R322, R323). -/
def writeGate (s : State) (g word v : Nat) : State :=
  let y := s.gate g
  let ok := y.st != gValid
  match word with
  | 0 => s.writeGctl g v
  | 1 => s.onGate g fun y => { y with sig := BitVec.ofNat 64 v, wroteSig := true }
  | 2 => s.onGate g fun y => { y with wmask := BitVec.ofNat 64 v, wroteWait := true }
  | 3 => if ok then s.onGate g fun y => { y with count := BitVec.ofNat 64 v } else s
  | 4 => if ok then s.onGate g fun y => { y with ts := v % 2 ^ 48 } else s
  | 5 => if ok then s.onGate g fun y => { y with tokens := BitVec.ofNat 32 v } else s
  | _ => s

/-- A word of a gate's entry (R322). -/
def readGate (s : State) (g word : Nat) : Nat :=
  let y := s.gate g
  match word with
  | 0 => y.ctl
  | 1 => y.sig.toNat
  | 2 => y.wmask.toNat
  | 3 => y.count.toNat
  | 4 => y.ts
  | 5 => y.tokens.toNat
  | 6 => y.waiters % 65536
  | _ => 0

/-- Ends a gate operation with a STATUS (R331): GO reads 0. -/
def migStatus (s : State) (n : Nat) : State :=
  { s with gmig := none, gmigCtl := (s.gmigCtl &&& 0xFFF0003) ||| BitVec.ofNat 64 (n * 16) }

/-- GO is written as 1 (R331): unless an operation is under way, the one that OP, GATE and PA name starts; OP 0 and 3 do
nothing. DEDUCED (log entry 130): a write while it is under way changes the registers, not the operation. -/
def migGo (s : State) : State :=
  let c := s.gmigCtl.toNat
  if s.gmig.isSome || bits c 0 2 == 0 || bits c 0 2 == 3 then s
  else { s with gmig := some ⟨bits c 0 2, bits c 16 12, bits s.gmigPa.toNat 6 46 * 64⟩ }

/-- A gate operation is under way (R331). -/
def migDue (s : State) (op : Nat) : Bool := (s.gmig.map (·.op)) == some op

/-- The gate of the operation under way (R331). -/
def migGate (s : State) : Nat := (s.gmig.map (·.gate)).getD 0

/-- PA of its migration record (R331). -/
def migPa (s : State) : Nat := (s.gmig.map (·.pa)).getD 0

/-- The waits on one gate that are woken and began earlier (R328). -/
def gateAhead (s : State) (g order : Nat) : Bool :=
  s.blocks.any fun k => (List.range k.2.waves.length).any fun i => (s.openWaits k.1 i).any fun x => match x.kind with
    | .gwait h _ _ => h == g && x.woken == some true && x.order < order
    | _ => false

end State

/-- GSIG (R325 to R327): in TRANSIT it waits. -/
def execGsig (f : FmtAbx) (s : State) : Out :=
  let pd := pdOf f.x
  .next (s.gateMember f.a (some f.b) State.maySignal (fun vs s => s.putPd pd (vs.headD 0 != 0)) fun s g n =>
    let s := s.release 4
    if (s.gate g).st = gTransit then s.wait (.gqueued g pd)
    else
      let (v, s) := s.signalGate g (n % 2 ^ 32) (s.pts s.issue.core s.ipart)
      (s.putPd pd v).forwardTo s.issue.blk s.issue.wv [b2n v])

/-- GWAIT (R325, R326, R328). -/
def execGwait (f : FmtAbx) (s : State) : Out :=
  let pd := pdOf f.x
  .next (s.gateMember f.a (some f.b) State.mayWait (State.twinGate pd) fun s g n =>
    let y := s.gate g
    if y.st = gTransit then s.wait (.gqueued g pd)
    else if n ≤ y.count.toNat then s.putGate pd true y.ts
    else (s.onGate g fun y => { y with waiters := y.waiters + 1 }).wait (.gwait g (BitVec.ofNat 64 n) pd))

/-- GTRY (R325, R326, R328): in TRANSIT PD is 0. -/
def execGtry (f : FmtAbx) (s : State) : Out :=
  let pd := pdOf f.x
  .next (s.gateMember f.a (some f.b) State.mayWait (State.twinGate pd) fun s g n =>
    let y := s.gate g
    s.putGate pd (y.st != gTransit && n ≤ y.count.toNat) y.ts)

/-- GQRY (R325, R326, R328, R329). -/
def execGqry (f : FmtAbo) (s : State) : Out :=
  let put (v : Nat) (s : State) : State := s.onIssue fun e => e.writeS f.b v
  .next (s.gateMember f.a none (fun y p => State.maySignal y p || State.mayWait y p) (fun vs s => put (vs.headD 0) s)
    fun s g _ =>
      let y := s.gate g
      let v := match payload f.x with
        | 0 => y.status s.ipart
        | 1 => y.count.toNat
        | _ => y.ts
      (put v s).forwardTo s.issue.blk s.issue.wv [v])

/-- GWAIT_WAKE (R326, R328): a wait that is met returns in its turn with an acquire; one whose gate was freed returns with
PD = 0. -/
def execGwaitWake (blk wave : Nat) (s : State) : Out :=
  match (s.openWaits blk wave).findSome? fun x => match x.kind, x.woken with
    | .gwait g _ pd, some v => if v && s.gateAhead g x.order then none else some (x, g, pd, v)
    | .gqueued g pd, some v => some (x, g, pd, v)
    | _, _ => none with
  | some (x, g, pd, v) =>
    let t := (s.gate g).ts
    let s := s.finishBoth blk wave x none pd v [t]
    .next (if v then s.acquireAt blk wave t else s)
  | none => .next s

/-- GATE_CREATE (R323): a write of GCTL with STATE 1. -/
def execGateCreate (g : Nat) (v : B64) (s : State) : Out :=
  s.byHost fun s => if g < 4096 then s.writeGctl g (bits v.toNat 0 14 + 2 ^ 14 + bits v.toNat 16 48 * 2 ^ 16) else s

/-- GATE_FREE (R323): a write of GCTL with STATE 0. -/
def execGateFree (g : Nat) (v : B64) (s : State) : Out :=
  s.byHost fun s => if g < 4096 then s.writeGctl g (bits v.toNat 0 14 + bits v.toNat 16 48 * 2 ^ 16) else s

/-- TOKEN_REFILL (R324): every 1,600 NCLK. -/
def execTokenRefill (g : Nat) (s : State) : Out :=
  .next (if (s.gate g).refillAt ≤ s.nclk then s.onGate g Gate.refill else s)

/-- GATE_EXPORT (R331 to R333): GO with OP 1. -/
def execGateExport (s : State) : Out :=
  let g := s.migGate
  let y := s.gate g
  if !s.migDue 1 then .next s
  else if y.st ≠ gValid then .next (s.migStatus 1)
  else
    let d := migRecord g y (s.partClock y.owner)
    .next ((((s.askClock g).onGate g fun y => { y with st := gTransit }).placeStore (gateDie g) 0 s.migPa d 0).2.migStatus 0)

/-- A gate's entry is ready for an import (R333): FREE, with its masks, RATE, DEPTH and OWNER written. -/
def Gate.importable (y : Gate) : Bool := y.st == gFree && y.wroteCtl && y.wroteSig && y.wroteWait

/-- GATE_IMPORT (R331 to R333): GO with OP 2. -/
def execGateImport (s : State) : Out :=
  let g := s.migGate
  let y := s.gate g
  if !s.migDue 2 then .next s
  else if !y.importable then .next (s.migStatus 1)
  else
    let s := s.cross (gateDie g) (homeDie s.migPa)
    let d := s.mem.read s.migPa 64
    if !migOk d then .next (s.migStatus 2)
    else .next (((s.askClock g).onGate g fun y => y.load d (s.partClock y.owner)).migStatus 0)

end Sys2Proof.Machine
end

