-- ==== Sys2Proof/Machine/Link.lean ====
section
/-!
DEFINITION. UCIe modules and link ports (R335 to R339): messages and flits, the sender, the receiver, retraining.
-/

namespace Sys2Proof.Machine

/-! ### Messages and flits -/

/-- The bytes of a message (R335). -/
def Msg.bytes (m : Msg) : List Byte :=
  toBytes 1 m.kind.toNat ++ toBytes 1 (m.func.toNat + 32 * m.size.toNat) ++ toBytes 2 m.tag.toNat ++
    toBytes 2 (m.src.toNat + 4096 * (m.data.length / 16)) ++ toBytes 1 (m.part.toNat + 64 * m.ord.toNat) ++
    toBytes 1 (m.scope.toNat + 8 * b2n m.poison) ++ toBytes 8 m.addr.toNat ++ m.data

/-- The data units of a message at the head of some bytes (R335). -/
def msgUnits (d : List Byte) : Nat := bits (fieldAt d 4 2) 12 4

/-- The message at the head of some bytes (R335). -/
def Msg.of (d : List Byte) : Msg :=
  let u := fieldAt d
  { kind := BitVec.ofNat 8 (u 0 1), func := BitVec.ofNat 5 (u 1 1), size := BitVec.ofNat 3 (u 1 1 / 32)
    tag := BitVec.ofNat 16 (u 2 2), src := BitVec.ofNat 12 (u 4 2), part := BitVec.ofNat 6 (u 6 1)
    ord := BitVec.ofNat 2 (u 6 1 / 64), scope := BitVec.ofNat 3 (u 7 1), poison := bitAt (u 7 1) 3
    addr := BitVec.ofNat 64 (u 8 8), data := (d.drop 16).take (16 * msgUnits d) }

/-- The messages of a flit's payload (R335): a KIND of zero ends them. -/
def msgsOf : Nat → List Byte → List Msg
  | 0, _ => []
  | n + 1, d =>
    let k := 16 + 16 * msgUnits d
    if d.length < 16 ∨ fieldAt d 0 1 = 0 ∨ d.length < k then [] else Msg.of d :: msgsOf n (d.drop k)

/-- The messages that go into one flit, in the order in which they became ready, and those that stay (R335). -/
def packMsgs : Nat → List Msg → List Msg × List Msg
  | _, [] => ([], [])
  | room, m :: r =>
    let k := 16 + m.data.length
    if room < k then ([], m :: r) else let (x, y) := packMsgs (room - k) r; (m :: x, y)

/-- A flit (R336). -/
def flitBytes (kind seq ack : Nat) (ms : List Msg) : List Byte :=
  let lo := toBytes 4 (seq % 4096 + kind * 4096 + ack % 4096 * 65536)
  let d := ms.flatMap Msg.bytes
  let pay := d ++ List.replicate (248 - d.length) 0
  lo ++ toBytes 4 (crc32c (lo ++ pay)) ++ pay

/-- The CRC of a flit holds (R336). -/
def flitOk (d : List Byte) : Bool := d.length == 256 && fieldAt d 4 4 == crc32c (d.take 4 ++ d.drop 8)
/-- SEQ of a flit. -/
def flitSeq (d : List Byte) : Nat := bits (fieldAt d 0 4) 0 12
/-- KIND of a flit: 0 DATA, 1 IDLE, 2 NAK. -/
def flitKind (d : List Byte) : Nat := bits (fieldAt d 0 4) 12 4
/-- ACK of a flit. -/
def flitAck (d : List Byte) : Nat := bits (fieldAt d 0 4) 16 12

/-- An ACK covers a sequence number. -/
def covered (ack seq : Nat) : Bool := (ack + 4096 - seq % 4096) % 4096 < 2048

/-! ### Ends -/

namespace LinkEnd

/-- ACK that an end sends: E − 1. -/
def ack (e : LinkEnd) : Nat := (e.expect + 4095) % 4096

/-- An ACK reaches a sender (R337). -/
def acked (e : LinkEnd) (a : Nat) : LinkEnd :=
  { e with
    replay := e.replay.filter fun x => !covered a x.1
    resend := e.resend.filter fun d => !covered a (flitSeq d) }

/-- A NAK reaches a sender (R337): every held flit is sent again. -/
def nakked (e : LinkEnd) (a : Nat) : LinkEnd := let e := e.acked a; { e with resend := e.replay.map (·.2) }

/-- The receiver asks again for E, unless it has done so (R337). -/
def askAgain (e : LinkEnd) : LinkEnd := if e.nakOut then e else { e with nakOut := true, nakDue := true }

/-- A DATA flit reaches a receiver (R337). -/
def data (e : LinkEnd) (d : List Byte) : LinkEnd :=
  let seq := flitSeq d
  if seq = e.expect then
    { e with expect := (e.expect + 1) % 4096, nakOut := false, nakDue := false, rcvd := e.rcvd ++ msgsOf 15 (d.drop 8) }
  else if (e.expect + 4096 - seq) % 4096 ≤ 2048 then e
  else e.askAgain

/-- What an end sends in a flit slot (R337), with a replay buffer of `room` flits. -/
def slot (e : LinkEnd) (room : Nat) : LinkEnd :=
  if e.nakDue then { e with nakDue := false, wire := e.wire ++ [flitBytes 2 e.next e.ack []] }
  else match e.resend with
    | d :: r => { e with resend := r, wire := e.wire ++ [d] }
    | [] =>
      let (ms, rest) := packMsgs 248 e.ready
      if ms.isEmpty || room ≤ e.replay.length then { e with wire := e.wire ++ [flitBytes 1 e.next e.ack []] }
      else
        let d := flitBytes 0 e.next e.ack ms
        { e with next := (e.next + 1) % 4096, replay := e.replay ++ [(e.next, d)], ready := rest, wire := e.wire ++ [d] }

/-- An end after a retraining (R338): every held flit is sent again from the oldest. -/
def retrained (e : LinkEnd) : LinkEnd := { e with resend := e.replay.map (·.2), nakOut := false, nakDue := false, wire := [] }

end LinkEnd

/-- The number of a link in the table: UM n is n, LP p is 32 + p. -/
def portLink (p : Nat) : Nat := 32 + p
/-- The end of a link port on this device. -/
def portEnd (p : Nat) : Nat := 64 + p
/-- The link of an end. -/
def linkOf (e : Nat) : Nat := if e < 26 then e / 2 else e - 32
/-- The link is a port. -/
def isPort (k : Nat) : Bool := 32 ≤ k
/-- The ends of a link on this device. -/
def endsOf (k : Nat) : List Nat := if isPort k then [k + 32] else [2 * k, 2 * k + 1]
/-- Flits in a replay buffer (R337, R339). -/
def replayRoom (k : Nat) : Nat := if isPort k then 256 else 128
/-- 1 ms in NCLK (R338, R357). -/
def msNclk : Nat := 1600000

namespace State

/-- A module or port. -/
def link (s : State) (k : Nat) : LinkSt := s.links.get {} k
/-- Changes a module or port. -/
def onLink (s : State) (k : Nat) (f : LinkSt → LinkSt) : State := { s with links := s.links.insert k (f (s.link k)) }
/-- An end. -/
def end_ (s : State) (e : Nat) : LinkEnd := s.ends.get {} e
/-- Changes an end. -/
def onEnd (s : State) (e : Nat) (f : LinkEnd → LinkEnd) : State := { s with ends := s.ends.insert e (f (s.end_ e)) }

/-- The word of UM_STAT or LP_STAT (R338, R339). -/
def linkStat (s : State) (k : Nat) : Nat :=
  let x := s.link k
  min x.crcErr 65535 * 2 ^ 32 + min x.retrains 255 * 2 ^ 24 + x.st * 2 ^ 16 +
    (if isPort k then x.peer.toNat * 2 ^ 8 else 0) + b2n x.half * 2 ^ 7 + (if isPort k then 0 else b2n (x.half && x.upper) * 2 ^ 6)

/-- A fatal error (R277, R359): FATAL keeps the first cause, and the device is viral. -/
def goViral (s : State) (cause unit : Nat) : State :=
  { s with
    viral := true
    fatal := if s.fatal.toNat % 256 ≠ 0 then s.fatal else BitVec.ofNat 32 (cause % 256 + unit % 256 * 256) }

/-- A flit whose CRC fails reaches an end (R337, R338). -/
def crcFail (s : State) (e : Nat) : State :=
  (s.onLink (linkOf e) fun x =>
    { x with crcErr := x.crcErr + 1, fails := (x.fails.filter fun t => s.nclk < t + msNclk) ++ [s.nclk] }).onEnd e LinkEnd.askAgain

/-- A flit reaches an end (R337): on a module it comes off the wire of the other end. Nothing passes while the link is not
up. -/
def arrive (s : State) (e : Nat) (d : List Byte) : State :=
  let s := if e < 26 then s.onEnd (if e % 2 = 0 then e + 1 else e - 1) fun x => { x with wire := x.wire.drop 1 } else s
  if (s.link (linkOf e)).st ≠ 0 then s
  else if !flitOk d then s.crcFail e
  else match flitKind d with
    | 0 => s.onEnd e fun x => (x.acked (flitAck d)).data d
    | 1 => s.onEnd e fun x => x.acked (flitAck d)
    | 2 => s.onEnd e fun x => x.nakked (flitAck d)
    | _ => s

/-- Puts a message on a link (R335). -/
def send (s : State) (e : Nat) (m : Msg) : State := s.onEnd e fun x => { x with ready := x.ready ++ [m] }

/-- A retraining begins (R338): the third CRC failure within 1 ms. -/
def retrainDue (s : State) (k : Nat) : Bool := (s.link k).st == 0 && 3 ≤ (s.link k).fails.length

/-- An end has something to send. -/
def slotDue (s : State) (e : Nat) : Bool :=
  let x := s.end_ e
  (s.link (linkOf e)).st == 0 && (x.nakDue || !x.resend.isEmpty || (!x.ready.isEmpty && x.replay.length < replayRoom (linkOf e)))

end State

/-- DATA_FLIT (R337). -/
def execDataFlit (e : Nat) (flit : List Byte) (s : State) : Out := .next (s.arrive e flit)

/-- IDLE_FLIT (R337). -/
def execIdleFlit (e : Nat) (flit : List Byte) (s : State) : Out := .next (s.arrive e flit)

/-- NAK_FLIT (R337). -/
def execNakFlit (e : Nat) (flit : List Byte) (s : State) : Out := .next (s.arrive e flit)

/-- FLIT_SLOT (R335, R337): nothing is sent while the link is not up; in the viral state a port sends link maintenance
only (R277). -/
def execFlitSlot (e : Nat) (s : State) : Out :=
  if (s.link (linkOf e)).st ≠ 0 then .next s
  else if s.viral && isPort (linkOf e) then
    .next (s.onEnd e fun x => { ({ x with resend := [] } : LinkEnd).slot 0 with resend := x.resend })
  else .next (s.onEnd e fun x => x.slot (replayRoom (linkOf e)))

/-- RETRAIN (R338): traffic stops, the replay buffers are kept. -/
def execRetrain (link : Nat) (s : State) : Out :=
  .next (if s.retrainDue link then
      (endsOf link).foldl (fun s e => s.onEnd e fun x => { x with wire := [] })
        (s.onLink link fun x => { x with st := 1, retrains := x.retrains + 1, fails := [], attempts := 0 })
    else s)

end Sys2Proof.Machine
end

