-- ==== Sys2Proof/Machine/Abacus.lean ====
section
/-!
DEFINITION. The abacus units (R122, R343, R344): partial sums, the cells in which units merge them, the records that carry sums and
elements from device to device, and requests over a link port (R258).
-/

namespace Sys2Proof.Machine

/-- Bytes of an element (R344, R346). -/
def elemBytes (fmt : Nat) : Nat := ([4, 2, 2, 4, 8] : List Nat).getD fmt 4
/-- The format has an exact float sum. -/
def isFloatFmt (fmt : Nat) : Bool := fmt ≤ 2
/-- The float format of a collective. -/
def collFmt (fmt : Nat) : FFmt := ([f32, b16, f16] : List FFmt).getD fmt f32

namespace AbCell

/-- The contribution of one member (R119, R346). -/
def one (fmt v : Nat) (poison : Bool) : AbCell :=
  { x := if isFloatFmt fmt then ({} : Xa).add ((collFmt fmt).read v) else { x := v }, got := 1, poison := poison }

/-- Two partial sums merged (R119, R343). -/
def merge (fmt : Nat) (c d : AbCell) : AbCell :=
  { x := if isFloatFmt fmt then c.x.merge d.x else { c.x with x := c.x.x + d.x.x }
    got := c.got + d.got, poison := c.poison || d.poison }

/-- The bits of an integer sum, modulo its width (R346). -/
def raw (fmt : Nat) (c : AbCell) : Nat := wrap (8 * elemBytes fmt) c.x.x

/-- The element that a sum gives (R120, R346), with its flags. -/
def value (fmt : Nat) (c : AbCell) : CollElem :=
  if isFloatFmt fmt then let r := c.x.round (collFmt fmt); ⟨r.v, r.fl, c.poison⟩ else ⟨c.raw fmt, 0, c.poison⟩

/-- A unit forwards the sum as a full record (R122, R343). -/
def isFull (fmt : Nat) (c : AbCell) : Bool := isFloatFmt fmt && decide (16 < c.x.record.length)

end AbCell

/-! ### Records -/

/-- A REC message (R335) of `n` elements from `e` on. DESIGN CHOICE (log entry 107): FUNC[0] tells an element from a sum;
FUNC[4:1], SIZE, ORD and SCOPE hold `k`, the contributions of a sum or the flags of an element; PART holds n − 1. -/
def recMsg (elem : Bool) (num e n k : Nat) (poison : Bool) (d : List Byte) : Msg :=
  { kind := 5, func := BitVec.ofNat 5 (b2n elem + 2 * (k % 16)), size := BitVec.ofNat 3 (k / 16), tag := 0, src := 0
    part := BitVec.ofNat 6 (n - 1), ord := BitVec.ofNat 2 (k / 128), scope := BitVec.ofNat 3 (k / 512), poison := poison
    addr := BitVec.ofNat 64 (num * 2 ^ 32 + e), data := d }

/-- The record holds elements. -/
def recIsElem (m : Msg) : Bool := bitAt m.func.toNat 0
/-- The contributions or the flags that a record tells. -/
def recInfo (m : Msg) : Nat := bits m.func.toNat 1 4 + 16 * m.size.toNat + 128 * m.ord.toNat + 512 * m.scope.toNat
/-- Collective number of a record. -/
def recNum (m : Msg) : Nat := bits m.addr.toNat 32 32
/-- Its first element. -/
def recElem (m : Msg) : Nat := bits m.addr.toNat 0 32

/-- Raw elements that go in one 16-byte unit (R344): those that follow each other in it, with the same flags and poison. -/
def unitRuns (k : Nat) : List (Nat × CollElem) → List (Nat × List CollElem)
  | [] => []
  | (e, x) :: r => match unitRuns k r with
    | (f, y :: ys) :: q =>
      if f = e + 1 ∧ f / k = e / k ∧ y.fl = x.fl ∧ y.poison = x.poison then (e, x :: y :: ys) :: q
      else (e, [x]) :: (f, y :: ys) :: q
    | l => (e, [x]) :: l

/-- Raw elements as messages (R344): 2, 4 or 8 bytes for each. -/
def rawMsgs (elem : Bool) (num fmt : Nat) (xs : List (Nat × CollElem)) : List Msg :=
  let n := elemBytes fmt
  (unitRuns (16 / n) xs).map fun r =>
    let y := r.2.headD {}
    let d := r.2.flatMap fun x => toBytes n x.v
    recMsg elem num r.1 r.2.length y.fl y.poison (d ++ List.replicate (16 - d.length) 0)

/-- Partial sums as messages (R122, R343, R344): a float's as a record of DLEN 1 or 3, an integer's as raw elements. -/
def sumMsgs (num fmt : Nat) (xs : List (Nat × AbCell)) : List Msg :=
  if isFloatFmt fmt then xs.map fun x => recMsg false num x.1 1 x.2.got x.2.poison x.2.x.record
  else rawMsgs false num fmt (xs.map fun x => (x.1, ⟨x.2.raw fmt, x.2.got, x.2.poison⟩))

/-- The raw elements of a message. -/
def recElems (fmt : Nat) (m : Msg) : List (Nat × CollElem) :=
  let n := elemBytes fmt
  (List.range (min (m.part.toNat + 1) (16 / n))).map fun i => (recElem m + i, ⟨fieldAt m.data (n * i) n, recInfo m, m.poison⟩)

/-- The partial sums of a message. -/
def recSums (fmt : Nat) (m : Msg) : List (Nat × AbCell) :=
  if isFloatFmt fmt then [(recElem m, ⟨Xa.ofRecord m.data, recInfo m, m.poison⟩)]
  else (recElems fmt m).map fun x => (x.1, ⟨{ x := (x.2.v : Int) }, x.2.fl, x.2.poison⟩)

namespace State

/-- An abacus unit. -/
def unit (s : State) (u : Nat) : Abacus := s.abacus.get {} u
/-- Changes an abacus unit. -/
def onUnit (s : State) (u : Nat) (f : Abacus → Abacus) : State := { s with abacus := s.abacus.insert u (f (s.unit u)) }

/-- A unit forwards a partial sum (R343): a full record is counted. -/
def unitPass (s : State) (fmt u : Nat) (c : AbCell) : State :=
  if c.isFull fmt then s.onUnit u fun a => { a with xfull := a.xfull + 1 } else s

/-- A partial sum reaches a unit that expects `want` contributions for its key (R343): it is merged into the cell that the
unit holds, or opens one while the unit has fewer than 512 and expects more; what the unit forwards, a cell that is
complete or a sum that found no free cell, is the answer. -/
def unitTake (s : State) (fmt u want key : Nat) (c : AbCell) : Option AbCell × State :=
  let a := s.unit u
  let before := a.passed.get 0 key
  match a.cells.find key with
  | some d =>
    let d := AbCell.merge fmt d c
    if want ≤ before + d.got then
      (some d, (s.onUnit u fun a => { a with cells := a.cells.erase key, passed := a.passed.erase key }).unitPass fmt u d)
    else (none, s.onUnit u fun a => { a with cells := a.cells.insert key d })
  | none =>
    if before + c.got < want && a.cells.length < 512 then (none, s.onUnit u fun a => { a with cells := a.cells.insert key c })
    else
      (some c, (s.onUnit u fun a => { a with
        passed := if want ≤ before + c.got then a.passed.erase key else a.passed.insert key (before + c.got) }).unitPass fmt u c)

/-- A partial sum passes the units of its way in turn, each with what it expects, as far as they forward it. -/
def unitsTake (fmt key : Nat) : List (Nat × Nat) → AbCell → State → Option AbCell × State
  | [], c, s => (some c, s)
  | (u, want) :: r, c, s => match s.unitTake fmt u want key c with
    | (none, s) => (none, s)
    | (some c, s) => unitsTake fmt key r c s

/-! ### Requests over a link port -/

/-- Sends a request of a source over a link port, under its next tag (R258); it stays unacknowledged until its response
comes. -/
def sendRequest (s : State) (src p : Nat) (m : Nat → Msg) : Nat × State :=
  let (t, s) := s.nextTag src (portSlice p)
  let key := tagKey src (portSlice p)
  let x := s.tags.get {} key
  (t, ({ s with tags := s.tags.insert key { x with unacked := x.unacked ++ [(t, s.nclk, m t)] } } : State).send (portEnd p) (m t))

/-- A port's abacus unit sends what waits at it, as far as at most 64 of its requests are unacknowledged (R258). -/
def pumpPort (s : State) (p : Nat) : State :=
  let u := portSlice p
  let room := 64 - (s.tags.get {} (tagKey (unitSrc u) u)).unacked.length
  ((s.unit u).out.take room).foldl
    (fun s m => (s.sendRequest (unitSrc u) p fun t => { m with tag := BitVec.ofNat 16 t, src := BitVec.ofNat 12 (unitSrc u) }).2)
    (s.onUnit u fun a => { a with out := a.out.drop room })

/-- A port's abacus unit has records to send. -/
def sendRecs (s : State) (p : Nat) (ms : List Msg) : State :=
  (s.onUnit (portSlice p) fun a => { a with out := a.out ++ ms }).pumpPort p

end State

end Sys2Proof.Machine
end

