-- ==== Sys2Proof/Machine/Remote.lean ====
section
/-!
DEFINITION. Requests and responses (R258, R339 to R342, R349 to R351): remote windows and RATOM, what a home and a link port answer, the
way of a message from die to die.
-/

namespace Sys2Proof.Machine

/-- KIND of READ (R335). -/
def kRead : Nat := 1
/-- WRITE. -/
def kWrite : Nat := 2
/-- ATOM. -/
def kRmw : Nat := 3
/-- RSP. -/
def kRsp : Nat := 4
/-- REC. -/
def kRec : Nat := 5
/-- CTRL. -/
def kCtrl : Nat := 6

/-- The source number that a link port's request of a peer's source has at a home here (R258, R340). -/
def peerSource (port src : Nat) : Nat := 4096 * (port + 1) + src

/-- A response of a peer that tells of a fault has its class in ADDR[55:48]. -/
def rspClass (m : Msg) : Nat := bits m.addr.toNat 48 8

namespace State

/-! ### Remote windows and RATOM -/

/-- Two registers of a remote window of a partition (R340). -/
def window (s : State) (p k : Nat) : Nat × Nat :=
  (((s.part p).rwin.get 0 (2 * k)).toNat, ((s.part p).rwin.get 0 (2 * k + 1)).toNat)

/-- The window may be used: EN, and a port that exists (R340). -/
def windowOn (w : Nat × Nat) : Bool := bitAt w.2 0 && bits w.2 2 4 ≤ 11
/-- PORT of a window. -/
def windowPort (w : Nat × Nat) : Nat := bits w.2 2 4
/-- Bytes of a window. -/
def windowSize (w : Nat × Nat) : Nat := 2 ^ max 16 (bits w.2 32 6)

/-- The port is down (R339). -/
def isDown (s : State) (p : Nat) : Bool := (s.link (portLink p)).st == 2

/-- The copy of an outstanding RATOM of a core by port and tag (R342). -/
def remoteCopy (s : State) (core port tag : Nat) : Option (Nat × Copy) :=
  (s.core core).copies.find? fun x => x.2.fn == 0x19 && x.2.inFlight && x.2.key == port * 65536 + tag

/-- The record of a RATOM that ends faulted (R342). -/
def remoteRecord (s : State) (c : Copy) (f : FaultInfo) : State :=
  s.waveRecord c.blk c.wave false
    { f with lane := c.lane, pc := c.pc, wslot := c.wslot, word := c.word, extw := BitVec.ofNat 32 (0x7F000000 + c.ext.toNat) }
    none

/-- The wait of a RATOM with RET = 1 on a copy slot. -/
def remoteWait (s : State) (b w slot : Nat) : Option Waiting :=
  ((s.wave? b w).map (·.waits)).bind fun l => l.find? fun x => match x.kind with
    | .ratom k _ _ => k == slot
    | _ => false

/-- A RATOM ends (R342): `old` the value that came back, none where it faulted. -/
def endRemote (s : State) (core slot : Nat) (c : Copy) (old : Option Nat) (ts : Nat) : State :=
  let s := match s.remoteWait c.blk c.wave slot with
    | some x => match x.kind with
      | .ratom _ sd pd =>
        let v := old.getD 0
        let s := s.finishWait c.blk c.wave x (old.map fun v => (sd, v)) (some (pd, old.isSome))
        let s := s.forwardTo c.blk c.wave [c.handle slot, b2n old.isSome, v, ts]
        if old.isSome then s.acquireAt c.blk c.wave ts else s
      | _ => s
    | none => s
  s.finishCopy core slot (if old.isSome then .done else .faulted)

/-- A response over a link port reaches the requester here (R258, R351): the first one for a tag of a request that is
outstanding counts. It ends a RATOM, or acknowledges a record of the port's abacus unit. -/
def takeRemote (s : State) (port : Nat) (m : Msg) : State :=
  let core := m.src.toNat
  let key := tagKey core (portSlice port)
  let t := s.tags.get {} key
  if t.unacked.any fun x => x.1 == m.tag.toNat then
    let s := { s with tags := s.tags.insert key { t with unacked := t.unacked.filter fun x => x.1 != m.tag.toNat } }
    match s.remoteCopy core port m.tag.toNat with
    | none => s.pumpPort port
    | some (slot, c) =>
      if rspClass m ≠ 0 then
        let f : FaultInfo := { cls := FClass.ofCode (rspClass m), kind := .atomic, addr := (c.a.getD 0 0).toNat }
        (s.remoteRecord c f).endRemote core slot c none 0
      else
        let s := s.endRemote core slot c (some (ofBytes (m.data.take 8))) (bits m.addr.toNat 0 48)
        if m.poison && bitAt c.ext.toNat 12 then
          s.waveKill c.blk c.wave false { cls := .poison, kind := .atomic, addr := (c.a.getD 0 0).toNat }
        else s
  else s

/-- The message of a RATOM (R335, R342, R350). -/
def remoteMsg (core tag part fn size va d d2 p : Nat) : Msg :=
  rmwMsg core tag part 1 4 fn size va d d2 p

/-! ### What a home answers -/

/-- Sectors leave over a link port (R349): one that fails its check is poisoned, and the record names the PA. -/
def egress (s : State) (part pa n : Nat) : State :=
  (sectorsOf pa n).foldl (fun s k =>
    if (s.sector k).bad then (s.poisonHome k).e2eRecord part 0 (128 * k) .none else s) s

/-- READ of a sector (R249, R335): its data, its check word in a ninth unit, its poison. DESIGN CHOICE (log entry 109):
the request may carry its pts as R350 lays it out. -/
def serveRead (s : State) (m : Msg) (pa : Nat) : Msg × State :=
  let k := pa / 128
  let s := s.homeLease pa (ofBytes ((m.data.drop 8).take 6))
  ({ rspMsg m (s.leaseOf pa).1 (s.mem.read (128 * k) 128 ++ toBytes 4 (s.checkOf k) ++ toBytes 12 0) with
     poison := (s.sector k).poison }, s)

/-- WRITE (R249, R258, R335): a whole sector with its check word, or 2^SIZE bytes laid out as R350 lays out an operand
(DESIGN CHOICE, log entry 109), applied once. Over a link the check word is made here (R349); inside the package one that
does not hold poisons the sector. -/
def serveWrite (s : State) (src : Nat) (m : Msg) (pa : Nat) (link : Bool) : Msg × State :=
  let sector := m.data.length == 144
  let a := if sector then pa / 128 * 128 else pa
  let d := if sector then m.data.take 128 else m.data.take (2 ^ m.size.toNat)
  let p := if sector then 0 else ofBytes ((m.data.drop 8).take 6)
  let key := tagKey src (sliceOf pa)
  match (s.tags.get {} key).window.find? fun w => w.tag == m.tag.toNat with
  | some w => (rspMsg m w.ts (toBytes 16 0), s)
  | none =>
    let s := s.checkMerge m.part.toNat 0 a a d.length [] .none
    let (ts, s) := s.homeStore a d p
    let s := s.keepTag key ⟨m.tag.toNat, [], ts, m.part.toNat⟩
    let fails := sector && !link && checkWord a d != fieldAt m.data 128 4
    let s := if link then { s with meta_ := (sectorsOf a d.length).foldl (fun t k =>
        t.set {} k { t.get {} k with origin := 2 }) s.meta_ } else s
    let s := if fails || m.poison then (sectorsOf a d.length).foldl poisonHome s else s
    (rspMsg m ts (toBytes 16 0), if fails then s.e2eRecord m.part.toNat 0 a .none else s)

/-- A home answers a READ, a WRITE or an ATOM for a physical address (R249, R257, R350). -/
def serve (s : State) (src : Nat) (m : Msg) (pa : Nat) (link : Bool) : Msg × State :=
  if m.kind.toNat = kRead then s.serveRead m pa
  else if m.kind.toNat = kWrite then s.serveWrite src m pa link
  else
    let s := if link then s else s.checkMerge m.part.toNat 0 pa pa (rmwSpan m.func.toNat m.size.toNat).1 [] .none
    let (r, _, s) := s.homeAtomOf src { m with addr := BitVec.ofNat 64 pa }
    (r, s)

/-- The access for which a link port translates a peer's request (R340). -/
def remoteAccess (m : Msg) : Access :=
  if m.kind.toNat = kRead then Access.load else if m.kind.toNat = kWrite then Access.store else rmwAccess m.func.toNat

/-- The peer's translation of a remote request (R340). -/
def remoteReach (s : State) (m : Msg) : Except WalkFault Trans × State :=
  s.walkAccess m.part.toNat (remoteAccess m) m.addr.toNat

/-- What a link port of this device answers to a request of a peer (R340): the translation, then the step at the home, applied
once; egress marks data whose check word fails (R349). -/
def remoteApply (s : State) (port : Nat) (m : Msg) : Msg × State :=
  match s.remoteReach m with
  | (.error f, s) => (({ rspMsg m 0 [] with addr := BitVec.ofNat 64 (f.cls.code * 2 ^ 48), data := toBytes 16 0 } : Msg), s)
  | (.ok t, s) =>
    let s := s.cross (portDie port) (homeDie t.pa)
    let n := if m.kind.toNat = kRead then 1 else 2 ^ m.size.toNat
    let s := if m.kind.toNat = kWrite then s else s.egress m.part.toNat t.pa n
    let bad := m.kind.toNat != kWrite && s.poisoned t.pa n
    let (r, s) := s.serve (peerSource port m.src.toNat) m t.pa true
    ({ r with poison := bad }, s)

/-! ### From die to die -/

/-- The die of a source (R258). -/
def srcDie (s : State) (n : Nat) : Nat :=
  if n < 0x100 then s.coreDie n
  else if n < 0x200 then s.coreDie (n - 0x100)
  else if n < 0x300 then cpDie (n - 0x200)
  else if n < 0x400 then portDie (n - 0x300)
  else unitDie (n - 0x400)

/-- Puts a message on the first module of its route (R11); one that is on its die already takes none. -/
def post (s : State) (a b : Nat) (m : Msg) : State :=
  match route a b with
  | [] => s
  | k :: _ => s.send (endAt k a) m

/-- A home on a die answers a request, and the response goes to its source (R350). -/
def answerAt (s : State) (die : Nat) (m : Msg) : State :=
  let (r, s) := s.serve m.src.toNat m m.addr.toNat false
  s.post die (s.srcDie m.src.toNat) r

/-- A READ, WRITE, ATOM or RSP that a module has brought to a die goes on toward its home or its source (R11), or has come
there: a request is answered. A response there finds no request outstanding, since one inside the package is answered in
the step that makes it, and is discarded (R351). -/
def onModule (s : State) (die : Nat) (m : Msg) : State :=
  let goal := if m.kind.toNat = kRsp then s.srcDie m.src.toNat else homeDie m.addr.toNat
  if goal ≠ die then s.post die goal m
  else if m.kind.toNat = kRsp then s
  else s.answerAt die m

/-- A request that has not been acknowledged for 2^16 NCLK is sent again with its tag (R258). -/
def resend (s : State) (src slice tag : Nat) : State :=
  let key := tagKey src slice
  let t := s.tags.get {} key
  match t.unacked.find? (fun (x : Nat × Nat × Msg) => x.1 == tag) with
  | none => s
  | some (_, at_, m) =>
    if s.nclk < at_ + Config.resendNclk then s
    else
      let s := { s with tags := s.tags.insert key { t with
        unacked := t.unacked.map fun (x : Nat × Nat × Msg) => if x.1 = tag then (tag, s.nclk, m) else x } }
      s.send (portEnd (slice - 160)) m

/-- The operations that need a port that is down end faulted (R339, R342); what they had still to send, and what the
port's abacus unit had, is dropped. -/
def portDown (s : State) (p : Nat) : State :=
  let s := s.onLink (portLink p) fun x => { x with st := 2 }
  let s := s.onEnd (portEnd p) fun x => { x with ready := x.ready.filter fun m => m.kind.toNat == kRsp }
  let s := s.onUnit (portSlice p) fun a => { a with out := [] }
  let s := { s with tags := s.tags.map fun (t : Nat × TagWin) => if t.1 % 256 = portSlice p then (t.1, { t.2 with unacked := [] }) else t }
  s.cores.foldl (fun (s : State) (k : Nat × CoreSt) => k.2.copies.foldl (fun (s : State) (y : Nat × Copy) =>
    if y.2.fn == 0x19 && y.2.inFlight && y.2.key / 65536 == p then
      (s.remoteRecord y.2 { cls := .invalid, addr := p }).endRemote k.1 y.1 y.2 none 0
    else s) s) s

end State

/-- The data operands of a RATOM (R341). -/
def ratomData (e : Issue) (f : FmtAbx) : Nat × Nat :=
  (e.old.readS (f.b.toNat % 64), e.old.readS ((f.b.toNat + 1) % 64))

/-- A RATOM that has a copy slot (R342): its request goes out over the port; where the port is down it ends faulted at
once (R339). -/
def State.startRemote (s : State) (f : FmtAbx) (slot l port part va d d2 : Nat) : State :=
  let x := f.x.p.toNat
  let e := s.issue
  let ret := bitAt x 12
  let pd := pdOf f.x
  let id := (s.core e.core).starts
  let c := { s.newCopy 0x19 l 3 f.x.p [BitVec.ofNat 64 va] [BitVec.ofNat 64 d] with st := .running }
  let h := ({ c with seq := id } : Copy).handle slot
  let s := s.onIssue fun e => e.putLatch 2 h
  if s.isDown port then
    let s := (s.putCopy e.core slot { c with st := .faulted }).remoteRecord c { cls := .invalid, addr := port }
    if ret then (s.putPd pd false).forwardTo e.blk e.wv [h, 0, 0, 0] else s.forwardTo e.blk e.wv [h]
  else
    let (tag, s) := (s.cross (s.coreDie e.core) (portDie port)).sendRequest e.core port fun t =>
      State.remoteMsg e.core t part (bits x 15 5) (bits x 13 2) va d d2 (s.pts e.core s.ipart)
    let s := s.putCopy e.core slot { c with key := port * 65536 + tag }
    if ret then s.wait (.ratom slot (scalarOf f.b) pd)
    else
      let b := Wave.batch s.issue.cur 3
      (s.onIssue fun e => { e with cur := e.cur.setBatch 3 { b with opened := b.opened ++ [id] } }).forwardTo e.blk e.wv [h]

/-- RATOM (R341, R342). -/
def execRatom (f : FmtAbx) (s : State) : Out :=
  let x := f.x.p.toNat
  let e := s.issue
  let ret := bitAt x 12
  let size := bits x 13 2
  match e.actor with
  | none => .next (s.onIssue fun e => e.clearLatch 2)
  | some l =>
    let off := e.ss f.a
    let (d, d2) := ratomData e f
    let w := s.window s.ipart (bits x 20 4)
    let va := (bits w.1 16 48 * 65536 + off) % 2 ^ 64
    let bad (c : FClass) : Out :=
      .next (s.raise [{ State.memberFault c l va off d with kind := .atomic }])
    if !State.windowOn w then bad .permission
    else if State.windowSize w ≤ off then bad .invalid
    else if off % 2 ^ size ≠ 0 then bad .alignment
    else if s.iblk.det then bad .det
    else
      let s := s.release 4
      if !s.iblk.primary then
        match s.asPrimary fun s => ([], s) with
        | none => .next (s.retry .value)
        | some (vs, s) =>
          let s := s.onIssue fun e => e.putLatch 2 (vs.getD 0 0)
          if !ret then .next s
          else
            let ok := vs.getD 1 0 != 0
            let s := s.putPd (pdOf f.x) ok
            .next (if ok then (s.onIssue fun e => e.writeS f.b (vs.getD 2 0)).acquireAt e.blk e.wv (vs.getD 3 0) else s)
      else
        let (n, s) := s.slotOrder
        match if s.startsBefore e.core n = 0 then s.freeSlot e.core else none with
        | none => .next (s.retry (.slot n))
        | some slot =>
          .next (s.startRemote f slot l (State.windowPort w) (bits w.2 18 6) va (d % 2 ^ (8 * 2 ^ size)) (d2 % 2 ^ (8 * 2 ^ size)))

/-- HOME_ATOM (R257, R258, R350): an ATOM, RED or ARV request is applied once, and its response goes to its source. -/
def execHomeAtom (m : Msg) (s : State) : Out := .next (s.answerAt (homeDie m.addr.toNat) { m with kind := 3 })

/-- RSP (R258, R351): the first response for a tag of a request that is outstanding toward the home slice, which for one
over a link is counted under its port, completes it; any other is discarded. -/
def execRsp (r : Response) (s : State) : Out :=
  .next (if 160 ≤ r.slice ∧ r.slice < 172 then s.takeRemote (r.slice - 160) r.msg else s)

/-- REQUEST_RESEND (R258). -/
def execRequestResend (src slice : Nat) (tag : B16) (s : State) : Out := .next (s.resend src slice tag.toNat)

/-- REMOTE_REQUEST (R340). -/
def execRemoteRequest (port : Nat) (m : Msg) (s : State) : Out :=
  let (r, s) := s.remoteApply port m
  .next (s.send (portEnd port) r)

end Sys2Proof.Machine
end

