-- ==== Sys2Proof/Machine/Coll.lean ====
section
/-!
DEFINITION. Collectives (R343 to R347): the group table, the members' starts, the way of a contribution to its final reducer, the landing
of elements, faults, and what becomes of the messages that an end has received.
-/

namespace Sys2Proof.Machine

/-- A collective of operation 0 or 1 reduces; 2 and 3 gather and broadcast. -/
def CollKey.reduces (k : CollKey) : Bool := k.op ≤ 1

/-- Elements that a collective computes (R346): `n` members. -/
def CollKey.total (k : CollKey) (n : Nat) : Nat := if k.op = 2 then n * k.count else k.count

/-- C of R346. -/
def CollKey.share (k : CollKey) (n : Nat) : Nat := k.count / max n 1

/-- The member whose DST first receives element `e` (R346): it reduces finally there; of a gather or a broadcast, the member
that has the element. -/
def CollKey.home (k : CollKey) (n e : Nat) : Nat :=
  match k.op with
  | 0 => 0
  | 1 => e / max (k.share n) 1
  | 2 => e / max k.count 1
  | _ => k.root

/-- Where in SRC of a member that has element `e` it lies. -/
def CollKey.srcIndex (k : CollKey) (e : Nat) : Nat := if k.op = 2 then e % max k.count 1 else e

/-- The members that receive element `e`. -/
def CollKey.takers (k : CollKey) (n e : Nat) : List Nat := if k.op = 1 then [k.home n e] else List.range n

/-- Where in DST element `e` goes. -/
def CollKey.dstIndex (k : CollKey) (n e : Nat) : Nat := if k.op = 1 then e % max (k.share n) 1 else e

/-- The elements of a member's DST. -/
def CollKey.dstCount (k : CollKey) (n : Nat) : Nat := if k.op = 1 then k.share n else k.total n

/-- Element `e` with those after it that go in the same 16-byte unit and have the same home. -/
def CollKey.unitOf (k : CollKey) (n e : Nat) : List Nat :=
  let u := 16 / elemBytes k.fmt
  ((List.range (u - e % u)).map (e + ·)).filter fun i => i < k.total n && k.home n i == k.home n e

/-! ### Members -/

/-- Logical core of a member entry (R345). DESIGN CHOICE (log entry 99): nonzero bits [31:20] of an entry are ignored. -/
def memCore (e : Nat) : Nat := bits e 0 8
/-- DEVNUM of a member entry. -/
def memDev (e : Nat) : Nat := bits e 8 8
/-- The port toward a member's device. -/
def memPort (e : Nat) : Nat := bits e 16 4

/-- The number by which every device knows the k-th collective of a group (R335, R345). -/
def collNum (g k : Nat) : Nat := g * 2 ^ 24 + k % 2 ^ 24

/-- A message that tells other devices of a collective. DESIGN CHOICE (log entry 108): of KIND CTRL with FUNC 0, a
member's start; with FUNC 1, its end by a fault. -/
def ctrlMsg (func num : Nat) (d : List Byte) : Msg :=
  { kind := 6, func := BitVec.ofNat 5 func, size := 0, tag := 0, src := 0, part := 0, ord := 0, scope := 0, poison := false
    addr := BitVec.ofNat 64 (num * 2 ^ 32), data := d }

/-- A member's start: OP, FMT, the member, COUNT, ROOT. -/
def startMsg (num m : Nat) (k : CollKey) : Msg :=
  ctrlMsg 0 num (toBytes 1 k.op ++ toBytes 1 k.fmt ++ toBytes 2 m ++ toBytes 4 k.count ++ toBytes 4 k.root ++ toBytes 4 0)

/-- The fields of a start. -/
def startKey (m : Msg) : CollKey :=
  let u := fieldAt m.data
  { op := u 0 1, fmt := u 1 1, count := u 4 4, root := u 8 4 }

/-- A fault: class, kind, level, code, address. -/
def faultMsg (num : Nat) (f : FaultInfo) : Msg :=
  ctrlMsg 1 num (toBytes 1 f.cls.code ++ toBytes 1 f.kind.code ++ toBytes 2 f.lvl ++ toBytes 4 f.code ++ toBytes 8 f.addr)

/-- The fault that a message tells. -/
def faultOf (m : Msg) : FaultInfo :=
  let u := fieldAt m.data
  { cls := FClass.ofCode (u 0 1), kind := AKind.ofCode (u 1 1), lvl := u 2 2, code := u 4 4, addr := u 8 8 }

/-- The fault of a collective as it strikes a member's copy (R346): one of class LAYOUT names the member's own descriptor. -/
def FaultInfo.at_ (f : FaultInfo) (c : Copy) : FaultInfo :=
  if f.cls = .layout then c.flt .layout 0 .copyRead (c.a.getD 0 0).toNat
  else { f with lane := c.lane, pc := c.pc, wslot := c.wslot, word := c.word, extw := BitVec.ofNat 32 (0x7F000000 + c.ext.toNat) }

namespace State

/-- A collective group's member table (R345): its entries. -/
def members (s : State) (g : Nat) : List Nat :=
  let a := bits (s.cgrp.get 0 (2 * g)).toNat 8 44 * 256
  let n := bits (s.cgrp.get 0 (2 * g + 1)).toNat 0 12
  (List.range n).map fun m => s.mem.readNat (a + 4 * m) 4

/-- The group may be used by a partition (R345, R346). -/
def groupOk (s : State) (g p : Nat) : Bool :=
  bitAt (s.cgrp.get 0 (2 * g)).toNat 0 && bits (s.cgrp.get 0 (2 * g + 1)).toNat 32 6 == p

/-- A member entry is this device's. -/
def isHere (s : State) (e : Nat) : Bool := memDev e == s.devnum.toNat

/-- The member index of a core of this device in a group (R345). -/
def memberOf (s : State) (g core : Nat) : Option Nat :=
  (s.members g).findIdx? fun e => memCore e == core && s.isHere e

/-- The members of a group that lie on this device. -/
def localMembers (s : State) (g : Nat) : List Nat :=
  (s.members g).zipIdx.filterMap fun e => if s.isHere e.1 then some e.2 else none

/-- The other devices of a group, each with the port toward it. -/
def otherDevs (s : State) (g : Nat) : List (Nat × Nat) :=
  ((s.members g).filterMap fun e => if s.isHere e then none else some (memDev e, memPort e)).eraseDups

/-- Changes a collective. -/
def onColl (s : State) (num : Nat) (f : Coll → Coll) : State :=
  { s with colls := s.colls.map fun c => if c.num = num then f c else c }

/-- A collective by number. -/
def coll? (s : State) (num : Nat) : Option Coll := s.colls.find? fun c => c.num == num

/-- A collective of which this device hears for the first time. -/
def openColl (s : State) (num : Nat) : State :=
  if (s.coll? num).isSome then s else { s with colls := s.colls ++ [{ group := num / 2 ^ 24, num := num }] }

/-- Every member here has had its part in a collective that this device knows no more. -/
def collPast (s : State) (num : Nat) : Bool :=
  (s.coll? num).isNone && !(s.localMembers (num / 2 ^ 24)).isEmpty &&
    (s.localMembers (num / 2 ^ 24)).all fun m => num % 2 ^ 24 < s.collCount.get 0 (num / 2 ^ 24 * 4096 + m)

/-- A member's copy. -/
def partCopy (s : State) (p : CollPart) : Option Copy := (s.core p.core).copies.find p.slot

/-- The twin's copy of a member's COLL (R272): its core, slot and copy. -/
def twinColl (s : State) (c : Copy) : Option (Nat × Nat × Copy) :=
  match (s.blk c.blk).twin with
  | none => none
  | some t =>
    let k := (s.blk t).core
    (((s.core k).copies.filter fun x => x.2.fn == 0x18 && x.2.blk == t && x.2.wave == c.wave && x.2.inFlight).foldl
      (fun (m : Option (Nat × Copy)) x => match m with
        | none => some x
        | some y => if x.2.seq < y.2.seq then some x else some y) none).map fun x => (k, x.1, x.2)

/-- The copies of a member's COLL: its own and its twin's, each with its core and slot. -/
def partCopies (s : State) (p : CollPart) : List (Nat × Nat × Copy) :=
  match s.partCopy p with
  | none => []
  | some c => (p.core, p.slot, c) :: (s.twinColl c).toList

/-- Sends a message to every other device of a group. -/
def tellOthers (s : State) (g : Nat) (m : Msg) : State :=
  (s.otherDevs g).foldl (fun s q => s.send (portEnd q.2) m) s

/-! ### Faults -/

/-- Ends a collective faulted at every member of this device (R339, R346): its first fault stays its fault. -/
def failHere (s : State) (num : Nat) (f : FaultInfo) : State :=
  match s.coll? num with
  | none => s
  | some x =>
    let f := x.fault.getD f
    let end_ (s : State) (p : CollPart) : State :=
      let (n, w) := ((s.partCopy p).map fun c => (c.units, c.width)).getD (0, 0)
      (s.partCopies p).foldl (fun s y => s.onCopy y.1 y.2.1 fun c =>
        if c.inFlight && c.fault.isNone then { c with fault := some (f.at_ c), failOff := c.bytes, units := n, width := w } else c) s
    (x.parts.foldl end_ s).onColl num fun y => { y with fault := some f }

/-- Ends a collective faulted at every member (R339, R346): the other devices are told. -/
def failColl (s : State) (num : Nat) (f : FaultInfo) : State :=
  match s.coll? num with
  | none => s
  | some x => if x.fault.isSome then s.failHere num f else (s.failHere num f).tellOthers x.group (faultMsg num f)

/-- The fault of class LAYOUT of a collective (R346). -/
def collLayout : FaultInfo := { cls := .layout, kind := .copyRead }

/-- A collective that has failed is forgotten once every member has come to it. -/
def dropFailed (s : State) : State :=
  { s with colls := s.colls.filter fun x =>
      !(x.fault.isSome && (List.range (s.members x.group).length).all x.started.contains) }

/-! ### The way to the final reducer -/

/-- The device of the final reducer of an element, or of the member that has it, is this one. -/
def homeHere (s : State) (x : Coll) (e : Nat) : Bool :=
  let ms := s.members x.group
  s.isHere (ms.getD (x.key.home ms.length e) 0)

/-- The port toward the final reducer of an element. -/
def homePort (s : State) (x : Coll) (e : Nat) : Nat :=
  let ms := s.members x.group
  memPort (ms.getD (x.key.home ms.length e) 0)

/-- The contributions that an abacus unit expects for an element (R343): a cluster hub those of the members in its
cluster; a port or a hub die, those of the members here where the sum goes out, or of the members that it is the way to
where the sum is reduced here. -/
def unitWants (s : State) (x : Coll) (e u : Nat) : Nat :=
  let ms := s.members x.group
  let near := ms.filter s.isHere
  let far := ms.filter fun m => !s.isHere m
  if 192 ≤ u then (near.filter fun m => s.clusterOf (memCore m) == u - 192).length
  else if !s.homeHere x e then near.length
  else if u < 172 then (far.filter fun m => memPort m == u - 160).length
  else (far.filter fun m => portDie (memPort m) == u - 172).length

/-- The units that a sum passes from a unit on (R343): on the way out the hub die and the port, on the way in the port and
the hub die; the home slice comes last. -/
def unitPath (s : State) (x : Coll) (e u : Nat) : List Nat :=
  let p := s.homePort x e
  if s.homeHere x e then
    if 192 ≤ u then [u] else if u < 128 then [] else if u < 172 then [u, dieUnit (portDie (u - 160))] else [u]
  else
    if u = portSlice p then [u]
    else if u = dieUnit (portDie p) then [u, portSlice p]
    else (if 192 ≤ u then [u] else []) ++ [dieUnit (portDie p), portSlice p]

/-- The home slice of the DST element that first receives an element (R346), where its page is there. -/
def finalSlice (s : State) (x : Coll) (e : Nat) : Option Nat × State :=
  let n := (s.members x.group).length
  match x.parts.find? fun p => p.member == x.key.home n e with
  | none => (none, s)
  | some p => match s.partCopy p with
    | none => (none, s)
    | some c =>
      let va := (p.dst + elemBytes x.key.fmt * x.key.dstIndex n e) % 2 ^ 64
      match s.copyReach p.core c { kind := .copyWrite, wr := true, cls := [.dev] } va with
      | (.ok t, s) => (some (sliceOf t.pa), s)
      | (.error _, s) => (none, s)

/-- The key of a cell (R343). -/
def cellKey (num e : Nat) : Nat := num * 2 ^ 32 + e

/-- A partial sum comes from a die to its final reducer (R343, R346): the unit at the home slice merges it into its cell,
or opens one. DESIGN CHOICE (log entry 106): where the unit has none free, or the page is not present, the collective
keeps the sum. -/
def takeFinal (s : State) (x : Coll) (die e : Nat) (c : AbCell) : State :=
  let fmt := x.key.fmt
  let key := cellKey x.num e
  let keep (s : State) : State :=
    s.onColl x.num fun y => { y with sums := y.sums.insert e (AbCell.merge fmt ((y.sums.find e).getD {}) c) }
  match s.finalSlice x e with
  | (none, s) => keep s
  | (some u, s) =>
    let s := s.cross die (unitDie u)
    let a := s.unit u
    match a.cells.find key with
    | some d => s.onUnit u fun a => { a with cells := a.cells.insert key (AbCell.merge fmt d c) }
    | none => if a.cells.length < 512 then s.onUnit u fun a => { a with cells := a.cells.insert key c } else keep s

/-- The sum at the final reducer of an element, as far as it has come. -/
def finalSum (s : State) (x : Coll) (e : Nat) : AbCell :=
  (s.abacus.filter fun u => u.1 < 128).foldl (fun c u => match u.2.cells.find (cellKey x.num e) with
    | some d => AbCell.merge x.key.fmt c d
    | none => c) ((x.sums.find e).getD {})

/-- The cell of an element at its final reducer is closed. -/
def closeFinal (s : State) (x : Coll) (e : Nat) : State :=
  ({ s with abacus := s.abacus.map fun u =>
      if u.1 < 128 then (u.1, { u.2 with cells := u.2.cells.erase (cellKey x.num e) }) else u } : State).onColl x.num fun y =>
    { y with sums := y.sums.erase e }

/-- A partial sum of an element goes from a unit on toward its final reducer (R343): what is left of it to send over the
port. -/
def feed (s : State) (x : Coll) (u e : Nat) (c : AbCell) : Option AbCell × State :=
  match s.unitsTake x.key.fmt (cellKey x.num e) ((s.unitPath x e u).map fun v => (v, s.unitWants x e v)) c with
  | (none, s) => (none, s)
  | (some c, s) => if s.homeHere x e then (none, s.takeFinal x (unitDie u) e c) else (some c, s)

/-- Partial sums of elements go from their units on (R343); those that leave the device go over the port toward their
final reducer. -/
def feedAll (s : State) (x : Coll) (cs : List (Nat × Nat × AbCell)) : State :=
  let (out, s) := cs.foldl (fun (r : List (Nat × AbCell) × State) c =>
    match r.2.feed x c.1 c.2.1 c.2.2 with
    | (none, s) => (r.1, s)
    | (some d, s) => (r.1 ++ [(c.2.1, d)], s)) (([] : List (Nat × AbCell)), s)
  match out with
  | [] => s
  | (e, _) :: _ => s.sendRecs (s.homePort x e) (sumMsgs x.num x.key.fmt out)

/-- A record comes to a unit (R343, R344): its elements wait for their takers, its sums go on. -/
def mergeRec (s : State) (num u : Nat) (m : Msg) : State :=
  match s.coll? num with
  | none => s
  | some x =>
    if recIsElem m then
      s.onColl num fun y => { y with elems := (recElems x.key.fmt m).foldl (fun t v => t.insert v.1 v.2) y.elems }
    else s.feedAll x ((recSums x.key.fmt m).map fun v => (u, v.1, v.2))

/-- A REC message comes to an abacus unit (R258, R343), from a source as this device knows it: one whose tag is in the
window is not taken again; one that comes before the collective is known here waits. -/
def takeRec (s : State) (src u : Nat) (m : Msg) : State :=
  let key := tagKey src u
  if (s.tags.get {} key).window.any fun w => w.tag == m.tag.toNat then s
  else
    let s := s.keepTag key ⟨m.tag.toNat, [], 0, 0⟩
    if s.collPast (recNum m) then s
    else
      let s := s.openColl (recNum m)
      match s.coll? (recNum m) with
      | some x =>
        if x.known then s.mergeRec x.num u m else s.onColl x.num fun y => { y with early := y.early ++ [(u, m)] }
      | none => s

/-- A member's start becomes known here (R346, R347), with the fields that all members must share; records that have come
before are taken. -/
def noteStart (s : State) (num m : Nat) (k : CollKey) : State :=
  match s.coll? num with
  | none => s
  | some x =>
    let s := s.onColl num fun y => { y with
      known := true, key := if x.known then y.key else k, early := []
      started := if y.started.contains m then y.started else y.started ++ [m] }
    let s := x.early.foldl (fun s r => s.mergeRec num r.1 r.2) s
    if x.known && x.key != k then s.failColl num collLayout else s

/-- A CTRL message comes over a link port: a member's start, or the end of a collective by a fault. -/
def takeCtrl (s : State) (m : Msg) : State :=
  let num := (recNum m)
  if s.collPast num then s
  else if m.func = 0 then ((s.openColl num).noteStart num (fieldAt m.data 2 2) (startKey m)).dropFailed
  else if m.func = 1 then ((s.openColl num).failHere num (faultOf m)).dropFailed
  else s

/-! ### Starts -/

/-- Bytes of a descriptor of COLL are legal (R346): `n` members. -/
def collLegal (d : List Byte) (op n : Nat) : Bool :=
  let u := fieldAt d
  let k := elemBytes (u 22 1)
  1 ≤ u 16 4 && u 20 2 < 256 && u 22 1 ≤ 4 && u 23 1 == 0 && u 28 36 == 0 && u 0 8 % k == 0 && u 8 8 % k == 0 &&
    (op != 3 || u 24 4 < n) && (op != 1 || u 16 4 % n == 0)

/-- A member joins its collective (R345, R346): its place among the COLLs of its group, its start, which the other devices
are told. DESIGN CHOICE (log entry 149): the k-th COLL of a core that is not in the table belongs to the k-th collective of the
group, which it ends faulted at every member. -/
def joinColl (s : State) (core slot : Nat) (c : Copy) (d : List Byte) : State :=
  let u := fieldAt d
  let g := u 20 2 % 256
  let ms := s.members g
  let op := bits c.ext.toNat 20 3
  let key : CollKey := { op := op, fmt := u 22 1, count := u 16 4, root := u 24 4 }
  let fine := collLegal d op ms.length
  let place := (s.memberOf g core).getD (2 ^ 20 + core)
  let k := s.collCount.get 0 (g * 4096 + place)
  let num := collNum g k
  let past := s.collPast num
  let s := ({ s with collCount := s.collCount.set 0 (g * 4096 + place) (k + 1) } : State).onCopy core slot fun c => { c with
    key := num, unit := 0, width := elemBytes key.fmt, units := if fine then max 1 (key.dstCount ms.length) else 1 }
  match s.memberOf g core with
  | none =>
    let s := if past then s else ((s.openColl num).failColl num collLayout).dropFailed
    s.owe core slot 0 [collLayout.at_ c]
  | some m =>
    let part : CollPart := { member := m, core := core, slot := slot, src := u 0 8, dst := u 8 8, ts := c.ts }
    let s := (s.openColl num).onColl num fun y => { y with parts := y.parts ++ [part] }
    let s := (s.noteStart num m key).tellOthers g (startMsg num m key)
    if ((s.coll? num).bind (·.fault)).isSome || !fine || !s.groupOk g c.part then s.failColl num collLayout else s

/-- The engine has yet to read the descriptor of a COLL (R181, R346): those of a core are read in the order of their starts;
the twin of a P2 pair follows its primary. -/
def collWants (s : State) (core : Nat) (c : Copy) : Bool :=
  c.fn == 0x18 && c.isLive && c.units == 0 && c.owed.isEmpty && (s.blk c.blk).primary &&
    (s.core core).copies.all fun x => x.2.fn != 0x18 || !x.2.isLive || x.2.units != 0 || c.seq ≤ x.2.seq

/-- Reads the descriptor of a COLL (R346). -/
def collDescribe (s : State) (core slot : Nat) : State :=
  match (s.core core).copies.find slot with
  | none => s
  | some c =>
    if !s.collWants core c then s
    else
      let s := s.onCopy core slot fun c => { c with st := .running }
      let va := (c.a.getD 0 0).toNat
      let get : CopyM (List PByte) := do
        aligned c .copyRead 64 va
        readGlobal core c [.loc, .dev, .sys] va 64
      match get.run s with
      | (.error e, s) => s.owe core slot 0 e
      | (.ok d, s) => s.joinColl core slot c (d.map (·.1))

/-! ### Contributions and landing -/

/-- A member of a P2 pair has issued its COLL on both cores (R272). -/
def bothIssued (s : State) (p : CollPart) : Bool := match s.partCopy p with
  | some c => (s.blk c.blk).twin.isNone || (s.twinColl c).isSome
  | none => false

/-- Every member has issued its COLL (R346, R347), and the collective goes on. -/
def collReady (s : State) (x : Coll) : Bool :=
  x.fault.isNone && !x.parts.isEmpty && x.parts.all s.bothIssued && (List.range (s.members x.group).length).all x.started.contains

/-- Reads element `e` of a member's SRC. -/
def readSrc (x : Coll) (p : CollPart) (c : Copy) (e : Nat) : CopyM (List PByte) :=
  let n := elemBytes x.key.fmt
  readGlobal p.core c [.loc, .dev, .sys] ((p.src + n * x.key.srcIndex e) % 2 ^ 64) n

/-- Does something for a member's element; a fault stays with the member's copy (R189, R346). -/
def forPart {α : Type} (s : State) (p : CollPart) (i : Nat) (f : Copy → CopyM α) : Option α × State :=
  match s.partCopy p with
  | none => (none, s)
  | some c => match (f c).run s with
    | (.ok a, s) => (some a, s)
    | (.error e, s) => (none, s.owe p.core p.slot i e)

/-- Element `e` of the SRC of each of some members, where all can be read: each with its cluster hub. -/
def readParts (x : Coll) (e : Nat) : List CollPart → State → Option (List (Nat × CollElem)) × State
  | [], s => (some [], s)
  | p :: r, s =>
    let (d, s) := s.forPart p (x.key.srcIndex e) fun c => readSrc x p c e
    match d, readParts x e r s with
    | some d, (some l, s) => (some ((hubUnit (s.clusterOf p.core), ⟨ofBytes (d.map (·.1)), 0, d.any (·.2)⟩) :: l), s)
    | _, (_, s) => (none, s)

/-- Some elements, each with its values, where they can be read; and those for which a page is missing. -/
def readElems (x : Coll) (ps : List CollPart) : List Nat → State → List (Nat × List (Nat × CollElem)) × List Nat × State
  | [], s => ([], [], s)
  | e :: r, s => match readParts x e ps s with
    | (some l, s) => let (a, b, s) := readElems x ps r s; ((e, l) :: a, b, s)
    | (none, s) => let (a, b, s) := readElems x ps r s; (a, e :: b, s)

/-- The part of this device in some elements of one unit (R343, R346): the members' contributions to a sum, or the element
that a member has for the other devices. The elements for which a page is missing are put off. -/
def contribute (s : State) (x : Coll) (es : List Nat) : State :=
  let n := (s.members x.group).length
  let e := es.headD 0
  let late (s : State) (l : List Nat) : State := s.onColl x.num fun y => { y with lateSent := y.lateSent ++ l }
  if x.key.reduces then
    let (vs, l, s) := readElems x x.parts es s
    let port := s.homePort x e
    let s := if s.homeHere x e then s else x.parts.foldl (fun s p => s.cross (s.coreDie p.core) (portDie port)) s
    (late s l).feedAll x (vs.flatMap fun v => v.2.map fun c => (c.1, v.1, AbCell.one x.key.fmt c.2.v c.2.poison))
  else if (s.otherDevs x.group).isEmpty then s
  else
    let (vs, l, s) := readElems x (x.parts.filter fun p => p.member == x.key.home n e) es s
    let ms := rawMsgs true x.num x.key.fmt (vs.flatMap fun v => v.2.map fun c => (v.1, c.2))
    (s.otherDevs x.group).foldl (fun s q => s.sendRecs q.2 ms) (late s l)

/-- The translations for the writes of element `e` at its takers here, all of them before any write. -/
def reachDsts (x : Coll) (n e : Nat) : List CollPart → State → Option (List (CollPart × Nat × Trans)) × State
  | [], s => (some [], s)
  | p :: r, s =>
    let i := x.key.dstIndex n e
    let va := (p.dst + elemBytes x.key.fmt * i) % 2 ^ 64
    let (t, s) := s.forPart p i fun c => fun s => s.copyReach p.core c { kind := .copyWrite, wr := true, cls := [.dev] } va
    match t, reachDsts x n e r s with
    | some t, (some ts, s) => (some ((p, va, t) :: ts), s)
    | _, (_, s) => (none, s)

/-- The bytes of an element that has landed are counted off a copy's barrier, and its flags delivered (R112, R195, R346).
The phase that they complete acquires the starts of the members here, `t` the latest (R347). -/
def countElem (s : State) (core slot : Nat) (c : Copy) (n ts t : Nat) (v : CollElem) : State :=
  let s := ((s.joinPend c.blk (max c.ts ts)).onCopy core slot fun y =>
    { y with bytes := y.bytes + n, ts := max y.ts ts, poison := y.poison || v.poison, flags := y.flags ||| v.fl }).raisePts
      core c.part t
  s.countBytes c core n false v.poison

/-- Element `e` lands at its takers here (R346, R347). -/
def landElem (s : State) (x : Coll) (v : CollElem) (ts : List (CollPart × Nat × Trans)) : State :=
  let n := elemBytes x.key.fmt
  let d : List PByte := (toBytes n v.v).map fun b => (b, v.poison)
  let t := x.parts.foldl (fun m p => max m p.ts) 0
  ts.foldl (fun s w => match s.partCopy w.1 with
    | none => s
    | some c =>
      let (ts, s) := s.copyWrite w.1.core c (GWrite.of w.2.1 w.2.2 d)
      (s.partCopies w.1).foldl (fun s y => s.countElem y.1 y.2.1 y.2.2 n ts t v) s) s

/-- The members of a collective on this device that take element `e`. -/
def takersHere (x : Coll) (n e : Nat) : List CollPart := x.parts.filter fun p => (x.key.takers n e).contains p.member

/-- Ends a collective here (R193, R346, R347): its members' copies are over, and acquire every start. -/
def endColl (s : State) (x : Coll) : State :=
  let t := x.parts.foldl (fun m p => max m p.ts) 0
  let s := (x.parts.flatMap s.partCopies).foldl (fun s y =>
    (s.raisePts y.1 y.2.2.part t).onCopy y.1 y.2.1 fun c => { c with units := max 1 c.units, unit := max 1 c.units }) s
  { s with colls := s.colls.filter fun y => y.num != x.num }

/-- No member here waits for a page. -/
def collPaged (s : State) (x : Coll) : Bool := x.parts.all fun p => ((s.partCopy p).map (·.owed.isEmpty)).getD true

/-- No member here has ended. -/
def collLive (s : State) (x : Coll) : Bool := x.parts.all fun p => ((s.partCopy p).map Copy.isLive).getD false

/-- The value of an element is there, or nobody here takes it (R346). -/
def elemThere (s : State) (x : Coll) (e : Nat) : Bool :=
  let n := (s.members x.group).length
  (takersHere x n e).isEmpty ||
    (if s.homeHere x e then !x.key.reduces || n ≤ (s.finalSum x e).got else (x.elems.find e).isSome)

/-- The value of an element that is there (R346): the one rounding of its sum, what its member has, or what has come from
another device; none where the member's page is missing. -/
def elemValue (s : State) (x : Coll) (e : Nat) : Option CollElem × State :=
  let n := (s.members x.group).length
  if (takersHere x n e).isEmpty then (some {}, s)
  else if !s.homeHere x e then (x.elems.find e, s)
  else if x.key.reduces then (some ((s.finalSum x e).value x.key.fmt), s)
  else match readParts x e (x.parts.filter fun p => p.member == x.key.home n e) s with
    | (some l, s) => (some ((l.head?.map (·.2)).getD {}), s)
    | (none, s) => (none, s)

/-- The results that wait go to the other devices (R344, R346). -/
def sendOut (s : State) (x : Coll) (out : List (Nat × CollElem)) : State :=
  let ms := rawMsgs true x.num x.key.fmt out
  ((s.otherDevs x.group).foldl (fun s q => s.sendRecs q.2 ms) s).onColl x.num fun y => { y with out := [] }

/-- A result of an all-reduce that was reduced here goes to the other devices, with those that share its 16-byte unit
(R344, R346). -/
def spreadElem (s : State) (x : Coll) (e : Nat) (v : CollElem) : State :=
  if x.key.op ≠ 0 || !s.homeHere x e || (s.otherDevs x.group).isEmpty then s
  else
    let u := 16 / elemBytes x.key.fmt
    let out := x.out ++ [(e, v)]
    if e % u = u - 1 then s.sendOut x out else s.onColl x.num fun y => { y with out := out }

/-- The port that a collective needs and that is down (R339, R346). -/
def downPort (s : State) (g : Nat) : Option Nat := ((s.otherDevs g).find? fun q => s.isDown q.2).map (·.2)

/-- The fault of a COLL whose port is down (R339). -/
def portFault (port : Nat) : FaultInfo := { cls := .invalid, addr := port }

/-- The elements that can be contributed next, and whether they were put off (R189, R280, R346). -/
def nextSent (s : State) (x : Coll) : Option (Bool × List Nat) :=
  let n := (s.members x.group).length
  if x.sent < x.key.total n then some (false, x.key.unitOf n x.sent)
  else if s.collPaged x then x.lateSent.head?.map fun e => (true, [e])
  else none

/-- The element that can land next, and whether it was put off: the first from `next` on that is there, else one put off,
once no page is missing (R189, R280, R346). -/
def nextLand (s : State) (x : Coll) : Option (Bool × Nat) :=
  let n := (s.members x.group).length
  match ((List.range (x.key.total n - x.next)).map (· + x.next)).find? (s.elemThere x) with
  | some e => some (false, e)
  | none => if s.collPaged x then (x.lateLand.find? (s.elemThere x)).map fun e => (true, e) else none

/-- Every element has been contributed and has landed. -/
def collAll (s : State) (x : Coll) : Bool :=
  let t := x.key.total (s.members x.group).length
  t ≤ x.sent && x.lateSent.isEmpty && t ≤ x.next && x.lateLand.isEmpty

/-- A collective can go on now (R346). -/
def collDue (s : State) (x : Coll) : Bool :=
  s.collReady x && s.collLive x &&
    ((s.nextSent x).isSome || (s.nextLand x).isSome || s.collAll x)

/-- Element `e` lands here, and goes on to the other devices that take it; where a page is missing it is put off. -/
def landNext (s : State) (x : Coll) (e : Nat) : State :=
  let n := (s.members x.group).length
  let late (s : State) : State := s.onColl x.num fun y => { y with lateLand := y.lateLand ++ [e] }
  match s.elemValue x e with
  | (none, s) => late s
  | (some v, s) => match reachDsts x n e (takersHere x n e) s with
    | (none, s) => late s
    | (some ts, s) => (((s.landElem x v ts).closeFinal x e).onColl x.num fun y => { y with elems := y.elems.erase e }).spreadElem x e v

/-- The next step of a collective on this device (R346). -/
def collStep (s : State) (num : Nat) : State :=
  match s.coll? num with
  | none => s
  | some x => match s.downPort x.group with
    | some p => if x.fault.isSome then s else s.failColl num (portFault p)
    | none =>
      if !s.collDue x then s
      else match s.nextSent x with
        | some (late, es) =>
          (s.onColl num fun y => if late then { y with lateSent := y.lateSent.drop 1 } else { y with sent := y.sent + es.length }).contribute
            x es
        | none => match s.nextLand x with
          | some (late, e) =>
            (s.onColl num fun y =>
              if late then { y with lateLand := y.lateLand.erase e }
              else { y with next := e + 1, lateLand := y.lateLand ++ (List.range (e - y.next)).map (· + y.next) }).landNext x e
          | none => if s.collAll x then (s.sendOut x x.out).endColl x else s

/-- The collective of which a copy is a member. -/
def collOf (s : State) (core slot : Nat) : Option Coll :=
  s.colls.find? fun x => x.parts.any fun p => p.core == core && p.slot == slot

/-- A collective has a step to make: it goes on, or a port that it needs is down (R339). -/
def collMoves (s : State) (x : Coll) : Bool := x.fault.isNone && ((s.downPort x.group).isSome || s.collDue x)

/-- A member of a collective has nothing but owed elements left to do (R280). -/
def collOwed (s : State) (core slot : Nat) (c : Copy) : Bool :=
  c.fn == 0x18 && c.isLive && !c.owed.isEmpty && (match s.collOf core slot with
    | some x => !s.collMoves x
    | none => true)

/-- A failed member ends the collective at every member (R189, R346). -/
def spreadFault (s : State) (core slot : Nat) : State :=
  match s.collOf core slot, (s.core core).copies.find slot with
  | some x, some c => match c.fault with
    | some f => if x.fault.isSome then s else s.failColl x.num f
    | none => s
  | _, _ => s

/-! ### Messages that have been received -/

/-- An end hands on the oldest message that it has received (R335, R337, R340, R350): at a port, a peer's request is applied
and answered, and a record goes to the port's abacus unit, which acknowledges it; on a module, a message goes on its way. -/
def handle (s : State) (e : Nat) (m : Msg) : State :=
  let k := m.kind.toNat
  if isPort (linkOf e) then
    let p := e - 64
    if k = kRsp then s.takeRemote p m
    else if k = kRec then
      (s.takeRec (peerSource p m.src.toNat) (portSlice p) m).send e (rspMsg m 0 (toBytes 16 0))
    else if k = kCtrl then s.takeCtrl m
    else let (r, s) := s.remoteApply p m; s.send e r
  else
    let d := endDie e
    if k = kRec then s.takeRec m.src.toNat (if d < 4 then 32 * d else dieUnit d) m
    else if k = kCtrl then s
    else s.onModule d m

/-- Takes the oldest received message of an end. -/
def handleNext (s : State) (e : Nat) : State :=
  match (s.end_ e).rcvd with
  | [] => s
  | m :: r => (s.onEnd e fun x => { x with rcvd := r }).handle e m

end State

/-- COLL (R178, R179, R346): the barrier's sector; then a release at .part and the start. -/
def execColl (f : FmtAbx) (s : State) : Out :=
  let e := s.issue
  let x := f.x.p.toNat
  match e.actor with
  | none => .next (s.onIssue fun e => e.clearLatch 2)
  | some l =>
    let a := e.ss f.a
    let bar := 16 * bits x 0 16
    if !bitAt x 16 && !s.spaceHas e.blk 0 bar then .next (s.raise [State.memberFault .space l bar a 0])
    else
      let s := s.release 4
      .next (s.startCopy { s.newCopy 0x18 l 2 f.x.p [BitVec.ofNat 64 a] [] with ts := s.pts e.core s.ipart })

/-- COPY_DESCRIPTOR_READ (R181 to R186, R346). -/
def execCopyDescriptorRead (core slot : Nat) (s : State) : Out :=
  match (s.core core).copies.find slot with
  | none => .next s
  | some c => .next (if c.fn = 0x18 then s.collDescribe core slot else s.readDescriptor core slot)

/-- COUNT (R190, R195, R198, R346): a copy's next sector, or the next element of the collective that a copy is part of. -/
def execCount (core slot : Nat) (s : State) : Out :=
  match (s.core core).copies.find slot with
  | none => .next s
  | some c =>
    if c.fn = 0x18 then
      match s.collOf core slot with
      | some x => .next (s.collStep x.num)
      | none => .next s
    else .next (s.moveUnit core slot)

/-- A copy, a collective's part among them, has nothing left to do (R193). -/
def Copy.over (c : Copy) : Bool := if c.fn = 0x18 then c.isLive && c.units != 0 && c.unit == c.units else c.isDone

/-- COPY_DONE (R178, R193). -/
def execCopyDone (core slot : Nat) (s : State) : Out :=
  match (s.core core).copies.find slot with
  | some c => if c.over then .next (s.finishCopy core slot .done) else .next s
  | none => .next s

/-- COPY_FAULT (R189, R268, R346, R369): a collective ends faulted at every member. -/
def execCopyFault (core slot : Nat) (s : State) : Out :=
  match (s.core core).copies.find slot with
  | some c =>
    if c.inFlight && c.fault.isSome then .next (((s.spreadFault core slot).failCopy core slot).dropFailed) else .next s
  | none => .next s

/-- COPY_BATCH_WAIT (R280): the copy enters STATE 6 and writes its own BATCH record. -/
def execCopyBatchWait (core slot : Nat) (s : State) : Out :=
  match (s.core core).copies.find slot with
  | some c => if (if c.fn = 0x18 then s.collOwed core slot c else c.isOwed) then .next (s.copyBatch core slot c) else .next s
  | none => .next s

/-- REC (R343): a record at an abacus unit, by the unit's number. -/
def execRecMerge (abacus : Nat) (m : Msg) (s : State) : Out :=
  .next (s.takeRec (if 160 ≤ abacus ∧ abacus < 172 then peerSource (abacus - 160) m.src.toNat else m.src.toNat) abacus m)

/-- RETRAIN_ATTEMPT_END (R338, R339): up at full width, at half width on the half without a failing lane, or failed; a third
failure is fatal for a module, and a port is down. -/
def execRetrainAttemptEnd (link : Nat) (lowBad highBad : Bool) (s : State) : Out :=
  if (s.link link).st ≠ 1 then .next s
  else if lowBad && highBad then
    let n := (s.link link).attempts + 1
    let s := s.onLink link fun x => { x with attempts := n }
    if n < 3 then .next s
    else if isPort link then .next (s.portDown (link - 32))
    else .next ((s.onLink link fun x => { x with st := 2 }).goViral 1 link)
  else
    let s := s.onLink link fun x => { x with st := 0, half := lowBad || highBad, upper := lowBad, fails := [], attempts := 0 }
    .next ((endsOf link).foldl (fun s e => s.onEnd e LinkEnd.retrained) s)

/-- LINK_TRAINING (R339): a port learns its peer's DEVNUM and comes up, or is down. -/
def execLinkTraining (port : Nat) (peer : Byte) (ok : Bool) (s : State) : Out :=
  if ok then
    .next ((s.onLink (portLink port) fun x => { x with st := 0, peer := peer, half := false, upper := false, attempts := 0 }).onEnd
      (portEnd port) fun x => { ({} : LinkEnd) with ready := x.ready })
  else .next (s.portDown port)

end Sys2Proof.Machine
end

