-- ==== Sys2Proof/Machine/Cxl.lean ====
section
/-!
DEFINITION. What the host does to the device (R6, R14, R230 to R243, R253, R282, R299, R319 to R323, R331, R334): the
registers of every BAR, CXL.mem and CXL.cache, invalidations, time slices; the steps of the homes (R246, R249) and of
logical time (R251).
-/

namespace Sys2Proof.Machine

/-- An 8-byte register after a write of `n` bytes at its byte `o`, 0 or 4 (R299). -/
def layWord (old o n v : Nat) : Nat :=
  if n = 8 then v
  else if o = 0 then old / 2 ^ 32 * 2 ^ 32 + v % 2 ^ 32 else v % 2 ^ 32 * 2 ^ 32 + old % 2 ^ 32

/-- A write or read of 4 or 8 bytes at a naturally aligned offset (R299). -/
def sizeOk (off n : Nat) : Bool := (n == 4 || n == 8) && off % n == 0

/-- The TLB entry matches an invalidation (R240). -/
def tlbHits (v : Nat) (t : TlbEnt) : Bool := bitAt v 2 || t.va == pageOf t.big (v / 65536 * 65536)

/-- A VA that was translated by a page of a known size lies in the page of an invalidation (R240). -/
def pageHits (v : Nat) (big : Bool) (va : Nat) : Bool := bitAt v 2 || pageOf big va == pageOf big (v / 65536 * 65536)

/-- A line may lie in the page of an invalidation, which may be of either size (R240). -/
def lineHits (v va : Nat) : Bool := bitAt v 2 || va / 2 ^ 29 == v / 2 ^ 29

/-- Numbers of the entries of a table page that are valid, with their words (R232). -/
def entriesOf (m : Memory) (page n : Nat) : List Nat :=
  (m.filter fun c => page ≤ c.1 && c.1 < page + 8 * n && c.1 % 8 == 0 && bitAt c.2.toNat 0).map fun c => m.readNat c.1 8

/-- The physical pages that a table maps for a partition (R230, R232, R233): base and size. -/
def pagesFrom (m : Memory) (p : Nat) : Nat → Nat → Nat → List (Nat × Nat)
  | 0, _, _ => []
  | n + 1, lvl, page => (entriesOf m page (if lvl = 0 then 4 else 8192)).flatMap fun e =>
      if !bitAt e 1 || entryMalformed lvl e then []
      else if entryIsTable e then pagesFrom m p n (lvl + 1) (bits e 16 36 * 2 ^ 16)
      else if bits e 56 8 = p then [(bits e 16 36 * 2 ^ 16, if lvl = 2 then 2 ^ 29 else 2 ^ 16)] else []

/-- A logical time after a rebase (R251). -/
def rebased (t : Nat) : Nat := t - 2 ^ 46

/-- A read that no instruction asked for (R241). -/
def Access.prefetch : Access := { Access.load with demand := false }

namespace State

/-! ### Invalidations -/

/-- Drops the translations and the L1 lines of an invalidation, dirty LOCAL lines written back (R240). -/
def purge (s : State) (p v : Nat) : State :=
  let keep (k : Cluster) : Cluster := { k with tlb := k.tlb.filter fun t => !(t.part == p && tlbHits v t) }
  let s := { s with clusters := s.clusters.map fun (k : Nat × Cluster) => (k.1, keep k.2) }
  s.cores.foldl (fun s c => (c.2.lines.filter fun y => match y.2.st with
    | .copy q a _ _ _ _ _ => q == p && lineHits v a
    | .pinned _ _ _ => false).foldl (fun s y => s.dropWay c.1 y.1) s) s

/-- The VA of the event that a queue's record waits for, and whether it lies in a page of 512 MiB. -/
def waitVa (q : Queue) : Option (Nat × Bool) :=
  match q.wait, q.pend with
  | some (.event _ big _), some (.evwaitc va _) => some (va.toNat, big)
  | _, _ => none

/-- Accesses that use a translation of an invalidation have yet to complete, or to be discarded with their region (R240): stores
on their way or held, sectors of copies that are landing, waits for events, the completion events of launches. -/
def tlbBusy (s : State) (p v : Nat) : Bool :=
  (s.cores.any fun c => (c.2.outbox.any fun r => r.part == p && lineHits v r.va) ||
    c.2.copies.any fun x => x.2.part == p && (((x.2.land.map fun d => d.gl.any fun gs => gs.any fun g => lineHits v g.va).getD false) ||
      x.2.carry.gl.any fun y => y.2.any fun g => lineHits v g.2.va)) ||
  (s.blocks.any fun k => k.2.part == p && ((k.2.waves.any fun w => w.held.any fun h => pageHits v h.big h.va) ||
    (s.blockWaits k.1).any fun x => match x.2.kind with
      | .evwait va _ big _ _ => x.2.woken.isNone && pageHits v big va
      | _ => false)) ||
  ((s.part p).queues.any fun q => ((waitVa q.2).map fun x => pageHits v x.2 x.1).getD false) ||
  (s.part p).launches.any fun l => l.2.eventPa.isSome && pageHits v l.2.eventBig l.2.lr.event

/-- A write of TLB_INV (R240); `go` says that the write sets GO. -/
def writeTlbInv (s : State) (p v : Nat) (go : Bool) : State :=
  let old := (s.part p).tlbInv.toNat
  let w := v / 65536 * 65536 + b2n (bitAt v 2) * 4 + (if go || bitAt old 0 then 1 else 0)
  let s := s.onPart p fun x => { x with tlbInv := BitVec.ofNat 64 w }
  if go then s.purge p w else s

/-- An invalidation may end (R240). -/
def tlbInvDue (s : State) (p : Nat) : Bool := let v := (s.part p).tlbInv.toNat; bitAt v 0 && !s.tlbBusy p v

/-! ### Time slices and cluster assignment -/

/-- The resident blocks on a physical cluster. -/
def blocksOn (s : State) (k : Nat) : List (Nat × Block) :=
  s.blocks.filter fun x => !x.2.handler && s.clusterOf x.2.core == k

/-- A core of a cluster from which the other partitions have gone could admit a block (R40, R321). -/
def couldAdmit (s : State) (c : Nat) (x : Need) : Bool :=
  x.weight ≤ bits (s.core c).budget.toNat 0 8 && x.waves ≤ 63 && x.regs ≤ 131072 && x.lines ≤ 896 && x.tiles ≤ 4 && x.hold ≤ 262144

/-- A cluster may serve a partition, in a slice of it if it is shared (R321). -/
def mayServe (s : State) (k p : Nat) : Bool :=
  let c := s.cluster k
  if bitAt c.cla.toNat 7 then bitAt c.clm.toNat p else bits c.cla.toNat 0 6 == p

/-- A cluster could admit the blocks of a gang in a slice of their partition (R40, R321). -/
def couldTake (s : State) (k n : Nat) (x : Need) : Bool := n ≤ ((s.coresIn k).filter fun c => s.couldAdmit c x).length

/-- A partition has a block that the cluster could admit, one of a P2 pair if another cluster could admit the other (R272), or a
saved one (R321). -/
def sliceWork (s : State) (k p : Nat) : Bool :=
  !(s.part p).stopped &&
    (((s.part p).launches.any fun l => match s.nextGang p l.1 l.2 with
      | some (_, _, n) =>
        let x := need l.2.lr
        s.isTurn p l.1 l.2 && s.couldTake k n x &&
          (l.2.lr.plevel != 2 || (s.clusterOrder.any fun j => j != k && s.mayServe j p && s.couldTake j n x))
      | none => false) || (s.part p).saved.any imgFree || (s.blocksOn k).any fun x => x.2.part == p)

/-- The partition whose slice comes after that of `cur` (R321): the next in increasing number, `cur` itself last. -/
def nextSlice (s : State) (k : Nat) (cur : Option Nat) : Option Nat :=
  let from_ := (cur.map (· + 1)).getD 0
  ((List.range 64).map fun i => (from_ + i) % 64).find? fun p => bitAt (s.cluster k).clm.toNat p && s.sliceWork k p

/-- The present slice of a shared cluster is over (R321). -/
def sliceOver (s : State) (k : Nat) : Bool :=
  let c := s.cluster k
  bitAt c.cla.toNat 7 && (match c.cur with
    | none => true
    | some p => c.until_ ≤ s.nclk || !bitAt c.clm.toNat p)

/-- Blocks of other partitions than `q` that are resident on the cluster. -/
def strangers (s : State) (k q : Nat) : List (Nat × Block) := (s.blocksOn k).filter fun x => x.2.part != q

/-- A block has not been asked to stop. -/
def notAsked (s : State) (b : Nat) : Bool := let k := s.blk (s.leader b); k.pre.isNone && k.ask.isNone && !k.killed

/-- The end of a slice changes something now (R321). -/
def sliceDue (s : State) (k : Nat) : Bool :=
  s.sliceOver k && match s.nextSlice k (s.cluster k).cur with
    | none => false
    | some q => (s.strangers k q).isEmpty || (s.strangers k q).any fun x => s.notAsked x.1

/-- The end of a slice (R321): the blocks of the outgoing partition are asked to stop; once they are gone the next one is
admitted for SLICE µs. -/
def endSlice (s : State) (k : Nat) : State :=
  if !s.sliceOver k then s
  else match s.nextSlice k (s.cluster k).cur with
    | none => s
    | some q =>
      if (s.strangers k q).isEmpty then
        let us := max 1 (bits (s.cluster k).cla.toNat 32 32)
        (s.onCluster k fun c => { c with cur := some q, until_ := s.nclk + us * Config.nclkPerUs }).retryDeals q
      else (s.strangers k q).foldl (fun s x => s.askStop x.1 .slice) s

/-- A write of CLA or CLM (R321): it governs later admissions, and blocks that it does not allow are asked to stop. -/
def writeAssign (s : State) (k : Nat) (mask : Bool) (v : Nat) : State :=
  if 36 ≤ k then s
  else
    let s := s.onCluster k fun c =>
      if mask then { c with clm := BitVec.ofNat 64 v }
      else { c with cla := BitVec.ofNat 64 (v / 2 ^ 32 * 2 ^ 32 + b2n (bitAt v 7) * 128 + bits v 0 6) }
    let s := ((s.blocksOn k).filter fun x => !s.clusterOpen k x.2.part).foldl (fun s x => s.askStop x.1 .slice) s
    s.retryAll

/-! ### Reads of registers -/

/-- LOG2N of FQ_CTL, other values read as 6 (R267). -/
def fqLog (x : Part) : Nat := if 6 ≤ x.fqLog2 ∧ x.fqLog2 ≤ 15 then x.fqLog2 else 6

/-- Some block that PREEMPT GO named has neither been saved nor ended (R307). -/
def preemptBusy (s : State) (p : Nat) : Bool := (s.part p).busy.any fun b => (s.blk? b).isSome

/-- A queue's register (R283). -/
def readQueue (q : Queue) : Nat → Nat
  | 0x00 => q.base.toNat
  | 0x08 => (if q.sz ≤ 8 then q.sz else 0) * 256 + q.prio * 16 + b2n q.fault * 2 + b2n q.run
  | 0x10 => q.tail.toNat
  | 0x18 => q.head.toNat
  | 0x20 => q.res.toNat
  | 0x28 => q.qfault.toNat
  | _ => 0

/-- The 8-byte register at an offset of a partition's interface block (R319); an unassigned one reads 0. -/
def readIface (s : State) (p off : Nat) : Nat :=
  let x := s.part p
  match off with
  | 0x40 => x.tableRoot.toNat
  | 0x48 => x.tlbInv.toNat
  | 0x80 => x.fqBase.toNat
  | 0x88 => b2n x.fqFull * 512 + b2n x.fqEn * 256 + fqLog x
  | 0x90 => x.fqTail.toNat
  | 0x98 => x.fqHead.toNat
  | 0xA8 => x.handler.toNat
  | 0xB0 => s.ctxWord p
  | 0xB8 => x.mbox.toNat
  | 0xC0 => x.preempt.toNat / 65536 * 65536 + b2n (s.preemptBusy p) * 2
  | 0xC8 => x.savePool.toNat
  | 0xD0 => s.hostts % 2 ^ 48
  | _ =>
    if 0x200 ≤ off ∧ off < 0x300 then
      let v := (x.rwin.get 0 ((off - 0x200) / 8)).toNat
      -- LOG2SZ below 16 reads as 16 (R340)
      if off % 16 = 8 ∧ bits v 32 6 < 16 then v % 2 ^ 32 + 16 * 2 ^ 32 else v
    else if 0x400 ≤ off ∧ off < 0x800 then readQueue (s.queue p ((off - 0x400) / 64)) (off % 64)
    else 0

/-- LIMIT as it is read (R358). -/
def powerLimit (s : State) : Nat := if 400 ≤ s.power.limit ∧ s.power.limit ≤ 1600 then s.power.limit else 1600

/-- PWR_STAT (R358). -/
def powerStat (s : State) : Nat :=
  s.power.watts % 65536 * 2 ^ 32 +
    ((List.range 4).map fun d => s.power.steps.getD d 0 % 8 * 2 ^ (3 * d)).foldl (· + ·) 0

/-- The 4 bytes at an offset of the management block (R14, R15, R18, R39, R338, R339, R349, R353, R358, R359). -/
def readMgmt4 (s : State) (off : Nat) : Nat :=
  let half (v : Nat) : Nat := bits v (off % 8 * 8) 32
  if off = 0 then Config.devid
  else if 0x100 ≤ off ∧ off < 0x120 then half (s.coreEn.getD ((off - 0x100) / 8) 0).toNat
  else if off = 0x120 then s.lcoreCount
  else if 0x200 ≤ off ∧ off < 0x440 then (s.lcoreMap.get 0 ((off - 0x200) / 4)).toNat
  else if 0x600 ≤ off ∧ off < 0x840 then bits (s.core ((off - 0x600) / 4)).budget.toNat 0 8
  else if 0x900 ≤ off ∧ off < 0x960 then half (s.linkStat (portLink ((off - 0x900) / 8)))
  else if 0xA00 ≤ off ∧ off < 0xA68 then half (s.linkStat ((off - 0xA00) / 8))
  else if off = 0x1000 then s.bootStat.toNat
  else if off = 0x1008 then s.fatal.toNat
  else if off = 0x1010 then s.powerLimit
  else if off / 8 * 8 = 0x1018 then half s.powerStat
  else if off / 8 * 8 = 0x1020 then half s.e2eCnt.toNat
  else 0

/-- A read of the management block (R299). -/
def readMgmt (s : State) (off n : Nat) : Nat :=
  if !sizeOk off n then 2 ^ (8 * n) - 1
  else if n = 4 then s.readMgmt4 off else s.readMgmt4 off + 2 ^ 32 * s.readMgmt4 (off + 4)

/-- An 8-byte register of BAR 4 of function 0 (R321, R322, R331, R340, R345). -/
def readBar4 (s : State) (off : Nat) : Nat :=
  if off < 0x40000 then s.readGate (off / 64) (off % 64 / 8)
  else if off = 0x40000 then s.gmigPa.toNat
  else if off = 0x40008 then s.gmigCtl.toNat + 4 * b2n s.gmig.isSome
  else if 0x41000 ≤ off ∧ off < 0x41000 + 16 * 36 then
    let c := s.cluster ((off - 0x41000) / 16)
    if off % 16 = 0 then max 1 (bits c.cla.toNat 32 32) * 2 ^ 32 + c.cla.toNat % 2 ^ 32 else c.clm.toNat
  else if 0x42000 ≤ off ∧ off < 0x43000 then (s.cgrp.get 0 ((off - 0x42000) / 8)).toNat
  else if off = 0x43000 then s.devnum.toNat
  else 0

/-- A read of `n` bytes at an offset of a BAR of a function (R277, R299, R319, R353); `none` is a request that is not served. -/
def readReg (s : State) (fn bar off n : Nat) : Option Nat :=
  let mgmt := fn == 0 && bar == 4 && 0x100000 ≤ off
  if !s.hostOpen && !(mgmt && s.viral) then none
  else if mgmt then some (s.readMgmt (off - 0x100000) n)
  else if !sizeOk off n then some (2 ^ (8 * n) - 1)
  else
    let w :=
      if bar = 0 then (if off < 0x10000 then s.readIface fn (off / 8 * 8) else 0)
      else if fn = 0 ∧ bar = 2 then (if off < 0x400000 then s.readIface (off / 0x10000) (off % 0x10000 / 8 * 8) else 0)
      else if fn = 0 ∧ bar = 4 then s.readBar4 (off / 8 * 8)
      else 0
    some (if n = 8 then w else bits w (off % 8 * 8) 32)

/-! ### Writes of registers -/

/-- A write of a queue's register (R283, R284, R286): `boss` is a write of partition 0, `v` the whole register after it, `low`
says that bytes 0 to 3 are written. -/
def writeQueue (s : State) (p q off : Nat) (boss low : Bool) (v : Nat) : State :=
  match off with
  | 0x00 => s.onQueue p q fun x => { x with base := BitVec.ofNat 64 (v / 4096 * 4096) }
  | 0x08 =>
    if !low then s
    else
      let s := s.onQueue p q fun x =>
        { x with sz := bits v 8 4, prio := if boss then bits v 4 3 else x.prio, run := bitAt v 0 }
      if bitAt v 0 then s.resumeQueue p q else s
  | 0x10 => if low then s.writeTail p q (BitVec.ofNat 32 v) else s
  | 0x20 => if low && boss then s.writeRes p q (BitVec.ofNat 64 v) else s
  | _ => s

/-- A write of `n` bytes at an offset of a partition's interface block (R319): the field maps say what it changes. -/
def writeIface (s : State) (p off n v : Nat) (boss : Bool) : State :=
  let r := off / 8 * 8
  let low := off % 8 == 0
  let w := layWord (s.readIface p r) (off % 8) n v
  let b (x : Nat) : B64 := BitVec.ofNat 64 x
  match r with
  | 0x40 => if boss then s.onPart p fun x => { x with tableRoot := b (bits w 16 36 * 2 ^ 16 + w % 2) } else s
  | 0x48 => s.writeTlbInv p w (low && bitAt v 0)
  | 0x80 => s.onPart p fun x => { x with fqBase := b (bits w 12 40 * 2 ^ 12) }
  | 0x88 => s.onPart p fun x => { x with fqEn := bitAt w 8, fqLog2 := bits w 0 4 }
  | 0x98 => s.onPart p fun x => { x with fqHead := BitVec.ofNat 32 w }
  | 0xA0 => if low then s.answerBatch p (bits v 0 17) else s
  | 0xA8 => s.onPart p fun x => { x with handler := b w }
  | 0xB0 => if low && bitAt v 8 then s.resetContext p else s
  | 0xB8 =>
    let s := s.onPart p fun x => { x with mbox := b (bits w 12 40 * 2 ^ 12 + x.mbox.toNat % 2) }
    if low && bitAt v 0 then s.ringDoor p else s
  | 0xC0 => s.writePreempt p (b (w / 65536 * 65536 + b2n (low && bitAt v 0)))
  | 0xC8 => (s.onPart p fun x => { x with savePool := b (w % 2 ^ 52) }).retryRoom p
  | _ =>
    if 0x200 ≤ r ∧ r < 0x300 then
      let m := if r % 16 = 0 then w / 65536 * 65536 else bits w 18 20 * 2 ^ 18 + bits w 2 4 * 4 + w % 2
      if boss then s.onPart p fun x => { x with rwin := x.rwin.set 0 ((r - 0x200) / 8) (b m) } else s
    else if 0x400 ≤ r ∧ r < 0x800 then s.writeQueue p ((r - 0x400) / 64) (r % 64) boss low w
    else s

/-- A write to the management block (R299): CORE_BUDGET and LIMIT. -/
def writeMgmt4 (s : State) (off v : Nat) : State :=
  if 0x600 ≤ off ∧ off < 0x840 then s.writeBudget ((off - 0x600) / 4) (BitVec.ofNat 32 v)
  else if off = 0x1010 then { s with power := { s.power with limit := v % 65536 } }
  else s

/-- A write of `n` bytes at an offset of BAR 4 of function 0 (R299, R321 to R323, R331, R340, R345). -/
def writeBar4 (s : State) (off n v : Nat) : State :=
  let r := off / 8 * 8
  let w := layWord (s.readBar4 r) (off % 8) n v
  if 0x100000 ≤ off then
    let s := s.writeMgmt4 (off - 0x100000) v
    if n = 8 then s.writeMgmt4 (off - 0x100000 + 4) (v / 2 ^ 32) else s
  else if off < 0x40000 then s.writeGate (r / 64) (r % 64 / 8) w
  else if r = 0x40000 then { s with gmigPa := BitVec.ofNat 64 (bits w 6 46 * 64) }
  else if r = 0x40008 then
    let s := { s with gmigCtl := BitVec.ofNat 64 (bits w 16 12 * 65536 + bits (s.gmigCtl.toNat) 4 2 * 16 + bits w 0 2) }
    if off % 8 == 0 && bitAt v 2 then s.migGo else s
  else if 0x41000 ≤ r ∧ r < 0x41000 + 16 * 36 then s.writeAssign ((r - 0x41000) / 16) (r % 16 != 0) w
  else if 0x42000 ≤ r ∧ r < 0x43000 then
    let m := if r % 16 = 0 then bits w 8 44 * 256 + w % 2 else bits w 32 6 * 2 ^ 32 + bits w 0 12
    { s with cgrp := s.cgrp.set 0 ((r - 0x42000) / 8) (BitVec.ofNat 64 m) }
  else if r = 0x43000 then { s with devnum := BitVec.ofNat 8 w }
  else s

/-- A CXL.io write of `n` bytes (R6, R299, R319). -/
def writeReg (s : State) (fn bar off n v : Nat) : State :=
  let v := v % 2 ^ (8 * n)
  if !sizeOk off n || 64 ≤ fn then s
  else if bar = 0 then (if off < 0x10000 then s.writeIface fn off n v (fn == 0) else s)
  else if fn = 0 ∧ bar = 2 then (if off < 0x400000 then s.writeIface (off / 0x10000) (off % 0x10000) n v true else s)
  else if fn = 0 ∧ bar = 4 then s.writeBar4 off n v
  else s

/-! ### CXL.mem and CXL.cache -/

/-- Data leave the device toward the host (R349): each sector is checked, and poison goes with the data. -/
def toHost (s : State) (pa n : Nat) : State :=
  let s := (sectorsOf pa n).foldl (fun s i =>
    let s := s.cross dieHD0 (homeDie (128 * i))
    if (s.sector i).bad then (s.poisonHome i).e2eRecord 0 255 (128 * i) .none else s) s
  { s with replies := s.replies ++ [{ data := s.mem.read pa n, poison := s.poisoned pa n }] }

/-- A store of the host is applied at the homes of its lines with p = 0 (R253): its last ts. -/
def hostStore : Nat → Nat → List Byte → State → Nat × State
  | 0, _, _, s => (0, s)
  | k + 1, pa, d, s =>
    if d.isEmpty then (0, s)
    else
      let n := min d.length (1024 - pa % 1024)
      let (t, s) := s.placeStore dieHD0 0 pa (d.take n) 0
      let (u, s) := hostStore k (pa + n) (d.drop n) s
      (max t u, s)

/-- CXL ingress makes the check words of what it stores (R348). -/
def ingress (s : State) (pa n : Nat) : State :=
  (sectorsOf pa n).foldl (fun s k =>
    let m := s.sector k
    { s with meta_ := s.meta_.set {} k (if m.poison then m else { m with origin := 1 }) }) s

/-- The port on HD0 holds the host-side state of a SYS line (R253): some lease on it is open. -/
def portHolds (s : State) (pa : Nat) : Bool :=
  s.cores.any fun c => c.2.lines.any fun l => match l.2.st with
    | .copy p _ a _ _ rts _ => a == lineOf pa && s.pts c.1 p ≤ rts
    | .pinned _ _ _ => false

/-! ### Homes and logical time -/

/-- A committed store of the outbox that no earlier one to its home slice holds back (R246, R351). -/
def reqFree (rs : List Req) (i : Nat) : Bool :=
  match rs[i]? with
  | none => false
  | some r => (rs.take i).all fun q =>
      sliceOf q.pa != sliceOf r.pa

/-- One of the committed stores of a core that may be applied next is applied (R246, R249): the spec gives no order. -/
def applyOne (s : State) (c : Nat) : State :=
  let rs := (s.core c).outbox
  let is := (List.range rs.length).filter (reqFree rs)
  let (n, s) := s.takeFree
  let i := is.getD (if is.length ≤ 1 then 0 else Config.choose n % is.length) 0
  match rs[i]? with
  | none => s
  | some r => (s.onCore c fun k => { k with outbox := k.outbox.eraseIdx i }).applyReq c r

/-- The partitions that have a resident block on a core (R251). -/
def partsOn (s : State) (c : Nat) : List Nat :=
  ((s.blocks.filter fun x => x.2.core == c && !x.2.handler).map fun x => x.2.part).eraseDups

/-- The tick of a core is due (R251). -/
def tickDue (s : State) (c : Nat) : Bool := (s.core c).tick ≤ (s.core c).cycle

/-- The blocks of a partition that a rebase has yet to stop, as for a pre-emption (R251, R309). -/
def toQuiesce (s : State) (p : Nat) : List Nat :=
  (s.blocks.filter fun x => x.2.part == p && !x.2.handler && !x.2.killed && x.2.pre.isNone && !s.noWaveLeft x.1 &&
    !s.passedOver x.1).map (·.1)

/-- A block is asked to stop for a rebase: it needs no room. -/
def quiesceOne (s : State) (b : Nat) : State :=
  (s.onBlk b fun k => { k with pre := some { why := .rebase, deadline := s.nclk + s.graceNclk k.part } }).settleWaits b

/-- A partition is quiet (R251): its blocks have stopped, with their sequencers and copies, and no handler runs. -/
def isQuiet (s : State) (p : Nat) : Bool :=
  (s.blocks.filter fun x => x.2.part == p).all fun x =>
    s.rebasing x.1 && s.allStopped x.1 && ((x.2.pre.map (·.closed)).getD false) && !s.copiesRun x.1

/-- Every committed store of a partition is applied. -/
def drainPart (s : State) (p : Nat) : State :=
  s.cores.foldl (fun s c => s.drainSome c.1 fun r => r.part == p) s

/-- A copy of a line after a rebase of its partition. -/
def rebaseLine (p : Nat) (l : Line) : Line :=
  match l.st with
  | .copy q v a cls w r d => if q = p then { l with st := .copy q v a cls (rebased w) (rebased r) d } else l
  | .pinned _ _ _ => l

/-- A core after a rebase of a partition. -/
def rebaseCore (p : Nat) (c : CoreSt) : CoreSt :=
  { c with
    pts := c.pts.set 0 p (rebased (c.pts.get 0 p)), lines := c.lines.map fun l => (l.1, rebaseLine p l.2)
    copies := c.copies.map fun x => (x.1, if x.2.part = p then { x.2 with ts := rebased x.2.ts } else x.2) }

/-- A launch after a rebase of its partition. -/
def rebaseLaunch (l : Launch) : Launch :=
  { l with
    cpts := rebased l.cpts, relts := rebased l.relts
    frontier := l.frontier.map fun f => { f with ft := rebased f.ft } }

/-- The block images of a partition in its save pool have their PTS rebased, and their check words made afresh (R251,
R311). DEDUCED (log entry 110): a save area, which is memory of the partition, is left as it is. -/
def rebaseImage (s : State) (p : Nat) (x : SavedImg) : State :=
  if x.why = .savec then s
  else
    let d := s.mem.read x.addr (s.mem.readNat (x.addr + 12) 4)
    let h := d.take 24 ++ toBytes 6 (rebased (fieldAt d 24 6)) ++ (d.drop 30).take 30
    s.hubMerge p x.addr x.addr (h ++ toBytes 4 (crc32c (h ++ toBytes 4 0 ++ d.drop 64)))

/-- A tag window after a rebase of a partition: the ts of its requests (R251, R258). -/
def rebaseTags (p : Nat) (t : TagWin) : TagWin :=
  { t with window := t.window.map fun w => if w.part = p then { w with ts := rebased w.ts } else w }

/-- A rebase of the logical times of a partition that is quiet (R251, R282, R323). -/
def rebase (s : State) (p : Nat) : State :=
  let s := s.drainPart p
  let s := (s.part p).saved.foldl (fun s x => s.rebaseImage p x) s
  let ps := match pagesFrom s.mem p 4 0 (bits (s.part p).tableRoot.toNat 16 36 * 2 ^ 16) with
    | l => if bitAt (s.part p).tableRoot.toNat 0 then l else []
  let mine (k : Nat) : Bool := ps.any fun x => x.1 ≤ 1024 * k && 1024 * k < x.1 + x.2
  { s with
    lease := (s.lease.map fun x => if mine x.1 then (x.1, (rebased x.2.1, rebased x.2.2)) else x).filter fun x => x.2 != (0, 0)
    cores := s.cores.map fun c => (c.1, rebaseCore p c.2)
    blocks := s.blocks.map fun k => (k.1, if k.2.part = p then
      { k.2 with waves := k.2.waves.map fun w => { w with seen := rebased w.seen, pend := rebased w.pend } } else k.2)
    gates := s.gates.map fun g => (g.1, if g.2.owner = p then { g.2 with ts := rebased g.2.ts } else g.2)
    parts := s.parts.map fun x => (x.1, if x.1 = p then
      { x.2 with
        cpts := rebased x.2.cpts, relts := rebased x.2.relts, cseen := rebased x.2.cseen, launches := x.2.launches.map fun l => (l.1, rebaseLaunch l.2) }
      else x.2)
    tags := s.tags.map fun t => (t.1, rebaseTags p t.2)
    hostts := if p = 0 then rebased s.hostts else s.hostts }

end State

/-- REGISTER_WRITE (R6, R299, R319): a write by CXL.io; a register with a behaviour of its own behaves so. -/
def execRegisterWrite (fn bar off size : Nat) (v : B64) (s : State) : Out :=
  s.byHost fun s => s.writeReg fn bar off size v.toNat

/-- CXL_MEM_READ (R253, R334): a read of the memory window extends no lease; other addresses get no data. -/
def execCxlMemRead (pa len : Nat) (s : State) : Out :=
  s.byHost (fun s => if pa + len ≤ 2 ^ 40 then s.toHost pa len else s) false

/-- CXL_MEM_WRITE (R253, R282, R334). -/
def execCxlMemWrite (pa : Nat) (data : List Byte) (s : State) : Out :=
  s.byHost (fun s =>
    if pa + data.length ≤ 2 ^ 40 then
      let (t, s) := State.hostStore (data.length / 1024 + 2) pa data s
      let s := s.ingress pa data.length
      { s with hostts := max s.hostts t }
    else s) false

/-- CXL_CACHE_SNOOP (R253): the host reads a SYS line, or takes it and stores, after every lease on it. -/
def execCxlCacheSnoop (pa : Nat) (data : Option (List Byte)) (s : State) : Out :=
  s.byHost (fun s =>
    if pa / 2 ^ 40 = 0 ∨ 2 ^ 52 ≤ pa then s
    else match data with
      | none => if s.portHolds pa then s.toHost (State.lineOf pa) 1024 else s
      | some d => (State.hostStore (d.length / 1024 + 2) pa d s).2) false

/-- IDE_KEY_SETUP (R334). -/
def execIdeKeySetup (stream : Nat) (key : List Byte) (s : State) : Out :=
  s.byHost fun s => { s with sec := { s.sec with ide := s.sec.ide.insert stream key } }

/-- TLB_INV_GO (R240). -/
def execTlbInvGo (part : Nat) (v : B64) (s : State) : Out :=
  s.byHost fun s => s.writeTlbInv part v.toNat true

/-- TLB_INV_COMPLETE (R240). -/
def execTlbInvComplete (part : Nat) (s : State) : Out :=
  .next (if s.tlbInvDue part then
      let v := (s.part part).tlbInv
      (s.purge part v.toNat).onPart part fun x => { x with tlbInv := v &&& ~~~1#64 }
    else s)

/-- SLICE_EXPIRY (R321). -/
def execSliceExpiry (cluster : Nat) (s : State) : Out := .next (s.endSlice cluster)

/-- CLUSTER_ASSIGN_WRITE (R321). -/
def execClusterAssignWrite (cluster : Nat) (mask : Bool) (v : B64) (s : State) : Out :=
  s.byHost fun s => s.writeAssign cluster mask v.toNat

/-- HOME_READ (R241, R249, R250): a core fills or renews a line that no instruction has asked for, or fetches on a wrong path,
which fills its TLB; a page that does not allow it drops the request. -/
def execHomeRead (core : Nat) (who : HomeReader) (va pa : Nat) (s : State) : Out :=
  if s.lcoreCount ≤ core then .next s
  else if who.fetch then match s.translate core who.part { Access.fetch with demand := false } va with
    | (.ok _, s) => .next s
    | (.error _, s) => .next (s.onCore core fun c => { c with pfDrop := c.pfDrop + 1 })
  else match s.translate core who.part Access.prefetch va with
    | (.ok t, s) => .next (if t.pa / 1024 = pa / 1024 then ((s.beforeRead core who.part va t.pa t.cls).lineFor core who.part va t.pa t.cls).2 else s)
    | (.error _, s) => .next (s.onCore core fun c => { c with pfDrop := c.pfDrop + 1 })

/-- HOME_WRITE (R246, R249). -/
def execHomeWrite (core : Nat) (s : State) : Out :=
  .next (if (s.core core).outbox.isEmpty then s else s.applyOne core)

/-- PTS_TICK (R251). -/
def execPtsTick (core : Nat) (s : State) : Out :=
  .next (if s.tickDue core then
      (s.partsOn core).foldl (fun s p => s.raisePts core p (s.pts core p + 1))
        (s.onCore core fun c => { c with tick := c.tick + 64 })
    else s)

/-- PTS_REBASE (R251): a partition of which a pts has reached 2^47 is quiesced as for a pre-emption; once it is quiet its
logical times are rebased, and its blocks go on. -/
def execPtsRebase (part : Nat) (s : State) : Out :=
  if !s.rebaseDue part then .next s
  else
    let bs := s.toQuiesce part
    if !bs.isEmpty then .next (bs.foldl (fun s b => s.quiesceOne b) s)
    else if s.isQuiet part then
      .next ((s.rebase part).blocks.foldl (fun (s : State) (x : Nat × Block) => if s.rebasing x.1 && x.2.part == part then s.goOn x.1 else s)
        (s.rebase part))
    else .next s

end Sys2Proof.Machine
end

