-- ==== Sys2Proof/Machine/Boot.lean ====
section
/-!
DEFINITION. Reset, boot, identity, power, fatal errors and the sideband (R17, R19, R277, R352 to R360).
-/

namespace Sys2Proof.Machine

/-- BOOT_STAT's ERR codes (R353). -/
def errSig : Nat := 1
/-- ROLLBACK. -/
def errRollback : Nat := 2
/-- MEMTRAIN. -/
def errMem : Nat := 3
/-- UCIE. -/
def errUcie : Nat := 4
/-- MAP. -/
def errMap : Nat := 5
/-- CXL. -/
def errCxl : Nat := 6

/-- The table that R17 makes of the enabling pattern. -/
def lcoreTable (en : List B64) : List B16 :=
  (List.range 4).flatMap fun d => (List.range 9).flatMap fun c => (List.range 4).filterMap fun k =>
    if bitAt (en.getD d 0).toNat (4 * c + k) then some (BitVec.ofNat 16 (2 ^ 15 + d * 256 + c * 16 + k)) else none

/-- The code that follows the header of an image (R354). -/
def imageCode (d : List Byte) : List Byte := (d.drop 256).take (fieldAt d 4 4)

/-- The ROM's check of an image (R354): 0 where it is accepted, else the error. -/
def imageError (sec : Security) (d : List Byte) : Nat :=
  let key := (d.drop 16).take 96
  if sha384 key != sec.keyDigest ||
      !ecdsaVerify key (sha384 (d.take 160 ++ imageCode d)) ((d.drop 160).take 48) ((d.drop 208).take 48) then errSig
  else if fieldAt d 8 1 < sec.svnFloor then errRollback else 0

/-- One die's step and calm windows after a 1 ms window (R358). -/
def powerStep (limit watts temp : Nat) (x : Nat × Nat) : Nat × Nat :=
  if limit < watts ∨ 105 < temp then (min 4 (x.1 + 1), 0)
  else if 100 * watts < 95 * limit ∧ temp < 100 then
    if x.2 + 1 < 4 then (x.1, x.2 + 1) else (x.1 - 1, 0)
  else (x.1, 0)

namespace State

/-- A device reset (R352): every register takes its Reset value. What no reset clears: the fuses (R354), memory with its
metadata, the replies that have left, and what the outside does next. -/
def resetDevice (s : State) (boots : B32) : State :=
  { State.reset with
    coreEn := s.coreEn, mem := s.mem, meta_ := s.meta_, msi := s.msi, replies := s.replies, agenda := s.agenda, upsets := s.upsets
    free := s.free
    sec := { svnFloor := s.sec.svnFloor, keyDigest := s.sec.keyDigest, bootCount := boots } }

/-- BOOT_STAT (R353). -/
def setBoot (s : State) (stage err : Nat) : State := { s with bootStat := BitVec.ofNat 32 (err * 256 + stage) }

/-- A stage is done: the next one is recorded (R353). -/
def bootNext (s : State) : State := s.setBoot (s.bootStat.toNat % 16 + 1) 0

/-- A stage has failed (R353). -/
def bootFail (s : State) (err : Nat) : State := s.setBoot (s.bootStat.toNat % 16) err

/-- The fields of an LCORE_MAP entry (R18); its other bits are reserved. -/
def lcoreFields : B16 := 0x83F3

/-- The port answers a configuration request of a function (R277, R353): from stage 5 on those of functions 0 to 63; after a
failure in stage 5 or later only reads of function 0. -/
def configOpen (s : State) (fn : Nat) (write : Bool) : Bool :=
  decide (fn < 64 ∧ 5 ≤ s.bootStat.toNat % 16) && (bits s.bootStat.toNat 8 8 == 0 || (fn == 0 && !write))

/-- LCORE_MAP and LCORE_COUNT are as R17 makes them (R19): every entry beyond the enabled cores is 0. -/
def mapHolds (s : State) : Bool :=
  let t := lcoreTable s.coreEn
  s.lcoreCount == t.length && (List.range 144).all fun n => s.lcoreMap.get 0 n == t.getD n 0

/-- The present boot stage ends (R353). -/
def runStage (s : State) (x : BootInput) : State :=
  if bits s.bootStat.toNat 8 8 ≠ 0 then s
  else match s.bootStat.toNat % 16 with
    | 0 => { s with sec := { s.sec with image := x.image } }.bootNext
    | 1 =>
      let d := s.sec.image
      let e := imageError s.sec d
      if e ≠ 0 then s.bootFail e
      else { s with sec := { s.sec with runSvn := fieldAt d 8 1, fwDigest := sha384 (d.take 256 ++ imageCode d) } }.bootNext
    | 2 =>
      if !x.ok then s.bootFail errMem
      else
        { s with mem := s.mem.filter fun c => 2 ^ 40 ≤ c.1, meta_ := s.meta_.filter fun c => 2 ^ 33 ≤ c.1 }.bootNext
    | 3 => if x.ok then s.bootNext else s.bootFail errUcie
    | 4 =>
      let map := (x.map.take 144).map (· &&& lcoreFields)
      let s := { s with
        lcoreCount := x.count % 256
        lcoreMap := map.zipIdx.foldl (fun (t : Tab B16) (e : B16 × Nat) => t.set 0 e.2 e.1) [] }
      if s.mapHolds then s.bootNext else s.bootFail errMap
    | 5 =>
      if !x.ok then s.bootFail errCxl
      else { s with cxlUp := true, sec := { s.sec with bootCount := s.sec.bootCount + 1 } }.bootNext
    | _ => s

/-! ### Measurements -/

/-- The bytes that measurement 2 digests (R355): the fuse words. -/
def fuseBytes (s : State) : List Byte :=
  toBytes 8 s.sec.svnFloor ++ (s.coreEn.flatMap fun v => toBytes 8 v.toNat) ++ s.sec.keyDigest

/-- The bytes that measurement 3 digests (R355): CLA and CLM of each cluster, then TABLE_ROOT of every partition. -/
def configBytes (s : State) : List Byte :=
  ((List.range 36).flatMap fun k => toBytes 8 (s.readBar4 (0x41000 + 16 * k)) ++ toBytes 8 (s.readBar4 (0x41008 + 16 * k))) ++
    (List.range 64).flatMap fun p => toBytes 8 (s.readIface p 0x40)

/-- The four measurements (R355). -/
def measurements (s : State) : List Byte :=
  toBytesBe 48 Config.romDigest.toNat ++ padTo 48 (s.sec.fwDigest.take 48) ++ sha384 s.fuseBytes ++ sha384 s.configBytes

/-- The report (R355), signed with the identity key: r, then s. -/
def attest (s : State) (nonce : List Byte) : List Byte :=
  let d := toBytes 4 Config.devid ++ toBytes 4 s.sec.bootCount.toNat ++ padTo 48 (nonce.take 48) ++ s.measurements
  let x := Config.ecdsaSign s.sec.identityKey (sha384 d)
  d ++ toBytesBe 48 x.1.toNat ++ toBytesBe 48 x.2.toNat

/-! ### Power and fatal errors -/

/-- The end of a power window (R358); 115 °C stops CCLK. -/
def endWindow (s : State) (watts : Nat) (temps : List Nat) : State :=
  let p := s.power
  let xs := (List.range 4).map fun d => powerStep s.powerLimit watts (temps.getD d 0) (p.steps.getD d 0, p.calm.getD d 0)
  let s := { s with power := { p with watts := watts, steps := xs.map (·.1), calm := xs.map (·.2) } }
  match (List.range 4).find? fun d => 115 ≤ temps.getD d 0 with
  | some d => { s with power := { s.power with cclkOff := true } }.goViral 5 d
  | none => s

/-- A logical core stands on a lost die (R277). -/
def coreLost (s : State) (c : Nat) : Bool := s.lost.contains (s.slotOf c).1

/-- The loss of a compute die (R277): its held stores are lost; those that have committed were handed to their homes. -/
def loseDie (s : State) (d : Nat) : State :=
  let cs := (List.range s.lcoreCount).filter fun c => (s.slotOf c).1 == d
  let s := cs.foldl (fun s c => (s.core c).outbox.foldl (fun s r => s.applyReq c r) (s.onCore c fun k => { k with outbox := [] })) s
  let s := (s.blocks.filter fun b => cs.contains b.2.core).foldl (fun s b =>
    s.onBlk b.1 fun k => { k with waves := k.waves.map fun w => { w with held := [], heldIn := [] } }) s
  { s with lost := if s.lost.contains d then s.lost else s.lost ++ [d] }

end State

/-- COLD_RESET (R352). -/
def execColdReset (s : State) : Out := .next (s.resetDevice 0)

/-- WARM_RESET (R352). -/
def execWarmReset (s : State) : Out := .next (s.resetDevice s.sec.bootCount)

/-- FUNCTION_LEVEL_RESET (R352): of function 0 a warm reset, of a virtual function a CTX.RESET of its partition. The port
answers configuration requests in the viral state too (R277); before boot stage 5 the requester is asked to retry (R353). -/
def execFunctionLevelReset (fn : Nat) (s : State) : Out :=
  .next (if !s.configOpen fn true then (if fn < 64 then { s with replies := s.replies ++ s.hostAnswer true } else s)
    else if fn = 0 then s.resetDevice s.sec.bootCount
    else s.resetContext fn)

/-- BOOT_STAGE (R353). -/
def execBootStage (x : BootInput) (s : State) : Out := .next (s.runStage x)

/-- ATTESTATION_REPORT (R355, R356). -/
def execAttestationReport (nonce : List Byte) (s : State) : Out :=
  s.byHost fun s =>
    let r := s.attest nonce
    { s with sec := { s.sec with report := r }, replies := s.replies ++ [{ data := r }] }

/-- POWER_WINDOW (R358). -/
def execPowerWindow (watts : Nat) (temps : List Nat) (s : State) : Out := .next (s.endWindow watts temps)

/-- FATAL_ERROR (R277, R359). -/
def execFatalError (cause unitNo : Byte) (s : State) : Out :=
  let t := s.goViral cause.toNat unitNo.toNat
  .next (match cause.toNat with
    | 1 => t
    | 2 => t.loseDie unitNo.toNat
    | 3 => t
    | 4 => t
    | 5 => { t with power := { t.power with cclkOff := true } }
    | _ => s)

/-- SIDEBAND_READ (R360): an 8-byte read of a management register, in every state. -/
def execSidebandRead (off : Nat) (s : State) : Out :=
  .next { s with replies := s.replies ++ [{ data := toBytes 8 (s.readMgmt off 8) }] }

/-- SIDEBAND_RESET (R352, R360): an empty acknowledgment, then a warm reset. -/
def execSidebandReset (s : State) : Out :=
  .next ({ s with replies := s.replies ++ [Reply.mk [] false .ok] }.resetDevice s.sec.bootCount)

/-- SVN_FLOOR_RAISE (R354): only to the SVN of the running image, and never down. -/
def execSvnFloorRaise (svn : Nat) (s : State) : Out :=
  .next (if 2 ≤ s.bootStat.toNat % 16 ∧ svn = s.sec.runSvn ∧ s.sec.svnFloor < svn then
      { s with sec := { s.sec with svnFloor := svn } }
    else s)

end Sys2Proof.Machine
end

