-- ==== Sys2Proof/Machine/FloatV.lean ====
section
/-!
DEFINITION. The floating, packed, conversion and block-scale instructions (R124 to R138).
-/

namespace Sys2Proof.Machine

/-- The rounding mode of an optional EXT (R61). -/
def modeOf (x : Option Ext) : RMode := RMode.ofCode (payload x)

/-- A two-source F32 word (R125). -/
def fop2 (f : FmtAx) (g : RMode → Nat → Nat → Res) (s : State) : Out :=
  .next (s.onIssue fun e => e.mapV f.n f.d 1 0 fun l => g (modeOf f.x) (e.f32 f.a l) (e.f32 f.b l))

/-- A packed 16-bit word of two sources in format `m` (R132). -/
def hop2 (m : FFmt) (f : FmtAx) (g : RMode → Nat → Nat → Res) (s : State) : Out :=
  .next (s.onIssue fun e => e.mapV f.n f.d 1 0 fun l =>
    packed (fun a b _ => g (modeOf f.x) a b) (src32 (.flt m) e.old l f.a) (src32 (.flt m) e.old l f.b) 0)

/-- A packed fused multiply-add in format `m` (R132). -/
def hop3 (m : FFmt) (f : FmtDx) (s : State) : Out :=
  .next (s.onIssue fun e => e.mapV 0 f.d 1 0 fun l =>
    packed (m.fma (modeOf f.x)) (src32 (.flt m) e.old l f.a) (src32 (.flt m) e.old l f.b) (e.old.readV l f.d.toNat))

/-- A two-source F64 word (R133). -/
def dop2 (f : FmtAx) (g : RMode → Nat → Nat → Res) (s : State) : Out :=
  .next (s.onIssue fun e => e.mapV f.n f.d 2 0 fun l =>
    g (modeOf f.x) (src64 (.flt f64) e.old l f.a) (src64 (.flt f64) e.old l f.b))

/-- A one-source F32 word of the X pipe (R131). -/
def xop1 (f : FmtA1) (g : Nat → Res) (s : State) : Out :=
  .next (s.onIssue fun e => e.mapV f.n f.d 1 1 fun l => g (e.f32 f.a l))

/-- FADD (R125). -/
def execFadd (f : FmtAx) (s : State) : Out :=
  fop2 f f32.add s

/-- FSUB (R125). -/
def execFsub (f : FmtAx) (s : State) : Out :=
  fop2 f f32.sub s

/-- FMUL (R125). -/
def execFmul (f : FmtAx) (s : State) : Out :=
  fop2 f f32.mul s

/-- FMA (R125). -/
def execFma (f : FmtDx) (s : State) : Out :=
  .next (s.onIssue fun e => e.mapV 0 f.d 1 0 fun l =>
    f32.fma (modeOf f.x) (e.f32 f.a l) (e.f32 f.b l) (e.old.readV l f.d.toNat))

/-- FMIN (R126). -/
def execFmin (f : FmtA) (s : State) : Out :=
  .next (s.onIssue fun e => e.mapV f.n f.d 1 0 fun l => ⟨f32.minmax false (e.f32 f.a l) (e.f32 f.b l), 0⟩)

/-- FMAX (R126). -/
def execFmax (f : FmtA) (s : State) : Out :=
  .next (s.onIssue fun e => e.mapV f.n f.d 1 0 fun l => ⟨f32.minmax true (e.f32 f.a l) (e.f32 f.b l), 0⟩)

/-- FABS (R127). -/
def execFabs (f : FmtA1) (s : State) : Out :=
  .next (s.onIssue fun e => e.mapV f.n f.d 1 0 fun l => ⟨f32.abs (e.f32 f.a l), 0⟩)

/-- FNEG (R127). -/
def execFneg (f : FmtA1) (s : State) : Out :=
  .next (s.onIssue fun e => e.mapV f.n f.d 1 0 fun l => ⟨f32.neg (e.f32 f.a l), 0⟩)

/-- FCLASS (R128). -/
def execFclass (f : FmtA1) (s : State) : Out :=
  .next (s.onIssue fun e => e.mapV f.n f.d 1 0 fun l => ⟨f32.fclass (e.f32 f.a l), 0⟩)

/-- FCMP (R130). -/
def execFcmp (f : FmtC) (s : State) : Out :=
  .next (s.onIssue fun e => e.mapP f.p.toNat fun l => f32.test f.k.toNat (e.f32 f.a l) (e.f32 f.b l))

/-- DCMP (R130). -/
def execDcmp (f : FmtC) (s : State) : Out :=
  .next (s.onIssue fun e => e.mapP f.p.toNat fun l =>
    f64.test f.k.toNat (src64 (.flt f64) e.old l f.a) (src64 (.flt f64) e.old l f.b))

/-- FRND (R129). -/
def execFrnd (f : FmtF) (s : State) : Out :=
  .next (s.onIssue fun e => e.mapV f.n f.d 1 0 fun l => f32.rnd (RMode.ofCode f.f.toNat) (e.f32 f.a l))

/-- FRCP (R131). -/
def execFrcp (f : FmtA1) (s : State) : Out :=
  xop1 f frcp s

/-- FRSQ (R131). -/
def execFrsq (f : FmtA1) (s : State) : Out :=
  xop1 f frsq s

/-- FSQRT (R131). -/
def execFsqrt (f : FmtA1) (s : State) : Out :=
  xop1 f fsqrt s

/-- FEXP2 (R131). -/
def execFexp2 (f : FmtA1) (s : State) : Out :=
  xop1 f fexp2 s

/-- FLOG2 (R131). -/
def execFlog2 (f : FmtA1) (s : State) : Out :=
  xop1 f flog2 s

/-- FSIN (R131). -/
def execFsin (f : FmtA1) (s : State) : Out :=
  xop1 f fsin s

/-- FCOS (R131). -/
def execFcos (f : FmtA1) (s : State) : Out :=
  xop1 f fcos s

/-- FTANH (R131). -/
def execFtanh (f : FmtA1) (s : State) : Out :=
  xop1 f ftanh s

/-- HADD2 (R132). -/
def execHadd2 (f : FmtAx) (s : State) : Out :=
  hop2 f16 f f16.add s

/-- HMUL2 (R132). -/
def execHmul2 (f : FmtAx) (s : State) : Out :=
  hop2 f16 f f16.mul s

/-- BADD2 (R132). -/
def execBadd2 (f : FmtAx) (s : State) : Out :=
  hop2 b16 f b16.add s

/-- BMUL2 (R132). -/
def execBmul2 (f : FmtAx) (s : State) : Out :=
  hop2 b16 f b16.mul s

/-- HFMA2 (R132). -/
def execHfma2 (f : FmtDx) (s : State) : Out :=
  hop3 f16 f s

/-- BFMA2 (R132). -/
def execBfma2 (f : FmtDx) (s : State) : Out :=
  hop3 b16 f s

/-- DADD (R133). -/
def execDadd (f : FmtAx) (s : State) : Out :=
  dop2 f f64.add s

/-- DMUL (R133). -/
def execDmul (f : FmtAx) (s : State) : Out :=
  dop2 f f64.mul s

/-- DFMA (R133). -/
def execDfma (f : FmtDx) (s : State) : Out :=
  .next (s.onIssue fun e => e.mapV 0 f.d 2 0 fun l =>
    f64.fma (modeOf f.x) (src64 (.flt f64) e.old l f.a) (src64 (.flt f64) e.old l f.b) (e.old.readVn l f.d.toNat 2))

/-- The source of CVT by the width of its format (R134). An inline constant of an E4M3 or E5M2 source is read as the F32
entry and converted as if the source were F32; the format in force comes with the value. -/
def cvtSource (u : Nat) (e : Issue) (b : Byte) (l : Nat) : CFmt × Nat :=
  let c := CFmt.ofCode u
  match c with
  | .int _ 64 => (c, e.i64 b l)
  | .int _ _ => (c, e.i32 b l)
  | .flt m =>
      if m = f64 then (c, src64 (.flt f64) e.old l b)
      else if 0xE0 ≤ b.toNat ∧ m.width = 8 then (.flt f32, e.f32 b l)
      else (c, src32 (.flt m) e.old l b % 2 ^ m.width)

/-- CVT (R134). -/
def execCvt (f : FmtFx) (s : State) : Out :=
  .next (s.onIssue fun e => e.mapV f.n f.d (if f.t.toNat ≥ 0xB then 2 else 1) 1 fun l =>
    let x := cvtSource f.u.toNat e f.a l
    convert (CFmt.ofCode f.t.toNat) x.1 (modeOf f.x) x.2)

/-- BSCL (R136). -/
def execBscl (f : FmtA) (s : State) : Out :=
  .next (s.onIssue fun e => e.mapV f.n f.d 1 1 fun l => blockScale (e.i32 f.a l) (e.i32 f.b l))

/-- QEXP (R137): the source a is an F32 operand, the width an integer one. -/
def execQexp (f : FmtA) (s : State) : Out :=
  .next (s.onIssue fun e => e.mapV f.n f.d 1 1 fun l => qexp (e.f32 f.a l) (e.i32 f.b l))

/-- The 24 values of QPK4 and QPK8 in a fibre (R138). -/
def qpkValues (e : Issue) (fmt a l : Nat) : List FVal :=
  (List.range 24).map fun i =>
    if fmt = 0 then f32.read (e.old.readV l (a + i))
    else (if fmt = 1 then f16 else b16).read (bits (e.old.readV l (a + i / 2)) (16 * (i % 2)) 16)

/-- QPK4 (`w` = 4) and QPK8 (`w` = 8): the block to 3 or 6 registers, the scale to the next and to l1 (R138). -/
def qpk (w : Nat) (f : FmtQ) (s : State) : Out :=
  .next (s.onIssue fun e => e.eff.foldl (fun e' l =>
    let b := quant (qpkValues e f.f.toNat f.a.toNat l) w (f.m == 1)
    let k := 24 * w / 32
    (e'.onArch fun a => ((a.writeVn l f.d.toNat k (packElems w b.e)).writeV l (f.d.toNat + k) b.x).writeL l 1 b.x).addFlags l b.fl)
    (e.clearLatch 1))

/-- QPK4 (R138). -/
def execQpk4 (f : FmtQ) (s : State) : Out :=
  qpk 4 f s

/-- QPK8 (R138). -/
def execQpk8 (f : FmtQ) (s : State) : Out :=
  qpk 8 f s


end Sys2Proof.Machine
end

