-- ==== Sys2Proof/Machine/Lane.lean ====
section
/-!
DEFINITION. The quad and lane instructions (R139 to R143).
-/

namespace Sys2Proof.Machine

/-- The slot whose register a fibre at position `p` of its quad reads (R26): itself when it stands in the bundle, else the
synthetic helper's source. -/
def Issue.quadSlot (e : Issue) (l : Nat) : Nat :=
  match e.synth.find? (fun p => p.1 == l) with
  | some p => p.2
  | none => l

/-- A quad word (R139): result `g` of the fibre's position and the source of each position of its quad. -/
def quadOp (f : FmtA1) (k : ConstKind) (g : Nat → (Nat → Nat) → Res) (s : State) : Out :=
  .next (s.onIssue fun e => e.mapV f.n f.d 1 0 fun l =>
    g (l % 4) fun p => src32 k e.old (e.quadSlot (l / 4 * 4 + p)) f.a)

/-- QSWX (R139). -/
def execQswx (f : FmtA1) (s : State) : Out :=
  quadOp f .int (fun p v => ⟨v (p ^^^ 1), 0⟩) s

/-- QSWY (R139). -/
def execQswy (f : FmtA1) (s : State) : Out :=
  quadOp f .int (fun p v => ⟨v (p ^^^ 2), 0⟩) s

/-- QSWD (R139). -/
def execQswd (f : FmtA1) (s : State) : Out :=
  quadOp f .int (fun p v => ⟨v (p ^^^ 3), 0⟩) s

/-- QBC (R139). -/
def execQbc (f : FmtA1) (s : State) : Out :=
  quadOp f .int (fun _ v => ⟨v 0, 0⟩) s

/-- QDDX (R139). -/
def execQddx (f : FmtA1) (s : State) : Out :=
  quadOp f (.flt f32) (fun p v => f32.sub .rne (v (p ||| 1)) (v (p &&& 2))) s

/-- QDDY (R139). -/
def execQddy (f : FmtA1) (s : State) : Out :=
  quadOp f (.flt f32) (fun p v => f32.sub .rne (v (p ||| 2)) (v (p &&& 1))) s

/-- A shuffle (R141): each receiver reads source a of the slot `t` gives it, 0 from a slot that takes no part. -/
def shuffle (f : FmtA) (t : Issue → Nat → Nat) (s : State) : Out :=
  .next (s.onIssue fun e => e.mapV f.n f.d 1 0 fun l =>
    ⟨if e.lanes.contains (t e l) then e.i32 f.a (t e l) else 0, 0⟩)

/-- SHFL (R141). -/
def execShfl (f : FmtA) (s : State) : Out :=
  shuffle f (fun e l => e.i32 f.b l % 32) s

/-- SHFLX (R141). -/
def execShflx (f : FmtA) (s : State) : Out :=
  shuffle f (fun e l => l ^^^ (e.i32 f.b l % 32)) s

/-- BCAST (R141). -/
def execBcast (f : FmtA) (s : State) : Out :=
  shuffle f (fun e _ => e.i32 f.b (e.live.headD 0) % 32) s

/-- VOTE (R142). -/
def execVote (f : FmtVote) (s : State) : Out :=
  .next (s.onIssue fun e =>
    let yes := e.effLive.filter fun l => e.old.readP l f.p.toNat != (f.i == 1)
    let r := match f.m.toNat with
      | 0 => yes.foldl (fun m l => m ||| 2 ^ l) 0
      | 1 => b2n (!yes.isEmpty)
      | _ => b2n (yes.length == e.effLive.length)
    e.mapV f.n f.d 1 0 fun _ => ⟨r, 0⟩)

/-- The combining operations of WRED and WSCAN but xadd (R143). -/
def laneOp (fn a b : Nat) : Res :=
  match fn with
  | 0 => ⟨addW 32 a b, 0⟩
  | 1 => ⟨sminmax 32 false a b, 0⟩
  | 2 => ⟨sminmax 32 true a b, 0⟩
  | 3 => ⟨nminmax false a b, 0⟩
  | 4 => ⟨nminmax true a b, 0⟩
  | 5 => ⟨a &&& b, 0⟩
  | 6 => ⟨a ||| b, 0⟩
  | 7 => ⟨a ^^^ b, 0⟩
  | 8 => f32.add .rne a b
  | 9 => ⟨f32.minmax false a b, 0⟩
  | _ => ⟨f32.minmax true a b, 0⟩

/-- COMBINE of R143 with the flags gathered. -/
def combine (fn : Nat) : Option Res → Option Res → Option Res
  | none, y => y
  | x, none => x
  | some x, some y => let r := laneOp fn x.v y.v; some ⟨r.v, x.fl ||| y.fl ||| r.fl⟩

/-- One level of the balanced tree: neighbours combined (R143). -/
def pairUp (fn : Nat) : List (Option Res) → List (Option Res)
  | x :: y :: r => combine fn x y :: pairUp fn r
  | l => l

/-- The balanced tree of R143 over 2^k slots. -/
def treeFold (fn : Nat) : Nat → List (Option Res) → Option Res
  | 0, l => l.headD none
  | k + 1, l => treeFold fn k (pairUp fn l)

/-- How a lane word's source is read (R63, R143): as F32 for the floating operations. -/
def laneConst (fn : Nat) : ConstKind := if 8 ≤ fn then .flt f32 else .int

/-- The contributors' values by slot (R143). -/
def laneVals (e : Issue) (fn : Nat) (a : Byte) : List (Option Res) :=
  (List.range 32).map fun l => if e.effLive.contains l then some ⟨src32 (laneConst fn) e.old l a, 0⟩ else none

/-- The exact sum of some values, rounded once (R143, xadd). -/
def xaSum (vs : List (Option Res)) : Option Res :=
  let l := vs.filterMap id
  if l.isEmpty then none else some ((l.foldl (fun c r => c.add (f32.read r.v)) ({} : Xa)).round f32)

/-- WRED's one result (R143). -/
def wredVal (fn : Nat) (vs : List (Option Res)) : Res :=
  (if fn = 11 then xaSum vs else treeFold fn 5 vs).getD ⟨0, 0⟩

/-- WSCAN's result at slot `l` (R143). -/
def wscanVal (fn : Nat) (vs : List (Option Res)) (l : Nat) : Res :=
  let p := vs.take (l + 1)
  (if fn = 11 then xaSum p else p.foldl (combine fn) none).getD ⟨0, 0⟩

/-- WRED (R143): its flags are ORed once a word. -/
def execWred (f : FmtF) (s : State) : Out :=
  .next (s.onIssue fun e =>
    let r := wredVal f.f.toNat (laneVals e f.f.toNat f.a)
    { e.mapV f.n f.d 1 0 fun _ => ⟨r.v, 0⟩ with fl := e.fl ||| r.fl })

/-- WSCAN (R143). -/
def execWscan (f : FmtF) (s : State) : Out :=
  .next (s.onIssue fun e =>
    let vs := laneVals e f.f.toNat f.a
    { e.mapV f.n f.d 1 0 fun l => ⟨(wscanVal f.f.toNat vs l).v, 0⟩ with
      fl := e.eff.foldl (fun m l => m ||| (wscanVal f.f.toNat vs l).fl) e.fl })


end Sys2Proof.Machine
end

