-- ==== Sys2Proof/Machine/Scalar.lean ====
section
/-!
DEFINITION. The scalar and predicate instructions that touch neither memory nor system registers (R87 to R91).
-/

namespace Sys2Proof.Machine

/-- A scalar operation of two 64-bit sources (R87). -/
def sop2 (f : FmtA) (g : Nat → Nat → Nat) (s : State) : Out :=
  .next (s.onIssue fun e => e.putS f.n f.d 3 (g (e.ss f.a) (e.ss f.b)))

/-- A predicate operation of two sources (R91). -/
def pop2 (f : FmtP) (g : Bool → Bool → Bool) (s : State) : Out :=
  .next (s.onIssue fun e => e.mapP f.p.toNat fun l =>
    g (e.old.readP l f.q.toNat != (f.i == 1)) (e.old.readP l f.r.toNat != (f.j == 1)))

/-- SADD (R87). -/
def execSadd (f : FmtA) (s : State) : Out :=
  sop2 f (addW 64) s

/-- SSUB (R87). -/
def execSsub (f : FmtA) (s : State) : Out :=
  sop2 f (subW 64) s

/-- SMUL (R87). -/
def execSmul (f : FmtA) (s : State) : Out :=
  sop2 f (mulW 64) s

/-- SAND (R87). -/
def execSand (f : FmtA) (s : State) : Out :=
  sop2 f ((· &&& ·)) s

/-- SOR (R87). -/
def execSor (f : FmtA) (s : State) : Out :=
  sop2 f ((· ||| ·)) s

/-- SXOR (R87). -/
def execSxor (f : FmtA) (s : State) : Out :=
  sop2 f ((· ^^^ ·)) s

/-- SSHL (R87). -/
def execSshl (f : FmtA) (s : State) : Out :=
  sop2 f (shlW 64) s

/-- SSHR (R87). -/
def execSshr (f : FmtA) (s : State) : Out :=
  sop2 f (shrW 64) s

/-- SMIN (R87). -/
def execSmin (f : FmtA) (s : State) : Out :=
  sop2 f (sminmax 64 false) s

/-- SMAX (R87). -/
def execSmax (f : FmtA) (s : State) : Out :=
  sop2 f (sminmax 64 true) s

/-- SMOV (R88). -/
def execSmov (f : FmtA1) (s : State) : Out :=
  .next (s.onIssue fun e => e.putS f.n f.d 3 (e.ss f.a))

/-- SMOVI (R88): the sign-extended immediate. -/
def execSmovi (f : FmtI) (s : State) : Out :=
  .next (s.onIssue fun e => e.putS f.n f.d 3 (wrap 64 (sext 32 (f.x.p.toNat * 256 + f.i.toNat))))

/-- SSEL (R88): the predicate of the lowest-slot fibre. -/
def execSsel (f : FmtS) (s : State) : Out :=
  .next (s.onIssue fun e => e.putS f.n f.d 3
    (if e.old.readP e.low (bits f.x.p.toNat 0 4) != bitAt f.x.p.toNat 4 then e.ss f.a else e.ss f.b))

/-- SCMP (R89): one result, written in every fibre in which the word takes effect. -/
def execScmp (f : FmtC) (s : State) : Out :=
  .next (s.onIssue fun e => e.mapP f.p.toNat fun _ => scmpTest f.k.toNat (e.ss f.a) (e.ss f.b))

/-- PAND (R91). -/
def execPand (f : FmtP) (s : State) : Out :=
  pop2 f ((· && ·)) s

/-- POR (R91). -/
def execPor (f : FmtP) (s : State) : Out :=
  pop2 f ((· || ·)) s

/-- PXOR (R91). -/
def execPxor (f : FmtP) (s : State) : Out :=
  pop2 f ((· != ·)) s

/-- PNOT (R91). -/
def execPnot (f : FmtP1) (s : State) : Out :=
  .next (s.onIssue fun e => e.mapP f.p.toNat fun l => !(e.old.readP l f.q.toNat != (f.i == 1)))

/-- PMOV (R91). -/
def execPmov (f : FmtP1) (s : State) : Out :=
  .next (s.onIssue fun e => e.mapP f.p.toNat fun l => e.old.readP l f.q.toNat != (f.i == 1))


end Sys2Proof.Machine
end

