-- ==== Sys2Proof/Machine/Dispatch.lean ====
section
/-!
DEFINITION. The meaning of every instruction: one arm for each constructor of `Instr`.
-/

namespace Sys2Proof.Machine

/-- Carries out an instruction. -/
def exec (i : Instr) (s : State) : Host.Outcome State Fault Refusal :=
  match i with
  | .nop f => Sys2Proof.Machine.execNop f s
  | .mov f => Sys2Proof.Machine.execMov f s
  | .movi f => Sys2Proof.Machine.execMovi f s
  | .sel f => Sys2Proof.Machine.execSel f s
  | .iadd f => Sys2Proof.Machine.execIadd f s
  | .isub f => Sys2Proof.Machine.execIsub f s
  | .imul f => Sys2Proof.Machine.execImul f s
  | .imulh f => Sys2Proof.Machine.execImulh f s
  | .imad f => Sys2Proof.Machine.execImad f s
  | .imin f => Sys2Proof.Machine.execImin f s
  | .imax f => Sys2Proof.Machine.execImax f s
  | .nmin f => Sys2Proof.Machine.execNmin f s
  | .nmax f => Sys2Proof.Machine.execNmax f s
  | .iabs f => Sys2Proof.Machine.execIabs f s
  | .ineg f => Sys2Proof.Machine.execIneg f s
  | .and f => Sys2Proof.Machine.execAnd f s
  | .or f => Sys2Proof.Machine.execOr f s
  | .xor f => Sys2Proof.Machine.execXor f s
  | .andn f => Sys2Proof.Machine.execAndn f s
  | .not f => Sys2Proof.Machine.execNot f s
  | .shl f => Sys2Proof.Machine.execShl f s
  | .shr f => Sys2Proof.Machine.execShr f s
  | .sar f => Sys2Proof.Machine.execSar f s
  | .rot f => Sys2Proof.Machine.execRot f s
  | .popc f => Sys2Proof.Machine.execPopc f s
  | .clz f => Sys2Proof.Machine.execClz f s
  | .brev f => Sys2Proof.Machine.execBrev f s
  | .bfx f => Sys2Proof.Machine.execBfx f s
  | .bfi f => Sys2Proof.Machine.execBfi f s
  | .icmp f => Sys2Proof.Machine.execIcmp f s
  | .ncmp f => Sys2Proof.Machine.execNcmp f s
  | .iadd64 f => Sys2Proof.Machine.execIadd64 f s
  | .isub64 f => Sys2Proof.Machine.execIsub64 f s
  | .imad64 f => Sys2Proof.Machine.execImad64 f s
  | .shl64 f => Sys2Proof.Machine.execShl64 f s
  | .lea f => Sys2Proof.Machine.execLea f s
  | .sadd f => Sys2Proof.Machine.execSadd f s
  | .ssub f => Sys2Proof.Machine.execSsub f s
  | .smul f => Sys2Proof.Machine.execSmul f s
  | .sand f => Sys2Proof.Machine.execSand f s
  | .sor f => Sys2Proof.Machine.execSor f s
  | .sxor f => Sys2Proof.Machine.execSxor f s
  | .sshl f => Sys2Proof.Machine.execSshl f s
  | .sshr f => Sys2Proof.Machine.execSshr f s
  | .smin f => Sys2Proof.Machine.execSmin f s
  | .smax f => Sys2Proof.Machine.execSmax f s
  | .smov f => Sys2Proof.Machine.execSmov f s
  | .smovi f => Sys2Proof.Machine.execSmovi f s
  | .scmp f => Sys2Proof.Machine.execScmp f s
  | .ssel f => Sys2Proof.Machine.execSsel f s
  | .sld f => Sys2Proof.Machine.execSld f s
  | .sst f => Sys2Proof.Machine.execSst f s
  | .pand f => Sys2Proof.Machine.execPand f s
  | .por f => Sys2Proof.Machine.execPor f s
  | .pxor f => Sys2Proof.Machine.execPxor f s
  | .pnot f => Sys2Proof.Machine.execPnot f s
  | .pmov f => Sys2Proof.Machine.execPmov f s
  | .mfs f => Sys2Proof.Machine.execMfs f s
  | .mts f => Sys2Proof.Machine.execMts f s
  | .clock f => Sys2Proof.Machine.execClock f s
  | .fadd f => Sys2Proof.Machine.execFadd f s
  | .fsub f => Sys2Proof.Machine.execFsub f s
  | .fmul f => Sys2Proof.Machine.execFmul f s
  | .fma f => Sys2Proof.Machine.execFma f s
  | .fmin f => Sys2Proof.Machine.execFmin f s
  | .fmax f => Sys2Proof.Machine.execFmax f s
  | .fabs f => Sys2Proof.Machine.execFabs f s
  | .fneg f => Sys2Proof.Machine.execFneg f s
  | .fcmp f => Sys2Proof.Machine.execFcmp f s
  | .fclass f => Sys2Proof.Machine.execFclass f s
  | .frnd f => Sys2Proof.Machine.execFrnd f s
  | .frcp f => Sys2Proof.Machine.execFrcp f s
  | .frsq f => Sys2Proof.Machine.execFrsq f s
  | .fsqrt f => Sys2Proof.Machine.execFsqrt f s
  | .fexp2 f => Sys2Proof.Machine.execFexp2 f s
  | .flog2 f => Sys2Proof.Machine.execFlog2 f s
  | .fsin f => Sys2Proof.Machine.execFsin f s
  | .fcos f => Sys2Proof.Machine.execFcos f s
  | .ftanh f => Sys2Proof.Machine.execFtanh f s
  | .hadd2 f => Sys2Proof.Machine.execHadd2 f s
  | .hmul2 f => Sys2Proof.Machine.execHmul2 f s
  | .hfma2 f => Sys2Proof.Machine.execHfma2 f s
  | .badd2 f => Sys2Proof.Machine.execBadd2 f s
  | .bmul2 f => Sys2Proof.Machine.execBmul2 f s
  | .bfma2 f => Sys2Proof.Machine.execBfma2 f s
  | .dadd f => Sys2Proof.Machine.execDadd f s
  | .dmul f => Sys2Proof.Machine.execDmul f s
  | .dfma f => Sys2Proof.Machine.execDfma f s
  | .dcmp f => Sys2Proof.Machine.execDcmp f s
  | .cvt f => Sys2Proof.Machine.execCvt f s
  | .dot4 f => Sys2Proof.Machine.execDot4 f s
  | .dot4n f => Sys2Proof.Machine.execDot4n f s
  | .dot8 f => Sys2Proof.Machine.execDot8 f s
  | .dot84l f => Sys2Proof.Machine.execDot84l f s
  | .dot84h f => Sys2Proof.Machine.execDot84h f s
  | .bscl f => Sys2Proof.Machine.execBscl f s
  | .qexp f => Sys2Proof.Machine.execQexp f s
  | .qpk4 f => Sys2Proof.Machine.execQpk4 f s
  | .qpk8 f => Sys2Proof.Machine.execQpk8 f s
  | .qswx f => Sys2Proof.Machine.execQswx f s
  | .qswy f => Sys2Proof.Machine.execQswy f s
  | .qswd f => Sys2Proof.Machine.execQswd f s
  | .qbc f => Sys2Proof.Machine.execQbc f s
  | .qddx f => Sys2Proof.Machine.execQddx f s
  | .qddy f => Sys2Proof.Machine.execQddy f s
  | .shfl f => Sys2Proof.Machine.execShfl f s
  | .shflx f => Sys2Proof.Machine.execShflx f s
  | .bcast f => Sys2Proof.Machine.execBcast f s
  | .vote f => Sys2Proof.Machine.execVote f s
  | .wred f => Sys2Proof.Machine.execWred f s
  | .wscan f => Sys2Proof.Machine.execWscan f s
  | .ld f => Sys2Proof.Machine.execLd f s
  | .st f => Sys2Proof.Machine.execSt f s
  | .ldbk f => Sys2Proof.Machine.execLdbk f s
  | .atom f => Sys2Proof.Machine.execAtom f s
  | .red f => Sys2Proof.Machine.execRed f s
  | .lds f => Sys2Proof.Machine.execLds f s
  | .sts f => Sys2Proof.Machine.execSts f s
  | .lda f => Sys2Proof.Machine.execLda f s
  | .sta f => Sys2Proof.Machine.execSta f s
  | .atoms f => Sys2Proof.Machine.execAtoms f s
  | .fence f => Sys2Proof.Machine.execFence f s
  | .cflush f => Sys2Proof.Machine.execCflush f s
  | .cinv f => Sys2Proof.Machine.execCinv f s
  | .pref f => Sys2Proof.Machine.execPref f s
  | .arv f => Sys2Proof.Machine.execArv f s
  | .drain f => Sys2Proof.Machine.execDrain f s
  | .seal f => Sys2Proof.Machine.execSeal f s
  | .waitb f => Sys2Proof.Machine.execWaitb f s
  | .lalloc f => Sys2Proof.Machine.execLalloc f s
  | .lfree f => Sys2Proof.Machine.execLfree f s
  | .lqry f => Sys2Proof.Machine.execLqry f s
  | .tlbq f => Sys2Proof.Machine.execTlbq f s
  | .cpy f => Sys2Proof.Machine.execCpy f s
  | .cpyo f => Sys2Proof.Machine.execCpyo f s
  | .cpym f => Sys2Proof.Machine.execCpym f s
  | .cpyt f => Sys2Proof.Machine.execCpyt f s
  | .cpyg f => Sys2Proof.Machine.execCpyg f s
  | .cpybin f => Sys2Proof.Machine.execCpybin f s
  | .cpych f => Sys2Proof.Machine.execCpych f s
  | .cpyl f => Sys2Proof.Machine.execCpyl f s
  | .cpyq f => Sys2Proof.Machine.execCpyq f s
  | .binit f => Sys2Proof.Machine.execBinit f s
  | .bexp f => Sys2Proof.Machine.execBexp f s
  | .barv f => Sys2Proof.Machine.execBarv f s
  | .bwait f => Sys2Proof.Machine.execBwait f s
  | .btry f => Sys2Proof.Machine.execBtry f s
  | .binv f => Sys2Proof.Machine.execBinv f s
  | .nbarv f => Sys2Proof.Machine.execNbarv f s
  | .nbwait f => Sys2Proof.Machine.execNbwait f s
  | .racq f => Sys2Proof.Machine.execRacq f s
  | .rpub f => Sys2Proof.Machine.execRpub f s
  | .rtake f => Sys2Proof.Machine.execRtake f s
  | .rrel f => Sys2Proof.Machine.execRrel f s
  | .rqry f => Sys2Proof.Machine.execRqry f s
  | .mstart f => Sys2Proof.Machine.execMstart f s
  | .mqry f => Sys2Proof.Machine.execMqry f s
  | .gsig f => Sys2Proof.Machine.execGsig f s
  | .gwait f => Sys2Proof.Machine.execGwait f s
  | .gtry f => Sys2Proof.Machine.execGtry f s
  | .gqry f => Sys2Proof.Machine.execGqry f s
  | .coll f => Sys2Proof.Machine.execColl f s
  | .ratom f => Sys2Proof.Machine.execRatom f s
  | .launch f => Sys2Proof.Machine.execLaunch f s
  | .waitch f => Sys2Proof.Machine.execWaitch f s
  | .evsig f => Sys2Proof.Machine.execEvsig f s
  | .evwait f => Sys2Proof.Machine.execEvwait f s
  | .bra f => Sys2Proof.Machine.execBra f s
  | .brx f => Sys2Proof.Machine.execBrx f s
  | .callx f => Sys2Proof.Machine.execCallx f s
  | .ret f => Sys2Proof.Machine.execRet f s
  | .fork f => Sys2Proof.Machine.execFork f s
  | .exit f => Sys2Proof.Machine.execExit f s
  | .yield f => Sys2Proof.Machine.execYield f s
  | .bar f => Sys2Proof.Machine.execBar f s
  | .cut f => Sys2Proof.Machine.execCut f s
  | .pre f => Sys2Proof.Machine.execPre f s
  | .grd f => Sys2Proof.Machine.execGrd f s
  | .assert f => Sys2Proof.Machine.execAssert f s
  | .trap f => Sys2Proof.Machine.execTrap f s
  | .bkpt f => Sys2Proof.Machine.execBkpt f s
  | .rfe f => Sys2Proof.Machine.execRfe f s
  | .halt f => Sys2Proof.Machine.execHalt f s
  | .roleq f => Sys2Proof.Machine.execRoleq f s
  | .call f => Sys2Proof.Machine.execCall f s
  | .mnop => Sys2Proof.Machine.execMnop s
  | .mma f => Sys2Proof.Machine.execMma f s
  | .mmac f => Sys2Proof.Machine.execMmac f s
  | .mclr f => Sys2Proof.Machine.execMclr f s
  | .epi f => Sys2Proof.Machine.execEpi f s
  | .mset reg sel imm => Sys2Proof.Machine.execMset reg sel imm s
  | .madd dreg areg shift imm => Sys2Proof.Machine.execMadd dreg areg shift imm s
  | .mloop reg off => Sys2Proof.Machine.execMloop reg off s
  | .mjmp off => Sys2Proof.Machine.execMjmp off s
  | .mwait nb => Sys2Proof.Machine.execMwait nb s
  | .msig nb => Sys2Proof.Machine.execMsig nb s
  | .mhalt => Sys2Proof.Machine.execMhalt s
  | .arrayOpComplete blk isEpi => Sys2Proof.Machine.execArrayOpComplete blk isEpi s
  | .nopc len => Sys2Proof.Machine.execNopc len s
  | .launchCommand ptr queue words => Sys2Proof.Machine.execLaunchCommand ptr queue words s
  | .flaunch ptr queue words => Sys2Proof.Machine.execFlaunch ptr queue words s
  | .copyc src dst count => Sys2Proof.Machine.execCopyc src dst count s
  | .writec va data => Sys2Proof.Machine.execWritec va data s
  | .evsigc after value va => Sys2Proof.Machine.execEvsigc after value va s
  | .evwaitc va target => Sys2Proof.Machine.execEvwaitc va target s
  | .ibcall va bytes => Sys2Proof.Machine.execIbcall va bytes s
  | .predc sense k va => Sys2Proof.Machine.execPredc sense k va s
  | .loopc n k => Sys2Proof.Machine.execLoopc n k s
  | .ffence drain => Sys2Proof.Machine.execFfence drain s
  | .tsc va => Sys2Proof.Machine.execTsc va s
  | .savec launch => Sys2Proof.Machine.execSavec launch s
  | .evwaitcWake part q => Sys2Proof.Machine.execEvwaitcWake part q s
  | .qtailWrite part q v => Sys2Proof.Machine.execQtailWrite part q v s
  | .queueResume part q => Sys2Proof.Machine.execQueueResume part q s
  | .qresWrite part q v => Sys2Proof.Machine.execQresWrite part q v s
  | .gangDeal part launch => Sys2Proof.Machine.execGangDeal part launch s
  | .blockEnd blk => Sys2Proof.Machine.execBlockEnd blk s
  | .launchComplete part launch => Sys2Proof.Machine.execLaunchComplete part launch s
  | .waveReschedule blk wave => Sys2Proof.Machine.execWaveReschedule blk wave s
  | .flexMark blk toLoad => Sys2Proof.Machine.execFlexMark blk toLoad s
  | .packetCountCut blk wave => Sys2Proof.Machine.execPacketCountCut blk wave s
  | .lowResourceCut blk wave => Sys2Proof.Machine.execLowResourceCut blk wave s
  | .holdQuotaCut blk wave => Sys2Proof.Machine.execHoldQuotaCut blk wave s
  | .shadowDeadlockRollback core => Sys2Proof.Machine.execShadowDeadlockRollback core s
  | .scoutEnd blk wave => Sys2Proof.Machine.execScoutEnd blk wave s
  | .slowGearStep blk wave => Sys2Proof.Machine.execSlowGearStep blk wave s
  | .noConverge blk wave => Sys2Proof.Machine.execNoConverge blk wave s
  | .handlerRunStart core => Sys2Proof.Machine.execHandlerRunStart core s
  | .faultRecordWrite part => Sys2Proof.Machine.execFaultRecordWrite part s
  | .fqAnswerWrite part v => Sys2Proof.Machine.execFqAnswerWrite part v s
  | .contextReset part => Sys2Proof.Machine.execContextReset part s
  | .doorbell part => Sys2Proof.Machine.execDoorbell part s
  | .mboxHalt part launch => Sys2Proof.Machine.execMboxHalt part launch s
  | .mboxResume part core wave => Sys2Proof.Machine.execMboxResume part core wave s
  | .mboxReadreg part core wave sel reg fibre => Sys2Proof.Machine.execMboxReadreg part core wave sel reg fibre s
  | .mboxWritereg part core wave sel reg fibre data => Sys2Proof.Machine.execMboxWritereg part core wave sel reg fibre data s
  | .mboxReadmem part va len => Sys2Proof.Machine.execMboxReadmem part va len s
  | .mboxWritemem part va data => Sys2Proof.Machine.execMboxWritemem part va data s
  | .mboxStep part core wave => Sys2Proof.Machine.execMboxStep part core wave s
  | .mboxSetbkpt part va => Sys2Proof.Machine.execMboxSetbkpt part va s
  | .mboxClrbkpt part va => Sys2Proof.Machine.execMboxClrbkpt part va s
  | .mboxQuery part => Sys2Proof.Machine.execMboxQuery part s
  | .count core slot => Sys2Proof.Machine.execCount core slot s
  | .copyDescriptorRead core slot => Sys2Proof.Machine.execCopyDescriptorRead core slot s
  | .copyDone core slot => Sys2Proof.Machine.execCopyDone core slot s
  | .copyFault core slot => Sys2Proof.Machine.execCopyFault core slot s
  | .copyBatchWait core slot => Sys2Proof.Machine.execCopyBatchWait core slot s
  | .transferRecord core slot => Sys2Proof.Machine.execTransferRecord core slot s
  | .blockSave blk => Sys2Proof.Machine.execBlockSave blk s
  | .blockRestore part image => Sys2Proof.Machine.execBlockRestore part image s
  | .graceExpiry blk => Sys2Proof.Machine.execGraceExpiry blk s
  | .preemptGo part v => Sys2Proof.Machine.execPreemptGo part v s
  | .sliceExpiry cluster => Sys2Proof.Machine.execSliceExpiry cluster s
  | .clusterAssignWrite cluster mask v => Sys2Proof.Machine.execClusterAssignWrite cluster mask v s
  | .coreBudgetWrite core v => Sys2Proof.Machine.execCoreBudgetWrite core v s
  | .launchStarved part => Sys2Proof.Machine.execLaunchStarved part s
  | .poolEntryFreed part => Sys2Proof.Machine.execPoolEntryFreed part s
  | .bwaitWake blk wave => Sys2Proof.Machine.execBwaitWake blk wave s
  | .nbwaitWake blk wave => Sys2Proof.Machine.execNbwaitWake blk wave s
  | .mwaitWake blk => Sys2Proof.Machine.execMwaitWake blk s
  | .rtakeWake blk wave => Sys2Proof.Machine.execRtakeWake blk wave s
  | .racqWake blk wave => Sys2Proof.Machine.execRacqWake blk wave s
  | .waitbWake blk wave => Sys2Proof.Machine.execWaitbWake blk wave s
  | .gwaitWake blk wave => Sys2Proof.Machine.execGwaitWake blk wave s
  | .evwaitWake blk wave => Sys2Proof.Machine.execEvwaitWake blk wave s
  | .waitchWake blk wave => Sys2Proof.Machine.execWaitchWake blk wave s
  | .ptsTick core => Sys2Proof.Machine.execPtsTick core s
  | .ptsRebase part => Sys2Proof.Machine.execPtsRebase part s
  | .homeRead core who va pa => Sys2Proof.Machine.execHomeRead core who va pa s
  | .homeWrite core => Sys2Proof.Machine.execHomeWrite core s
  | .homeAtom m => Sys2Proof.Machine.execHomeAtom m s
  | .rsp r => Sys2Proof.Machine.execRsp r s
  | .requestResend src slice tag => Sys2Proof.Machine.execRequestResend src slice tag s
  | .recMerge abacus m => Sys2Proof.Machine.execRecMerge abacus m s
  | .remoteRequest port m => Sys2Proof.Machine.execRemoteRequest port m s
  | .dataFlit e flit => Sys2Proof.Machine.execDataFlit e flit s
  | .idleFlit e flit => Sys2Proof.Machine.execIdleFlit e flit s
  | .nakFlit e flit => Sys2Proof.Machine.execNakFlit e flit s
  | .retrain link => Sys2Proof.Machine.execRetrain link s
  | .retrainAttemptEnd link lowBad highBad => Sys2Proof.Machine.execRetrainAttemptEnd link lowBad highBad s
  | .cxlMemRead pa len => Sys2Proof.Machine.execCxlMemRead pa len s
  | .cxlMemWrite pa data => Sys2Proof.Machine.execCxlMemWrite pa data s
  | .tlbInvGo part v => Sys2Proof.Machine.execTlbInvGo part v s
  | .tlbInvComplete part => Sys2Proof.Machine.execTlbInvComplete part s
  | .gateCreate g v => Sys2Proof.Machine.execGateCreate g v s
  | .gateFree g v => Sys2Proof.Machine.execGateFree g v s
  | .tokenRefill g => Sys2Proof.Machine.execTokenRefill g s
  | .gateExport => Sys2Proof.Machine.execGateExport s
  | .gateImport => Sys2Proof.Machine.execGateImport s
  | .registerWrite fn bar off size v => Sys2Proof.Machine.execRegisterWrite fn bar off size v s
  | .coldReset => Sys2Proof.Machine.execColdReset s
  | .warmReset => Sys2Proof.Machine.execWarmReset s
  | .functionLevelReset fn => Sys2Proof.Machine.execFunctionLevelReset fn s
  | .bootStage x => Sys2Proof.Machine.execBootStage x s
  | .attestationReport nonce => Sys2Proof.Machine.execAttestationReport nonce s
  | .powerWindow watts temps => Sys2Proof.Machine.execPowerWindow watts temps s
  | .fatalError cause unitNo => Sys2Proof.Machine.execFatalError cause unitNo s
  | .sidebandRead off => Sys2Proof.Machine.execSidebandRead off s
  | .sidebandReset => Sys2Proof.Machine.execSidebandReset s
  | .flitSlot e => Sys2Proof.Machine.execFlitSlot e s
  | .linkTraining port peer ok => Sys2Proof.Machine.execLinkTraining port peer ok s
  | .cxlCacheSnoop pa data => Sys2Proof.Machine.execCxlCacheSnoop pa data s
  | .ideKeySetup stream key => Sys2Proof.Machine.execIdeKeySetup stream key s
  | .svnFloorRaise svn => Sys2Proof.Machine.execSvnFloorRaise svn s

end Sys2Proof.Machine
end

