-- ==== Sys2Proof/Machine/Sched.lean ====
section
/-!
DEFINITION. What the machine can do next (R27 to R31, R45, R66, R153, R161, R264, R269): the issue of a wave, or a step
that has become due; and how a party takes it.
-/

namespace Sys2Proof.Machine

namespace State

/-- The wave may issue in its DET block (R45, R161): it holds the baton. -/
def hasTurn (k : Block) (i : Nat) : Bool := !k.det || k.baton == i

/-- What held up a wave's group is there (R178, R193, R272, R368): free shadow sectors while no older wave of its core waits
for some, a free copy slot while no earlier start waits for one, and the like. -/
def holdReady (s : State) (c b i : Nat) (w : Wave) : Bool :=
  match w.hold with
  | none => true
  | some (.shadows n) => s.shadowRoom c n w
  | some (.slot n) => (s.freeSlot c).isSome && s.startsBefore c n == 0
  | some (.seal k) => (Wave.batch w k).sealed.length < 63
  | some (.lfree space ix n before) => !s.linesBusy b space ix n before
  | some .value => (s.blk b).fwd.any fun x => x.1 == i && x.2.1 == w.arch.fseq
  | some .sign => match (s.blk b).twin with
    | none => true
    | some t => match s.wave? t i with
      | some o => o.sigs.any fun x => x.1 == w.epoch
      | none => true
  | some .lalloc => (s.blk b).pre.isNone
  | some (.room n) => s.hasRoom c b i w n
  | some .oplog => s.oplogRoom b i w

/-- The implicit cut that a wave takes now (R66, R153). -/
def cutDue (s : State) (b : Nat) (k : Block) (i : Nat) (w : Wave) : Option Move :=
  if !w.bound then none
  else if 4096 ≤ w.pkts && !Wave.isSlow w then some (.packetCountCut b i)
  else if k.plevel = 2 then (if 12288 ≤ heldBytes w then some (.holdQuotaCut b i) else none)
  else if s.lowRes k.core then some (.lowResourceCut b i)
  else none

/-- What a wave does next, if anything (R27, R153, R264, R269, R270). -/
def waveMove (s : State) (b : Nat) (k : Block) (i : Nat) (w : Wave) : Option Move :=
  match w.mode with
  | .run =>
    if !s.holdReady k.core b i w then none
    else match w.gear with
      | .scout x =>
        if x.done || (s.readySlots b w).isEmpty then some (.scoutEnd b i) else some (.issue b i)
      | .slow n cut _ =>
        if 2 ^ 20 ≤ n then some (.noConverge b i)
        else match s.cutDue b k i w with
          | some c => some c
          | none =>
            if cut.isSome || !(s.readySlots b w).isEmpty then some (.slowGearStep b i) else none
      | .fast => match s.cutDue b k i w with
        | some c => some c
        | none =>
          if (Arch.liveSlots w.arch).isEmpty || (pickPc w (s.readySlots b w)).isSome then some (.issue b i) else none
  | .asleep _ | .stopped _ | .desched _ | .ended => none

/-- A candidate of an issue slice: whether its issue is forced (R66), its priority, its age, its move. -/
structure Cand where
  forced : Bool
  prio : Nat
  age : Nat
  move : Move

/-- The better of two candidates (R29, R66, R161). -/
def Cand.beats (x y : Cand) : Bool :=
  if x.forced != y.forced then x.forced
  else if x.prio ≠ y.prio then y.prio < x.prio else x.age ≤ y.age

/-- The best candidate. -/
def bestCand : List Cand → Option Cand
  | [] => none
  | x :: r => match bestCand r with
    | some y => if x.beats y then some x else some y
    | none => some x

/-- The moves of an issue slice of a core: at most one (R29). -/
def sliceMoves (s : State) (ws : List (Nat × Block × Nat × Wave)) (sl : Nat) : List Move :=
  let cs := ws.filterMap fun x =>
    let (b, k, i, w) := x
    if w.slice = sl && hasTurn k i then
      (s.waveMove b k i w).map fun m => { forced := w.forced.isSome, prio := k.eff, age := w.age, move := m }
    else none
  match bestCand cs with
  | some c => [c.move]
  | none => []

/-- CCLK runs on the die of a logical core (R277, R358). -/
def coreOn (s : State) (c : Nat) : Bool := !s.power.cclkOff && !s.coreLost c

/-- The cores that hold a block and whose clock runs. -/
def busyCores (s : State) : List Nat := (s.blocks.map fun x => x.2.core).eraseDups.filter s.coreOn

/-- The moves that the issue slices of a core offer, and that of its handler run (R29, R274). -/
def issueMoves (s : State) (c : Nat) : List Move :=
  let ws := s.residentWaves c
  (s.blocks.filterMap fun x =>
    if x.2.handler && x.2.core == c then (s.wave? x.1 0).bind fun w => s.waveMove x.1 x.2 0 w else none) ++
    (List.range 4).flatMap fun sl => s.sliceMoves ws sl

/-- A wait of a wave is over: its step would change the wave's waits. -/
def wakes (s : State) (b w : Nat) (f : Nat → Nat → State → Out) : Bool :=
  match f b w s with
  | .next t => ((t.wave? b w).map (·.waits)) != ((s.wave? b w).map (·.waits))
  | _ => false

/-- The waits of a wave that are over (R194, R201, R202, R205, R296, R328). -/
def wakeMoves (s : State) (b w : Nat) : List Move :=
  if (s.openWaits b w).isEmpty then []
  else
    let one (f : Nat → Nat → State → Out) (m : Move) : List Move := if s.wakes b w f then [m] else []
    one execBwaitWake (.bwaitWake b w) ++ one execNbwaitWake (.nbwaitWake b w) ++ one execRtakeWake (.rtakeWake b w) ++
    one execRacqWake (.racqWake b w) ++ one execWaitbWake (.waitbWake b w) ++ one execGwaitWake (.gwaitWake b w) ++
    one execEvwaitWake (.evwaitWake b w) ++ one execWaitchWake (.waitchWake b w)

/-- The moves of a block's sequencer (R214, R223, R224). -/
def seqMoves (s : State) (b : Nat) (k : Block) : List Move :=
  if !k.seqr.use then []
  else
    (if s.seqReady b then [.stream b] else []) ++
    (if k.seqr.mma.isSome && !seqClosed k then [.arrayOpComplete b false] else []) ++
    (if k.seqr.epi.isSome && !seqClosed k then [.arrayOpComplete b true] else []) ++
    (match k.seqr.st with
     | .waiting nb => if k.seqr.woken || (k.nb.getD nb {}).phase != k.seqr.sp.getLsbD nb then [.mwaitWake b] else []
     | _ => []) ++
    (if s.seqStopDue b then [.seqStop b] else [])

/-- The save of a pending block can go on (R310). -/
def saveDue (s : State) (b : Nat) (k : Block) : Bool :=
  match k.pre with
  | none => false
  | some p => k.primary && !s.noWaveLeft b && (s.pairOf b).all (fun x => s.allStopped x) &&
      (!p.closed || (p.why != .rebase && (s.pairOf b).all fun x => !s.copiesRun x))

/-- The grace of a pending block is over and a wave of it has not stopped (R309). -/
def graceDue (s : State) (b : Nat) (k : Block) : Bool :=
  match k.pre with
  | none => false
  | some p => p.deadline ≤ s.nclk && !s.stopHeld b &&
      (List.range k.waves.length).any fun i => match s.wave? b i with
        | some w => Wave.isLoose w && (match w.mode with
            | .desched _ => false
            | _ => true)
        | none => false

/-- The moves of a block as a whole. -/
def blockMoves (s : State) (b : Nat) (k : Block) : List Move :=
  if k.handler then []
  else
    ((List.range k.waves.length).flatMap fun w => s.wakeMoves b w) ++ s.seqMoves b k ++
    (if flexDue k true then [.flexMark b true] else []) ++ (if flexDue k false then [.flexMark b false] else []) ++
    (if s.blockOver b k then [.blockEnd b] else []) ++ (if s.saveDue b k then [.blockSave b] else []) ++
    (if s.graceDue b k then [.graceExpiry b] else []) ++ (if s.poolStalled b k then [.poolStop b] else [])

/-- A wave waits in BWAIT on the barrier of a copy, or in RTAKE on a ring with a slot published on it (R297). -/
def copyWaited (s : State) (c : Copy) : Bool :=
  match c.tbar? with
  | none => false
  | some t => (if c.fn = 2 then s.gangOf c.blk else [c.blk]).any fun b => (s.blockWaits b).any fun x => match x.2.kind with
    | .bwait a _ _ => a == 16 * t && x.2.woken.isNone
    | .rtake k _ => (s.ring b k).st.any fun y => match y.2 with
      | .pubw u _ => u == t
      | _ => false
    | _ => false

/-- The priority of a copy in the copy-engine queue (R297): its launch's BASE, raised to PRIO.EFF of its barrier's waiters. -/
def copyPrio (s : State) (c : Copy) : Nat :=
  let k := s.blk c.blk
  if s.copyWaited c then max k.prio k.eff else k.prio

/-- The engine could begin a queued copy now. -/
def canBegin (s : State) (core : Nat) (c : Copy) : Bool :=
  c.st == .queued && (c.wantsDesc || s.collWants core c || c.wantsRecord)

/-- No queued copy of a core goes before a copy in the engine's queue (R297). -/
def copyFirst (s : State) (core : Nat) (c : Copy) : Bool :=
  c.st != .queued ||
    (s.core core).copies.all fun x => 64 ≤ x.1 || !s.canBegin core x.2 || decide (s.copyPrio x.2 ≤ s.copyPrio c)

/-- The moves of a copy (R178, R181, R187, R189, R193, R198, R280, R346). -/
def copyMoves (s : State) (c slot : Nat) (x : Copy) : List Move :=
  if x.fault.isSome && x.inFlight then [.copyFault c slot]
  else if !s.copyFirst c x then []
  else if x.wantsDesc || s.collWants c x then [.copyDescriptorRead c slot]
  else if x.wantsRecord then [.transferRecord c slot]
  else if x.land.isSome || x.nextUnit.isSome || x.flushDue then [.count c slot]
  else if x.over then [.copyDone c slot]
  else if x.fn ≠ 0x18 then (if x.isOwed then [.copyBatchWait c slot] else [])
  else if s.collOwed c slot x then [.copyBatchWait c slot]
  else match s.collOf c slot with
    | some y => if ((y.parts.head?.map fun p => p.core == c && p.slot == slot).getD false) && s.collMoves y then
        [.count c slot] else []
    | none => []

/-- The moves of a core. -/
def coreMoves (s : State) (c : Nat) : List Move :=
  if !s.coreOn c then []
  else
    let k := s.core c
    s.issueMoves c ++ ((s.blocks.filter fun x => x.2.core == c).flatMap fun x => s.blockMoves x.1 x.2) ++
    ((k.copies.filter fun x => x.1 < 64).flatMap fun x => s.copyMoves c x.1 x.2) ++
    (if k.outbox.isEmpty then [] else [.homeWrite c]) ++ (if s.tickDue c then [.ptsTick c] else []) ++
    (if (s.nextHandler c).isSome then [.handlerRunStart c] else []) ++
    (match s.nextDesched c with
     | some (b, i, _) => [.waveReschedule b i]
     | none => []) ++
    (if (s.shadowHolders c).isEmpty then [] else
      match execShadowDeadlockRollback c s with
      | .next t => if t.core c == s.core c && t.blocks == s.blocks then [] else [.shadowDeadlockRollback c]
      | _ => [])

/-- The moves of a partition's parties on the hub dies. -/
def partMoves (s : State) (p : Nat) (x : Part) : List Move :=
  (if x.recReady then [.faultRecordWrite p] else []) ++
  (x.queues.flatMap fun q =>
    (if s.commandReady p q.1 then [.command p q.1] else []) ++
    (match q.2.wait with
     | some (.event pa _ t) =>
       if t.toNat ≤ s.eventCount pa && q.2.run && !q.2.fault && !x.stopped then [.evwaitcWake p q.1] else []
     | _ => [])) ++
  (match s.dealNext p with
   | some l => [.gangDeal p l]
   | none => []) ++
  (x.launches.flatMap fun l => if s.launchOver p l.1 l.2 then [.launchComplete p l.1] else []) ++
  (x.saved.zipIdx.flatMap fun y => match x.launches.find y.1.launch.toNat with
    | some l => if (s.seating p y.1 l).isSome then [.blockRestore p y.2] else []
    | none => [.blockRestore p y.2]) ++
  (if (s.poolQueue p).isEmpty then [] else
    (if s.starved p then [.launchStarved p] else []) ++ (if s.poolFull p then [] else [.poolEntryFreed p])) ++
  (if s.rebaseDue p && (!(s.toQuiesce p).isEmpty || s.isQuiet p) then [.ptsRebase p] else []) ++ (if s.tlbInvDue p then [.tlbInvComplete p] else [])

/-- The moves of an end of a link. -/
def endMoves (s : State) (e : Nat) (x : LinkEnd) : List Move :=
  (if s.slotDue e then [.flitSlot e] else []) ++
  (if e < 26 && !(s.end_ (if e % 2 = 0 then e + 1 else e - 1)).wire.isEmpty then [.flitIn e] else []) ++
  (if x.rcvd.isEmpty then [] else [.message e])

/-- The moves of the gates, the links and the clusters. -/
def hubMoves (s : State) : List Move :=
  (s.clusters.flatMap fun k => if s.sliceDue k.1 then [.sliceExpiry k.1] else []) ++
  (s.gates.flatMap fun g => if g.2.depth != 0 && g.2.refillAt ≤ s.nclk then [.tokenRefill g.1] else []) ++
  (if s.migDue 1 then [.gateExport] else []) ++ (if s.migDue 2 then [.gateImport] else []) ++
  (s.ends.flatMap fun e => s.endMoves e.1 e.2) ++ (s.links.flatMap fun l => if s.retrainDue l.1 then [.retrain l.1] else []) ++
  s.tags.flatMap fun t => t.2.unacked.filterMap fun u =>
    if u.2.1 + Config.resendNclk ≤ s.nclk then some (.requestResend (t.1 / 256) (t.1 % 256) u.1) else none

/-- The cores on which something stands: a block, a copy, a store, a handler run that waits. -/
def activeCores (s : State) : List Nat :=
  (s.cores.filter fun c => !c.2.copies.isEmpty || !c.2.outbox.isEmpty || !c.2.hpend.isEmpty || s.blocks.any fun b => b.2.core == c.1).map
    (·.1) ++ ((s.blocks.map fun b => b.2.core).eraseDups.filter fun c => (s.cores.find c).isNone)

/-- Every step that is due. -/
def moves (s : State) : List Move :=
  (s.activeCores.flatMap fun c => s.coreMoves c) ++ (s.parts.flatMap fun p => s.partMoves p.1 p.2) ++ s.hubMoves

/-- The steps of a round of due moves after which it is finished in order (R48). -/
def roundLimit : Nat := 2 ^ 16

/-- The moves of the round that are still due, or where none is the moves of a new round; and how old the round is (R48). -/
def roundOf (s : State) (ms : List Move) : List Move × Nat :=
  match s.round.filter ms.contains with
  | [] => (ms, 0)
  | r => (r, s.roundAge + 1)

/-- The steps that are due, that which comes next first: of several, an unstated choice (R29, R246). So that each is made
within a bounded time (R48), moves are due in rounds: once a round has taken `roundLimit` steps, those of its moves that
are still due and have not been made come first. -/
def nextMoves (s : State) : List Move × State :=
  match s.moves with
  | [] => ([], { s with round := [], roundAge := 0 })
  | m :: l =>
    let (r, a) := s.roundOf (m :: l)
    let (n, s) := s.takeFree
    let k := if l.isEmpty then 0 else Config.choose n % (l.length + 1)
    let xs := if roundLimit ≤ a then r ++ (m :: l).filter fun x => !r.contains x else (m :: l).drop k ++ (m :: l).take k
    (xs, { s with round := r.erase (xs.headD m), roundAge := a })

/-- What follows a step at once: batons that wait find a ready wave (R45), faulted frontier launches end (R306), requests
to stop find room (R308), the waves of pending blocks stop (R309), the launch pools are watched (R295), priorities are
inherited (R297). -/
def settle (s : State) : State :=
  let s := s.blocks.foldl (fun s x => s.settleBaton x.1) s
  let s := s.parts.foldl (fun s p => (s.endAllFaulted p.1).retryRoom p.1) s
  let s := s.blocks.foldl (fun s x => s.settleWaits x.1) s
  s.parts.foldl (fun s p => (s.watchPool p.1).inherit p.1) s

/-- What passes with a step: the clocks, of which the spec fixes no times (R96), and what follows it at once. -/
def passTime (s : State) : State :=
  let (n, s) := s.takeFree
  let s := { s with nclk := s.nclk + 1 + (Config.issueDelay n).toNat }
  (s.busyCores.foldl (fun s c => s.tick c) s).settle

end State

/-- Goes on from the outcome of a part of a step. -/
def andThen (o : Out) (f : State → Out) : Out :=
  match o with
  | .next s => f s
  | .fault r => .fault r
  | .refused r => .refused r

end Sys2Proof.Machine
end

