-- ==== Sys2Proof/Machine/Run.lean ====
section
/-!
DEFINITION. How the machine runs (R27, R54, R246): a step is the next move that a party outside makes, else one of the moves
that are due; an issue runs the words of its chain group, each by `exec`; a sequencer and a command processor execute what
they have fetched. And how a word comes to stand where it is fetched next.
-/

namespace Sys2Proof.Machine

/-- Runs one word of the group that is open (R54): `exec` of the instruction that it decodes to. A group that has been
given up, or a cut or a step in which a check has failed (R269, R279), runs no further word. -/
def runWord (g : GWord) (s : State) : Out :=
  let e := s.issue
  if !e.on || e.held.isSome || (!e.faults.isEmpty && (e.cut || Wave.isSlow e.cur)) then .next s
  else match decode (g.word :: g.extw.toList) with
    | .ok (i, _) =>
      let w := s.iblk.w
      andThen (exec i (s.onIssue fun e => e.start w g)) fun s => .next (s.onIssue fun e => e.marked w g)
    | .error _ => .next s

/-- Runs words in turn. -/
def runWords : List GWord → State → Out
  | [], s => .next s
  | g :: r, s => andThen (runWord g s) (runWords r)

/-- The words of a group, those on the M pipe first: they alone can still fault, and every read is of the state before the
group (R54). -/
def runOrder (w : Nat) (ws : List GWord) : List GWord := ws.filter (GWord.isMem w) ++ ws.filter fun g => !g.isMem w

/-- A group that could not take effect now has had none (R54, R154): the machine is as it was before its words ran in `s`, but
for why the group waits and its place in the order of waits. -/
def heldBack (s t : State) : State :=
  if t.issue.held.isNone then t
  else { s.onIssue fun e => { e with held := t.issue.held } with nextOrder := t.nextOrder, free := t.free, noWay := t.noWay }

/-- Runs the group that is open, if one is, and closes it. -/
def runGroup (s : State) : Out :=
  if !s.issue.on then .next s
  else
    let ws := s.peekGroup s.issue.blk s.issue.pc
    if s.issue.bad then .next (s.closeGroup ws)
    else andThen (runWords (runOrder s.iblk.w ws) s) fun t => .next ((heldBack s t).closeGroup ws)

/-- Executes what a sequencer or a command processor has taken, if anything. -/
def runTaken (x : Option Instr × State) : Out :=
  match x.1 with
  | some i => exec i x.2
  | none => .next x.2

/-- Carries out a move. -/
def runMove (m : Move) (s : State) : Out :=
  match m with
  | .issue b w => runGroup (s.openGroup b w)
  | .packetCountCut b w => execPacketCountCut b w s
  | .lowResourceCut b w => execLowResourceCut b w s
  | .holdQuotaCut b w => execHoldQuotaCut b w s
  | .shadowDeadlockRollback c => execShadowDeadlockRollback c s
  | .scoutEnd b w => execScoutEnd b w s
  | .slowGearStep b w => andThen (execSlowGearStep b w s) runGroup
  | .noConverge b w => execNoConverge b w s
  | .bwaitWake b w => execBwaitWake b w s
  | .nbwaitWake b w => execNbwaitWake b w s
  | .rtakeWake b w => execRtakeWake b w s
  | .racqWake b w => execRacqWake b w s
  | .waitbWake b w => execWaitbWake b w s
  | .gwaitWake b w => execGwaitWake b w s
  | .evwaitWake b w => execEvwaitWake b w s
  | .waitchWake b w => execWaitchWake b w s
  | .waveReschedule b w => execWaveReschedule b w s
  | .stream b => runTaken (s.openStream b)
  | .arrayOpComplete b e => execArrayOpComplete b e s
  | .mwaitWake b => execMwaitWake b s
  | .seqStop b => .next (s.seqStopNow b)
  | .flexMark b l => execFlexMark b l s
  | .blockEnd b => execBlockEnd b s
  | .blockSave b => execBlockSave b s
  | .graceExpiry b => execGraceExpiry b s
  | .poolStop b => .next (s.askStop b .pool)
  | .copyDescriptorRead c k => execCopyDescriptorRead c k s
  | .count c k => execCount c k s
  | .transferRecord c k => execTransferRecord c k s
  | .copyDone c k => execCopyDone c k s
  | .copyFault c k => execCopyFault c k s
  | .copyBatchWait c k => execCopyBatchWait c k s
  | .homeWrite c => execHomeWrite c s
  | .ptsTick c => execPtsTick c s
  | .handlerRunStart c => execHandlerRunStart c s
  | .faultRecordWrite p => execFaultRecordWrite p s
  | .command p q => runTaken (s.openCommand p q)
  | .evwaitcWake p q => execEvwaitcWake p q s
  | .gangDeal p l => execGangDeal p l s
  | .launchComplete p l => execLaunchComplete p l s
  | .blockRestore p i => execBlockRestore p i s
  | .launchStarved p => execLaunchStarved p s
  | .poolEntryFreed p => execPoolEntryFreed p s
  | .ptsRebase p => execPtsRebase p s
  | .tlbInvComplete p => execTlbInvComplete p s
  | .sliceExpiry k => execSliceExpiry k s
  | .tokenRefill g => execTokenRefill g s
  | .gateExport => execGateExport s
  | .gateImport => execGateImport s
  | .flitSlot e => execFlitSlot e s
  | .flitIn e => execDataFlit e ((s.end_ (if e % 2 = 0 then e + 1 else e - 1)).wire.headD []) s
  | .message e => .next (s.handleNext e)
  | .retrain k => execRetrain k s
  | .requestResend r k t => execRequestResend r k (BitVec.ofNat 16 t) s

/-- What a step does, unless it needs CXL.cache in the viral state (R277) or a module that is not up (R11, R338): then it cannot
take place now. -/
def whereWay (o : Out) : Option Out :=
  match o with
  | .next t => if t.noWay then none else some (.next t)
  | .fault f => some (.fault f)
  | .refused r => some (.refused r)

/-- Carries out the first of some moves that can take place. -/
def runFirst : List Move → State → Option Out
  | [], _ => none
  | m :: r, s => match whereWay (runMove m s) with
    | some o => some o
    | none => runFirst r s

/-- What the outside does next: the first of its moves that can take place now; the others stay. -/
def runAgenda : List Instr → List Instr → State → Option Out
  | [], _, _ => none
  | i :: r, kept, s => match whereWay (andThen (exec i { s with agenda := kept ++ r }) runGroup) with
    | some o => some o
    | none => runAgenda r (kept ++ [i]) s

/-- A step: an error of the memories comes first, then the outside, then what is due. With nothing due NCLK alone goes on (R357,
R358). -/
def takeStep (s : State) : Out :=
  match s.upsets with
  | u :: r => .next ({ s with upsets := r }.suffer u).passTime
  | [] => match runAgenda s.agenda [] s with
    | some o => andThen o fun t => .next t.passTime
    | none =>
      let x := s.nextMoves
      match runFirst x.1 x.2 with
      | some o => andThen o fun t => .next t.passTime
      | none => .next x.2.passTime

/-- The words of the tables and of packet 0 at which `withFetchWord` lets the machine fetch: VA page 0 of partition 0 is PA
0x50000, readable, writable and executable, of class DEV (R230 to R232). -/
def loadCells (ws : List B32) : List (Nat × List Byte) :=
  [(0x10000, toBytes 8 0x20003), (0x20000, toBytes 8 0x30003), (0x30000, toBytes 8 0x40003), (0x40000, toBytes 8 0x500FF),
   (0x50000, ws.flatMap fun w => toBytes 4 w.toNat)]

/-- A block of one wave with one LIVE fibre at packet 0, slot 0; the handler's where the instruction is the handler's. -/
def loadBlock (handler : Bool) : Block :=
  let a : Arch := { fib := { st := .live } :: List.replicate 31 {} }
  { w := 128, handler := handler, nb := List.replicate 16 {}, rings := List.replicate 8 {}, seqr := { use := true }
    tiles := List.replicate 4 {}
    waves := [{ arch := a, entry := a, batches := List.replicate 4 {}, slot := if handler then 63 else 0 }] }

/-- The machine with an instruction where it fetches next: a booted device whose one block stands at it. -/
def placeWord (s : State) (nbits w : Nat) : State :=
  let ws := tableWords (if nbits ≤ 32 then w else 0x7F000000)
  let h := match decode ws with
    | .ok (i, _) => i.slot63Only
    | .error _ => false
  { s with
    mem := (loadCells ws).foldl (fun m c => m.write c.1 c.2) s.mem
    parts := s.parts.insert 0 { s.part 0 with tableRoot := 0x10001 }
    blocks := [(0, loadBlock h)], nextBlk := 1, nextAge := 1
    cores := s.cores.insert 0 { s.core 0 with hrun := if h then some (0, ⟨noBlock, 0, 0, [], 0⟩) else none }
    lcoreCount := 1, lcoreMap := [(0, 0x8000)], bootStat := 6, cxlUp := true, agenda := [], upsets := [] }

end Sys2Proof.Machine
end

