-- ==== Sys2Proof/Machine/Step.lean ====
section
/-!
DEFINITION. One step of the machine, and the machine with an instruction where it fetches next.
-/

namespace Sys2Proof.Machine

/-- One step: see `takeStep`. -/
def step (s : State) : Host.Outcome State Fault Refusal := takeStep s

/-- `s` with an instruction stored where `step` fetches next: see `placeWord`. -/
def State.withFetchWord (s : State) (nbits w : Nat) : State := placeWord s nbits w

end Sys2Proof.Machine
end

