-- ==== Sys2Proof/Safety.lean ====
section
/-!
DEFINITION. What a safe step is: the machine goes on, and its memory keeps its canonical form.
-/

namespace Sys2Proof.Machine

/-- The step neither faults nor is refused. -/
def goesOn (s : State) : Prop := ∃ t, step s = .next t

/-- Memory is in its canonical form. -/
def State.memOk (s : State) : Bool := Memory.wf s.mem

/-- A safe step: it goes on to a state whose memory is canonical. -/
def safeStep (s : State) : Prop := ∃ t, step s = .next t ∧ t.memOk = true

end Sys2Proof.Machine
end

