-- ==== Sys2Proof/Certificates/Slice0/Obligations.lean ====
section
/-!
DEFINITION. The statements about this model, one definition each, for the provers. A docstring names the rules of the spec.
An encoded word runs inside an issue (R54): `s.issue` holds the wave as it was before the group (`old`), as it is being
changed (`cur`), and the fibres in which the word takes effect (`eff`, `effLive`); a statement about a word says what
becomes of these and that nothing else changes.
-/

namespace Sys2Proof.Claims

open Sys2Proof.Machine

/-! ### What a word leaves -/

/-- The last fibre, in bundle order, whose `k` registers from v(d) hold physical register `p`, among those in which the
word takes effect: its value remains (R75). -/
def writerOf (e : Issue) (d k p : Nat) : Option Nat :=
  (e.eff.filter fun l => decide ((e.cur.arch.fibre l).wb + d ≤ p ∧ p < (e.cur.arch.fibre l).wb + d + k)).getLast?

/-- A vector result: `k` registers from v(d) of each fibre in which the word takes effect, none when N = 1, hold the value
`r` gives, low word first (R59, R75); latch `lt` holds it whole, and is invalid in the bundle's other fibres (R64); the
flags of the LIVE fibres are gathered (R111); nothing else changes. -/
def VResult (s t : State) (n : Bit) (d : BitVec 7) (k lt : Nat) (r : Nat → B64) (fl : Nat → Nat) : Prop :=
  let e := s.issue
  let a := e.cur.arch
  let b := t.issue.cur.arch
  (∀ p, Tab.get 0 b.v p =
    if n = 1 then Tab.get 0 a.v p
    else match writerOf e d.toNat k p with
      | some l => (r l).extractLsb' (32 * (p - ((a.fibre l).wb + d.toNat))) 32
      | none => Tab.get 0 a.v p) ∧
  (∀ l j, j < 4 → Tab.find b.lat (4 * l + j) =
    if j = lt ∧ l ∈ e.eff then some ⟨r l, 0⟩ else if j = lt ∧ l ∈ e.lanes then none else Tab.find a.lat (4 * l + j)) ∧
  t.issue.fl = e.effLive.foldl (fun m l => m ||| fl l) e.fl ∧
  t = { s with issue := { e with
          fl := t.issue.fl, cur := { e.cur with arch := { a with v := b.v, lat := b.lat } } } }

/-- A predicate result: predicate p of each fibre in which the word takes effect is the value `r` gives, p0 stays (R22), and
nothing else changes. -/
def PResult (s t : State) (p : Nat) (r : Nat → Bool) : Prop :=
  t = { s with issue := { s.issue with cur := { s.issue.cur with arch := { s.issue.cur.arch with
    fib := s.issue.cur.arch.fib.mapIdx fun l f =>
      if p ≠ 0 ∧ l ∈ s.issue.eff then
        { f with pred := (f.pred &&& ~~~(1#16 <<< p)) ||| ((if r l then 1#16 else 0#16) <<< p) }
      else f } } } }

/-- A scalar result: s(d) holds it unless N = 1 or the word takes effect nowhere (R59, R67), latch `lt` of every fibre in
which the word takes effect holds it (R76), and nothing else changes. -/
def SResult (s t : State) (n : Bit) (d : BitVec 7) (lt : Nat) (x : B64) : Prop :=
  let e := s.issue
  let a := e.cur.arch
  let b := t.issue.cur.arch
  (∀ k, Tab.get 0 b.sc k = if n ≠ 1 ∧ e.eff ≠ [] ∧ k = d.toNat % 64 then x else Tab.get 0 a.sc k) ∧
  (∀ l j, j < 4 → Tab.find b.lat (4 * l + j) =
    if j = lt ∧ l ∈ e.eff then some ⟨x, 0⟩ else if j = lt ∧ l ∈ e.lanes then none else Tab.find a.lat (4 * l + j)) ∧
  t = { s with issue := { e with cur := { e.cur with arch := { a with sc := b.sc, lat := b.lat } } } }

/-- A 32-bit integer source of a fibre (R62, R77). -/
def n32 (s : State) (b : Byte) (l : Nat) : B32 := BitVec.ofNat 32 (s.issue.i32 b l)
/-- A 64-bit integer source of a fibre (R62, R77). -/
def n64 (s : State) (b : Byte) (l : Nat) : B64 := BitVec.ofNat 64 (s.issue.i64 b l)
/-- A source of an S-pipe word (R77). -/
def ns (s : State) (b : Byte) : B64 := BitVec.ofNat 64 (s.issue.ss b)
/-- v(d) of a fibre before the group. -/
def old32 (s : State) (d : BitVec 7) (l : Nat) : B32 := Tab.get 0 s.issue.old.v ((s.issue.old.fibre l).wb + d.toNat)
/-- The pair v(d), v(d+1) of a fibre before the group (R75). -/
def old64 (s : State) (d : BitVec 7) (l : Nat) : B64 :=
  let k := (s.issue.old.fibre l).wb + d.toNat
  Tab.get 0 s.issue.old.v (k + 1) ++ Tab.get 0 s.issue.old.v k

/-! ### Integer operations on bit vectors, as R79 to R86 and R135 give them -/

/-- BFX (R83): `top − pos` bits of `a` from bit POS, extended by SX. -/
def bfxBits (a k : B32) : B32 :=
  let pos := (k.extractLsb' 0 5).toNat
  let top := min (pos + min (k.extractLsb' 8 6).toNat 32) 32
  if k.getLsbD 16 then (a.extractLsb' pos (top - pos)).signExtend 32 else (a.extractLsb' pos (top - pos)).setWidth 32

/-- BFI (R83): bits [top−1:pos] of `d` replaced by the low bits of `a`. -/
def bfiBits (a k d : B32) : B32 :=
  let pos := (k.extractLsb' 0 5).toNat
  let top := min (pos + min (k.extractLsb' 8 6).toNat 32) 32
  let m := (BitVec.allOnes 32 >>> (32 - (top - pos))) <<< pos
  (d &&& ~~~m) ||| ((a <<< pos) &&& m)

/-- A dot product (R135): `n` products of elements of `wa` bits of `a` and of `wb` bits of `b`, the latter from element
`off`, added to `d`. -/
def dotBits (sg : Bool) (wa wb off n : Nat) (a b d : B32) : B32 :=
  (List.range n).foldl (fun x i =>
    let p := a.extractLsb' (wa * i) wa
    let q := b.extractLsb' (wb * (off + i)) wb
    x + (if sg then p.signExtend 32 * q.signExtend 32 else p.setWidth 32 * q.setWidth 32)) d

/-- The two-source words (R79, R81, R83) and their results. -/
def twoSource : List ((FmtA → Instr) × (B32 → B32 → B32)) :=
  [(.iadd, fun a b => a + b), (.isub, fun a b => a - b), (.imul, fun a b => a * b),
   (.imulh, fun a b => (a.signExtend 64 * b.signExtend 64).extractLsb' 32 32),
   (.imin, fun a b => if a.slt b then a else b), (.imax, fun a b => if a.slt b then b else a),
   (.nmin, fun a b => if a < b then a else b), (.nmax, fun a b => if a < b then b else a),
   (.and, fun a b => a &&& b), (.or, fun a b => a ||| b), (.xor, fun a b => a ^^^ b), (.andn, fun a b => a &&& ~~~b),
   (.shl, fun a b => a <<< b.toNat), (.shr, fun a b => a >>> b.toNat), (.sar, fun a b => a.sshiftRight b.toNat),
   (.rot, fun a b => a.rotateLeft (b.toNat % 32)), (.bfx, bfxBits)]

/-- The one-source words (R78, R80) and their results. -/
def oneSource : List ((FmtA1 → Instr) × (B32 → B32)) :=
  [(.mov, fun a => a), (.iabs, fun a => if a.slt 0 then -a else a), (.ineg, fun a => -a), (.not, fun a => ~~~a),
   (.popc, fun a => (List.range 32).foldl (fun n i => n + (if a.getLsbD i then 1 else 0)) 0),
   (.clz, fun a => a.clz), (.brev, fun a => a.reverse)]

/-- The words that read their destination (R79, R83, R135) and their results. -/
def threeSource : List ((FmtD → Instr) × (B32 → B32 → B32 → B32)) :=
  [(.imad, fun a b d => a * b + d), (.bfi, bfiBits), (.dot4, dotBits true 8 8 0 4), (.dot4n, dotBits false 8 8 0 4),
   (.dot8, dotBits true 4 4 0 8), (.dot84l, dotBits true 8 4 0 4), (.dot84h, dotBits true 8 4 4 4)]

/-- The scalar words of two sources (R87) and their results. -/
def scalarTwo : List ((FmtA → Instr) × (B64 → B64 → B64)) :=
  [(.sadd, fun a b => a + b), (.ssub, fun a b => a - b), (.smul, fun a b => a * b), (.sand, fun a b => a &&& b),
   (.sor, fun a b => a ||| b), (.sxor, fun a b => a ^^^ b), (.sshl, fun a b => a <<< b.toNat),
   (.sshr, fun a b => a >>> b.toNat), (.smin, fun a b => if a.slt b then a else b),
   (.smax, fun a b => if a.slt b then b else a)]

/-- The tests of R84 on signed (`sg`) or natural values. -/
def testBits {w : Nat} (sg : Bool) (code : Nat) (a b : BitVec w) : Bool :=
  let lt := if sg then a.slt b else a.ult b
  match code with
  | 0 => a == b
  | 1 => a != b
  | 2 => lt
  | 3 => lt || a == b
  | 4 => !(lt || a == b)
  | 5 => !lt
  | 6 => (a &&& b) != 0
  | _ => (a &&& b) == 0

/-- The tests of R89: two natural tests take the places of tst and ntst. -/
def scalarTest {w : Nat} (code : Nat) (a b : BitVec w) : Bool :=
  match code with
  | 6 => a.ult b
  | 7 => !a.ult b
  | c => testBits true c a b

/-- A result with flags, as `VResult` takes them. -/
def FResult (s t : State) (n : Bit) (d : BitVec 7) (k lt : Nat) (r : Nat → Res) : Prop :=
  VResult s t n d k lt (fun l => BitVec.ofNat 64 (r l).v) fun l => (r l).fl

/-- The rounding mode of an optional EXT: .rne without one (R61, R102). -/
def modeIn (x : Option Ext) : RMode :=
  match x with
  | none => .rne
  | some y => [RMode.rne, .rz, .rp, .rm, .rna].getD (y.p.toNat % 8) .rne

/-- An F32 source of a fibre (R63). -/
def fs (s : State) (b : Byte) (l : Nat) : Nat := src32 (.flt f32) s.issue.old l b
/-- A source of a packed word in format `m` (R63, R132). -/
def hs (s : State) (m : FFmt) (b : Byte) (l : Nat) : Nat := src32 (.flt m) s.issue.old l b
/-- An F64 source of a fibre (R77). -/
def ds (s : State) (b : Byte) (l : Nat) : Nat := src64 (.flt f64) s.issue.old l b

/-- Two 16-bit halves, each the result of `g` on the halves of the operands, with the flags of both (R132). -/
def halves (g : Nat → Nat → Nat → Res) (a b d : Nat) : Res :=
  let lo := g (a % 65536) (b % 65536) (d % 65536)
  let hi := g (a / 65536 % 65536) (b / 65536 % 65536) (d / 65536 % 65536)
  ⟨lo.v + 65536 * hi.v, lo.fl ||| hi.fl⟩

/-- The slot that stands for position `p` of the quad of slot `l`: a slot of the bundle, or the source of the synthetic
helper there (R26). -/
def quadAt (s : State) (l p : Nat) : Nat :=
  let q := l / 4 * 4 + p
  ((s.issue.synth.find? fun x => x.1 == q).map (·.2)).getD q

/-- The contributors of a lane word (R140): the LIVE fibres in which it takes effect, in slot order. -/
def contributors (s : State) : List Nat := (List.range 32).filter fun l => s.issue.effLive.contains l

/-- A system register of a wave, as R92 and R94 to R95 give it: its block, its number in it, the wave, its registers, and
the fibre for the per-fibre ones. -/
def sysValueOf (s : State) (b i : Nat) (w : Wave) (a : Arch) (l sel : Nat) : Nat :=
  let k := s.blk b
  let slot := (s.lcoreMap.get 0 k.core).toNat
  let slow := match w.gear with
    | .slow _ _ _ => 1
    | _ => 0
  match sel with
  | 0x00 => l
  | 0x01 => w.slot
  | 0x02 => 32 * i + l
  | 0x03 => k.pt.1
  | 0x04 => k.pt.2.1
  | 0x05 => k.pt.2.2
  | 0x06 => k.gang
  | 0x07 => k.core
  | 0x08 => slot / 16 % 16
  | 0x09 => slot / 256 % 4
  | 0x0A => k.part
  | 0x0B => k.launch.toNat
  | 0x0C => 4 * (if w.flex then 1 else 0) + w.role.code
  | 0x0D => a.flags.toNat
  | 0x0E => 65536 * w.slice + 256 * (k.w / 8) + 32 * (if a.vanished then 1 else 0) + 8 * k.plevel +
      4 * (if k.det then 1 else 0) + 2 * slow + (if a.clamp then 1 else 0)
  | 0x0F => 8 * k.eff + k.prio
  | 0x10 => (s.core k.core).pts.get 0 k.part
  | 0x11 => (s.core k.core).cycle % 2 ^ 64
  | _ => 0

/-- A system register of the issuing wave read outside a handler run, for the lowest-slot fibre of the bundle. -/
def sysValue (s : State) (sel : Nat) : Nat :=
  sysValueOf s s.issue.blk s.issue.wv s.issue.cur s.issue.old (s.issue.lanes.headD 0) sel

/-- TGT of the issuing core. -/
def tgtOf (s : State) : Nat := (s.core s.issue.core).tgt.toNat
/-- TGT.EN = 1 and the wave WSLOT is stopped for this handler (R95): wave `w` of block `b`, which stands as `x`. -/
def Targets (s : State) (b w : Nat) (x : Wave) : Prop :=
  s.iblk.handler = true ∧ tgtOf s / 2 ^ 7 % 2 = 1 ∧ s.stoppedAt s.issue.core s.ipart (tgtOf s % 64) = some (b, w) ∧
    b ≠ s.issue.blk ∧ s.wave? b w = some x
/-- No wave is the target of this handler run (R95). -/
def TargetsNone (s : State) : Prop :=
  s.iblk.handler = true ∧ (tgtOf s / 2 ^ 7 % 2 = 0 ∨ s.stoppedAt s.issue.core s.ipart (tgtOf s % 64) = none)

/-- The state with an issue changed as `f` says. -/
def withIssue (s : State) (f : Issue → Issue) : State := { s with issue := f s.issue }
/-- An issue with the wave's registers changed. -/
def withArch (e : Issue) (a : Arch) : Issue := { e with cur := { e.cur with arch := a } }

/-- FORK in one fibre of the bundle (R147): the registers after it. Source A is the packet index, source B the window base. -/
def forkIn (s : State) (f : FmtAb) (a : Arch) (l : Nat) : Arch :=
  let base := s.issue.i32 f.b l
  let w := s.iblk.w
  let answer (a : Arch) (x : B64) : Arch := { a with lat := a.lat.insert (4 * l + 3) ⟨x, 0⟩ }
  if base % 8 ≠ 0 ∨ 32 * w < base + w then answer a (-2)
  else match (List.range 32).find? fun n => (a.fib.getD n {}).st == .empty with
    | none => answer a (-1)
    | some n =>
      answer { a with
        fib := a.fib.set n { st := .live, pc := ⟨n32 s f.a l, 0⟩, pred := (s.issue.old.fib.getD l {}).pred, wb := base }
        lat := [0, 1, 2, 3].foldl (fun t k => t.erase (4 * n + k)) a.lat } (BitVec.ofNat 64 n)

/-- EXIT of one fibre (R24): HELPER while another slot of its quad is LIVE, else it and the quad's helpers are EMPTY. -/
def exitIn (F : List Fibre) (l : Nat) : List Fibre :=
  let gone (st : LaneSt) (x : Fibre) : Fibre := { x with st := st, blocked := none, wait := 0 }
  if (List.range F.length).any (fun k => k / 4 == l / 4 && k != l && (F.getD k {}).st == .live) then F.mapIdx fun k x => if k = l then gone .helper x else x
  else F.mapIdx fun k x => if k = l ∨ (k / 4 = l / 4 ∧ x.st = .helper) then gone .empty x else x

/-- The record of a word that stops its wave (R369): the fibre, the code, and an operand. -/
def stopFault (s : State) (c : FClass) (l code : Nat) (opa : B64) : FaultInfo :=
  { cls := c, lane := l, pc := s.issue.pc, wslot := s.issue.wslot, word := s.issue.word, opa := opa
    opb := BitVec.ofNat 64 (s.issue.lanes.foldl (fun m l => m + 2 ^ l) 0), code := code }

/-- The 64 bytes of a precise record of the wave that issues (R271). -/
def recordOf (s : State) (f : FaultInfo) : List Byte :=
  let k := s.iblk
  State.recordBytes k.part true k.handler 1 k s.issue.cur.slot k.core ((s.core k.core).pts.get 0 k.part) f

/-- The physical address of the stop record of a partition's mailbox (R276). -/
def stopRecordPa (s : State) (p : Nat) : Nat := (s.part p).mbox.toNat / 2 ^ 12 % 2 ^ 40 * 2 ^ 12 + 0xF00

/-- The record with the partition's next SEQ in bytes 22 and 23 (R271). -/
def sequenced (s : State) (p : Nat) (r : List Byte) : List Byte := r.take 22 ++ toBytes 2 (s.part p).recSeq ++ r.drop 24

/-- The wave that issues is one of its block's, and `on` marks the issue as open. -/
def Issuing (s : State) (k : Block) : Prop :=
  s.issue.on = true ∧ s.blk? s.issue.blk = some k ∧ s.issue.wv < k.waves.length

/-- The effective address of a fibre for units of 2^z bytes (R60): a pair of vector registers or a scalar as the base, and
the 19-bit signed offset in those units, modulo 2^64. -/
def addr (s : State) (g : Byte) (x : Ext) (o : BitVec 3) (z l : Nat) : Nat :=
  let k := (s.issue.old.fibre l).wb + g.toNat
  let base : B64 := if g.toNat < 0x80 then Tab.get 0 s.issue.old.v (k + 1) ++ Tab.get 0 s.issue.old.v k
    else Tab.get 0 s.issue.old.sc (g.toNat % 64)
  (base + ((x.p.extractLsb' 0 16 ++ o).signExtend 64) <<< z).toNat

/-- The `n` bytes of a space of the block that issues, from an address. -/
def spaceBytes (s : State) (space a n : Nat) : List Byte := (List.range n).map fun i => s.spaceByte s.issue.blk space (a + i)

/-- The fault that a thread access of `n` bytes to a space meets (R167, R170, R272): not aligned, not pinned, poisoned for a
reader that is no scout. -/
def spaceFault (s : State) (space a n : Nat) (rd : Bool) : Option FClass :=
  if a % n ≠ 0 then some .alignment
  else if ¬a < 2 ^ 20 ∨ s.spaceWay s.issue.blk space (a / 1024) = none then some .space
  else if rd = true ∧ s.issue.scout = false ∧ s.spacePoison s.issue.blk space a = true then some .poison
  else none

/-- The registers after a vector load of 2^z bytes (R64, R169, R255), given for each fibre, in slot order, its value if it
has one: the value goes to the fibre's registers from v(d), the low word first, none when N = 1 and z ≤ 3, and up to 8
bytes to l2; no other register changes. -/
def LoadResult (s t : State) (n : Bit) (d : BitVec 7) (z : Nat) (rs : List (Nat × Option Nat)) : Prop :=
  let e := s.issue
  let a := e.cur.arch
  let b := t.issue.cur.arch
  let lo := fun l => (a.fibre l).wb + d.toNat
  (∀ p, Tab.get 0 b.v p =
    if n = 1 ∧ z ≤ 3 then Tab.get 0 a.v p
    else match (rs.filter fun x => x.2.isSome && decide (lo x.1 ≤ p ∧ p < lo x.1 + max 1 (2 ^ z / 4))).getLast? with
      | some x => BitVec.ofNat 32 (x.2.getD 0 >>> (32 * (p - lo x.1)))
      | none => Tab.get 0 a.v p) ∧
  (∀ l j, j < 4 → Tab.find b.lat (4 * l + j) =
    match (rs.filter fun x => x.2.isSome && decide (x.1 = l ∧ j = 2 ∧ z ≤ 3)).getLast? with
    | some x => some ⟨BitVec.ofNat 64 (x.2.getD 0), 0⟩
    | none => if j = 2 ∧ z ≤ 3 ∧ l ∈ e.lanes ∧ l ∉ e.eff then none else Tab.find a.lat (4 * l + j)) ∧
  b = { a with v := b.v, lat := b.lat }

/-- A fault as a group keeps it (R264): with its PC and the present word. -/
def atWord (s : State) (f : FaultInfo) : FaultInfo :=
  { f with pc := s.issue.pc, wslot := s.issue.wslot, word := s.issue.word, extw := s.issue.extw }

/-- The faults of a word join those of its group (R264). -/
def addFaults (s : State) (fs : List FaultInfo) : State := withIssue s fun e => { e with faults := e.faults ++ fs }

/-- The base register of a fibre's address, as a record carries it (R271). -/
def baseOf (s : State) (g : Byte) (l : Nat) : B64 :=
  let k := (s.issue.old.fibre l).wb + g.toNat
  if g.toNat < 0x80 then Tab.get 0 s.issue.old.v (k + 1) ++ Tab.get 0 s.issue.old.v k
  else Tab.get 0 s.issue.old.sc (g.toNat % 64)

/-- The stored value of a fibre: 2^z bytes of its registers from v(d) (R75, R169). -/
def stored (s : State) (d : BitVec 7) (z l : Nat) : List Byte :=
  (List.range (2 ^ z)).map fun i =>
    (Tab.get 0 s.issue.old.v ((s.issue.old.fibre l).wb + d.toNat + i / 4)).extractLsb' (8 * (i % 4)) 8

/-- One fibre of an atomic on space 0 (R172, R173): the old bytes and the two data operands give the new bytes, the value
returned unless N = 1, and the flags. -/
def spaceAtomicIn (f : FmtM) (s : State) (l : Nat) : State :=
  let z := f.s.toNat
  let k := max 1 (2 ^ z / 4)
  let a := addr s f.g f.x f.e z l
  let data := fun i => ofBytes ((List.range 4).map fun j =>
    (Tab.get 0 s.issue.old.v ((s.issue.old.fibre l).wb + f.d.toNat + i)).extractLsb' (8 * j) 8)
  let opnd := fun b => (List.range k).foldl (fun x i => x + data (b + i) * 2 ^ (32 * i)) 0
  let fn := (f.x.p.extractLsb' 16 5).toNat
  let r := rmwApply fn z (spaceBytes s 0 a (2 ^ z)) (opnd 0) (if fn = 1 then opnd k else 0)
  let u := s.threadWrite s.issue.blk 0 a r.data
  { u with issue := (if f.n = 0 then u.issue.putV 0 f.d.toNat k 2 l r.v else u.issue).addFlags l r.fl }

/-- A fibre's result of a load, as `LoadResult` takes it: a helper's load that would fault gives 0 (R25). -/
def loadValue (s : State) (x : Nat × LaneRes) : Nat × Option Nat :=
  (x.1, match x.2 with
    | .ok v _ _ => some v
    | .bad _ => if x.1 ∈ s.issue.live then none else some 0)

/-- The faults of LIVE fibres among results, as the group keeps them (R264). -/
def loadFaults (s : State) (rs : List (Nat × LaneRes)) : List FaultInfo := (s.liveFaults rs).map (atWord s)

/-- The last of some stores that covers a byte, and that byte. -/
def lastByte (ws : List (Nat × List Byte)) (a : Nat) : Option Byte :=
  ((ws.filter fun w => decide (w.1 ≤ a ∧ a < w.1 + w.2.length)).getLast?).map fun w => w.2.getD (a - w.1) 0

/-- The stores of a wave that are on their way to their homes, in program order: those committed, then those held (R155,
R246). -/
def ownStores (s : State) (c b w : Nat) : List (Nat × List Byte) :=
  (((s.core c).outbox.filter fun r => r.blk == b && r.wave == w).map fun r => (r.pa, r.data)) ++
  (match s.wave? b w with
    | some x => x.held.map fun h => (h.pa, h.data)
    | none => [])

/-- No core's L1 holds a copy of a global line. -/
def NoCopies (s : State) : Prop := ∀ c ∈ s.cores, ∀ x ∈ c.2.lines, x.2.isPinned = true

/-- The checks of a store word in some fibres, in slot order (R233, R255, R279): the translations, the faults, the state. -/
def storeChecks (s : State) (f : FmtMs) (data : Nat → List Byte) (lanes : List Nat) :
    List (Nat × Trans) × List FaultInfo × State :=
  State.reachAll (fun s l => s.reach { Access.store with cls := ordCls f.o } (2 ^ f.s.toNat) l (addr s f.g f.x f.e f.s.toNat l)
    (baseOf s f.g l).toNat (ofBytes (data l))) lanes s

/-- The store words of global memory with the fibres that store and their data (R90, R255). -/
def globalStores : List ((FmtMs → Instr) × (State → List Nat) × (State → FmtMs → Nat → List Byte)) :=
  [(.st, fun s => s.issue.effLive, fun s f l => stored s f.d f.s.toNat l),
   (.sst, fun s => s.issue.actor.toList, fun s f _ =>
     (List.range (2 ^ f.s.toNat)).map fun i => (Tab.get 0 s.issue.old.sc (f.d.toNat % 64)).extractLsb' (8 * i) 8)]

/-- The scope of an access word (R235). -/
def scopeOf (x : Ext) : Nat := (x.p.extractLsb' 21 3).toNat

/-- The data operands of an atomic in a fibre (R256): `data` and, for cas, `data′`; none for xrd and xclr forms. -/
def rmwOperands (s : State) (d : BitVec 7) (z fn l : Nat) : Nat × Nat :=
  let k := max 1 (2 ^ z / 4)
  let word := fun i => (Tab.get 0 s.issue.old.v ((s.issue.old.fibre l).wb + d.toNat + i)).toNat
  let opnd := fun b => (List.range k).foldl (fun x i => x + word (b + i) * 2 ^ (32 * i)) 0
  if 0x10 ≤ fn ∧ fn ≤ 0x13 then (0, 0) else (opnd 0, if fn = 1 then opnd k else 0)

/-- The checks of an atomic word of global memory (R46, R233, R272). -/
def rmwChecks (s : State) (g : Byte) (x : Ext) (o : BitVec 3) (d : BitVec 7) (z : Nat) (ord : BitVec 2) (ret : Bool) :
    List (Nat × Trans) × List FaultInfo × State :=
  let fn := (x.p.extractLsb' 16 5).toNat
  State.reachAll (fun s l => s.rmwReach fn z ord.toNat (scopeOf x) ret l (addr s g x o z l) (baseOf s g l).toNat (rmwOperands s d z fn l).1)
    s.issue.effLive s

/-- The WRITE steps of an atomic word at the homes (R257), after the release of a .rel or .sc form: value and flags of each
fibre, and the state. -/
def rmwSteps (s : State) (g : Byte) (x : Ext) (o : BitVec 3) (d : BitVec 7) (z : Nat) (ord : BitVec 2)
    (ts : List (Nat × Trans)) : List (Nat × Nat) × State :=
  let fn := (x.p.extractLsb' 16 5).toNat
  let sc := scopeOf x
  let u := s.clampScope sc
  let u := if ord = 2 ∨ ord = 3 then u.release sc else u
  State.rmwAll (fun s l t => s.rmwOne ord.toNat (s.scopeIn sc) fn z (addr s g x o z l) t (rmwOperands s d z fn l).1
    (rmwOperands s d z fn l).2) ts (u.drainWave u.issue.core u.issue.blk u.issue.wv)

/-- The state with the LIVE fibres in which the present word takes effect blocked, waiting for something (R27). -/
def waiting (s : State) (k : WaitKind) : State := { s with
  nextOrder := s.nextOrder + 1
  issue := { s.issue with
    blocked := s.issue.blocked ++ s.issue.effLive
    cur := { s.issue.cur with waits := s.issue.cur.waits ++ [{ kind := k, eff := s.issue.eff, order := s.nextOrder }] } } }

/-- A fault of a once-per-bundle member (R200, R271). -/
def memberFault (s : State) (c : FClass) (l ea : Nat) (a b : B64) : FaultInfo :=
  atWord s { cls := c, lane := l, addr := ea, opa := a, opb := b }

/-- The payload's predicate field (R199). -/
def pdField (x : Ext) : Nat := (x.p.extractLsb' 0 4).toNat

/-- A scalar result of a once-per-bundle member (R200): s(B) holds it and nothing else changes. -/
def answerS (s : State) (b : Byte) (x : Nat) : State := withIssue s fun e => withArch e { e.cur.arch with
  sc := e.cur.arch.sc.set 0 (b.toNat % 64) (BitVec.ofNat 64 x) }

/-- The six words on a transaction barrier that name its address in source A, each with its second source, and whether the
barrier must be initialised (R200, R201). -/
def barrierWords : List ((FmtAb → Instr) × Bool × Bool) :=
  [(.binit, true, false), (.bexp, true, true), (.barv, true, true), (.binv, false, true)]

/-- A transaction barrier's fields are in range (R196). -/
def inRangeT (t : TBar) : Prop := t.pending < 2 ^ 32 ∧ t.remain < 2 ^ 16 ∧ t.expect < 2 ^ 16 ∧ t.rsv < 2 ^ 60

/-- A ring after a change of one slot's state, its address unchanged (R203, R204). -/
def slotSet (r : Ring) (key : Nat) (x : SlotSt) : Ring := { r with st := r.st.insert key x }

/-- A change of one ring of the issuing block and of nothing else (R205). -/
def RingResult (u t : State) (k : Nat) (r : Ring) : Prop :=
  t.ring u.issue.blk k = r ∧ (∀ j, j ≠ k → t.ring u.issue.blk j = u.ring u.issue.blk j) ∧
  (∀ b, b ≠ u.issue.blk → t.blk? b = u.blk? b) ∧
  (∀ b, (t.blk? b).map (fun k => { k with rings := [] }) = (u.blk? b).map fun k => { k with rings := [] }) ∧
  t = { u with blocks := t.blocks, issue := t.issue }

/-- The copy starts (R179, R182): their member numbers, the roles that may start them (R41), and how many scalars each reads
from s_a and from s_b. -/
def copyStarts : List ((FmtAbx → Instr) × Nat × List Role × Nat × Nat) :=
  [(.cpy, 0, [.any, .load], 3, 3), (.cpyo, 1, [.any, .store], 3, 3), (.cpym, 2, [.any, .load], 3, 3),
   (.cpyt, 3, [.any, .load], 3, 3), (.cpyg, 4, [.any, .load], 3, 3), (.cpybin, 5, [.any, .store], 3, 3),
   (.cpych, 6, [.any, .load, .store], 1, 0), (.cpyl, 7, [.any, .load, .store], 4, 3)]

/-- Consecutive scalars from the one that a byte names (R178). -/
def scalarsAt (s : State) (b : Byte) (n : Nat) : List B64 :=
  (List.range n).map fun i => Tab.get 0 s.issue.old.sc ((b.toNat + i) % 64)

/-- The packed layout words of a start (R179, R180). -/
def startPlws (fn : Nat) (a b : List B64) : List Plw := if fn = 6 then [] else if fn = 7 then [Plw.of a, Plw.of b] else [Plw.of a]

/-- A latch entry of every fibre of the bundle in which the word takes effect, and not valid in the others (R64). -/
def LatchIs (s t : State) (k : Nat) (x : Nat) : Prop :=
  ∀ l j, j < 4 → Tab.find t.issue.cur.arch.lat (4 * l + j) =
    if j = k ∧ l ∈ s.issue.eff then some ⟨BitVec.ofNat 64 x, 0⟩ else if j = k ∧ l ∈ s.issue.lanes then none
    else Tab.find s.issue.cur.arch.lat (4 * l + j)

/-- A copy in a slot. -/
def copyAt (s : State) (core slot : Nat) : Option Copy := Tab.find (s.core core).copies slot

/-- The sequencer of the block whose stream runs, changed, its WPOS moved by an offset (R71, R222). -/
def seqStep (s : State) (off : B32) (g : Seqr → Seqr) : State :=
  s.onBlk s.sq fun k => { k with seqr := { g k.seqr with wpos := k.seqr.wpos + off } }

/-- A word of the stream that faults (R72, R224): the sequencer is FAULTED and its record waits. -/
def SeqFaulted (s t : State) (c : FClass) : Prop :=
  ∃ f, f.cls = c ∧ t = s.onBlk s.sq fun k => { k with seqr := { k.seqr with st := .faulted, frec := some f } }

/-- Activation element `i` of row `m` in K block `kb` (R210). -/
def actAt (s : State) (b : Nat) (f : MmFields) (da : B64) (m kb i : Nat) : Int :=
  let eb := if f.a16 = 1 then 2 else 1
  let a := (da.extractLsb' 0 20).toNat + m * (da.extractLsb' 20 16).toNat + 24 * eb * kb + eb * i
  if f.a16 = 1 then (s.spaceByte b 1 (a + 1) ++ s.spaceByte b 1 a).toInt else (s.spaceByte b 1 a).toInt

/-- Weight of K position `i` and column `n` in K block `kb` (R211): WP + 1 planes, plane j its bit j. -/
def wgtAt (s : State) (b : Nat) (f : MmFields) (dw : B64) (kb i n : Nat) : Int :=
  let p := f.wp.toNat + 1
  let bit := fun j => (s.spaceByte b 2 ((dw.extractLsb' 0 20).toNat + (kb * p + j) * 1152 + 48 * i + n / 8)).getLsbD (n % 8)
  (List.range p).foldl (fun v j => if bit j then v + (if j + 1 = p then -(2 ^ j) else 2 ^ j) else v) 0

/-- A K block's step on one accumulator (R117, R217). -/
def macAt (s : State) (b : Nat) (f : MmFields) (da dw : B64) (kb m n : Nat) (q : Int) (x : B64) : B64 :=
  let sa := (s.spaceByte b 1 ((da.extractLsb' 36 20).toNat + 16 * kb + m)).toNat
  let sw := (s.spaceByte b 2 ((dw.extractLsb' 32 20).toNat + 384 * kb + n)).toNat
  if sa = 255 ∨ sw = 255 then x
  else BitVec.ofInt 64 (accumulate x.toInt
    ((List.range 24).foldl (fun t i => t + actAt s b f da m kb i * wgtAt s b f dw kb i n) 0) ((sa : Int) + sw - 254 - q)).v

/-- The issuing wave belongs to a block that has no twin (R272). -/
def Alone (s : State) : Prop := s.issue.on = true ∧ s.iblk.primary = true ∧ s.iblk.twin = none

/-- An acquire at a logical time by the issuing wave (R254): pts rises to it and to SEEN, which starts again. -/
def AcquiredAt (s t : State) (ts : Nat) : Prop :=
  t.pts s.iblk.core s.ipart = max (max (s.pts s.iblk.core s.ipart) ts) s.issue.cur.seen ∧
  t = { s with cores := t.cores, issue := { s.issue with cur := { s.issue.cur with seen := 0 } } }

/-- A gate member may use its gate (R326): it exists, it is not FREE, and the mask names the partition. -/
def gateOk (s : State) (g : Nat) (mask : Gate → B64) : Prop :=
  g < 4096 ∧ (s.gate g).st ≠ 0 ∧ (mask (s.gate g)).getLsbD s.ipart = true

/-- The way of a member of the issuing wave to a gate (R8, R11). -/
def toGate (s : State) (g : Nat) : State := s.cross (s.coreDie s.issue.core) (gateDie g)

/-- The way of a member of the issuing wave to its partition's command processor (R8, R11). -/
def toHub (s : State) : State := s.cross (s.coreDie s.issue.core) (cpDie s.ipart)

/-- The waits of every wave of every block are as `f` maps them. -/
def WaitsMapped (u v : State) (f : Waiting → Waiting) : Prop :=
  ∀ b k, u.blk? b = some k → ∀ i < k.waves.length, ∀ w, u.wave? b i = some w →
    v.wave? b i = some { w with waits := w.waits.map f }

/-- A request of the host that the port does not serve (R277, R353) changes nothing but for its answer: unsupported in the viral
state, an order to retry before boot is complete, none after a failed stage. -/
def turnedAway (s : State) : State := { s with replies := s.replies ++
  (if s.viral = true then [{ status := .unsupported }] else if s.bootStat.toNat / 256 % 256 ≠ 0 then [] else [{ status := .retry }]) }

/-- The gate and the waits on it are all that differs (R327). -/
def GateOnly (u v : State) (g : Nat) : Prop :=
  (∀ h, h ≠ g → v.gate h = u.gate h) ∧ v.mem = u.mem ∧ v.cores = u.cores ∧ v.parts = u.parts ∧
  v.issue = { u.issue with cur := { u.issue.cur with waits := v.issue.cur.waits } }

/-- A wait on a gate that has reached a count (R327): one that is not marked yet and whose target is met returns with PD = 1. -/
def metAt (g : Nat) (n : B64) (x : Waiting) : Waiting :=
  match x.kind with
  | .gwait h t _ => if h = g ∧ t.toNat ≤ n.toNat ∧ x.woken = none then { x with woken := some true } else x
  | _ => x

/-- A wait on a gate that is freed (R323): it returns with PD = 0. -/
def freedWait (g : Nat) (x : Waiting) : Waiting :=
  match x.kind with
  | .gwait h _ _ | .gqueued h _ => if h = g ∧ x.woken = none then { x with woken := some false } else x
  | _ => x

/-! ### Command records -/

/-- `s` with the lines that the command processor of partition `p` has read by `t` (R254): parts may have been fetched ahead. -/
def readBy (s t : State) (p : Nat) : State := s.onPart p fun x => { x with cseen := (t.part p).cseen }

/-- `t` is `s` but for queue `q` of partition `p`, which is `x`. -/
def QueueIs (s t : State) (p q : Nat) (x : Queue) : Prop :=
  t = { s with parts := t.parts } ∧ (∀ r, r ≠ p → t.part r = s.part r) ∧
  t.part p = { s.part p with queues := (t.part p).queues } ∧ (∀ k, k ≠ q → t.queue p k = s.queue p k) ∧ t.queue p q = x

/-- The queue of the record that is being executed. -/
def ownQueue (s : State) : Queue := s.queue s.cq.1 s.cq.2

/-- A record of `n` words is done: the queue goes on after it; parts ahead may be fetched, whose lines the next acquire takes in
(R254, R285, R287). -/
def CmdDone (s t : State) (n : Nat) : Prop :=
  (s.part s.cq.1).cseen ≤ (t.part s.cq.1).cseen ∧
  QueueIs (readBy s t s.cq.1) t s.cq.1 s.cq.2 { (ownQueue s).leave (8 * n) with
    ahead := (ownQueue { t with cq := s.cq }).ahead, fixed := (ownQueue { t with cq := s.cq }).fixed }

/-- A command fault (R286): FAULT = 1, HEAD at the record, QFAULT as R283 lays it out, an interrupt of vector 1. -/
def CmdStopped (s t : State) (op : Nat) (c : CmdCause) : Prop :=
  QueueIs { s with msi := s.msi ++ [(s.cq.1, 1)] } t s.cq.1 s.cq.2 { ownQueue s with
    fault := true, frames := [], skip := 0, loop := none, wait := none, pend := none, ahead := [], fixed := []
    qfault := BitVec.ofNat 64 ((ownQueue s).head.toNat * 2 ^ 32 + op * 2 ^ 8 + c.code) }

/-- The queue waits with its record. -/
def CmdWaits (s t : State) (w : QWait) (i : Instr) : Prop :=
  QueueIs s t s.cq.1 s.cq.2 { ownQueue s with wait := some w, pend := some i }

/-- The launches before the record that an EVSIGC or FFENCE waits for (R285, R287): those that had been accepted when it
came. -/
def drainBound (s : State) : Nat :=
  match (ownQueue s).wait with
  | some (.drained n) => n
  | _ => (s.part s.cq.1).count.toNat

/-- A column of a height map is ready for its next point (R302): the point lies within the sweep, no block of the column is in
flight, and every dependence that lies inside the grid has completed. -/
def readyColumn (r : LaunchRec) (map : List Nat) (c : Nat) : Prop :=
  let h (k : Nat) : Nat := bits (map.getD k 0) 0 24
  h c < r.sweepExt ∧ bitAt (map.getD c 0) 31 = false ∧ ∀ d ∈ r.vectors, ∀ k, r.moveCol c (-d.2.1) (-d.2.2) = some k →
    0 ≤ (h c : Int) - d.1 → (h c : Int) - d.1 < h k

/-- A frontier launch of partition `p` is entered (R289, R290, R302, R305, R316, R371): the next identifier, its height map with
the READY points queued in order, the saved points to restore, then STATE := 1 in the record; a record that cannot be written
ends it faulted. The queue goes on after `n` words. -/
def FrontierEntered (s t : State) (p q : Nat) (r : LaunchRec) (pa : Option Nat) (va : Nat) (f : FrontRec) (n : Nat) : Prop :=
  let id := ((s.part p).count.toNat + 1) % 2 ^ 32
  ∃ (u : State) (l : Launch) (y : Frontier), u = { s with parts := u.parts } ∧ (∀ k, k ≠ p → u.part k = s.part k) ∧
    u.part p = { s.part p with count := (s.part p).count + 1, launches := (u.part p).launches } ∧
    (∀ k, k ≠ id → Tab.find (u.part p).launches k = Tab.find (s.part p).launches k) ∧ Tab.find (u.part p).launches id = some l ∧
    l = {
      queue := q, lr := r, seq := (s.part p).count.toNat + 1, prio := (s.queue p q).prio, eff := (s.queue p q).prio
      eventPa := pa, eventBig := s.bigPage p r.event, cpts := (s.part p).cpts, frontier := some y } ∧
    y = {
      va := va, h := y.h, ready := y.ready, saveBase := fieldAt f.head 32 8, saveSize := fieldAt f.head 40 8, head := f.head } ∧
    (∀ c < r.ncol, y.height c = bits (f.map.getD c 0) 0 24 ∧
      (y.inFlight c = true ↔ bitAt (f.map.getD c 0) 31 = true ∨ readyColumn r f.map c)) ∧
    y.ready.Pairwise (· < ·) ∧
    (∀ i, i ∈ y.ready ↔ ∃ c < r.ncol, readyColumn r f.map c ∧ i = r.linOf c (bits (f.map.getD c 0) 0 24)) ∧
    let v := (match pa with
      | some a => u.ownEvent p r.event a id
      | none => u).onPart p fun x => { x with saved := x.saved ++ f.dir.flatMap fun (e : Nat × Nat × Nat) =>
        let one : SavedImg := {
          blk := noBlock, launch := BitVec.ofNat 32 id, gang := r.linOf e.1 e.2.1, rank := 0, lin := r.linOf e.1 e.2.1
          addr := e.2.2, why := .savec }
        if r.plevel = 2 then [one, { one with primary := false }] else [one] }
    match v.hubWrite p ((va + 13) % 2 ^ 64) [1] with
    | (none, w) => CmdDone w t n
    | (some e, w) => CmdDone (w.frontierFault p id e) t n

/-- An FLAUNCH that has passed every check waits while 16 frontier launches of its partition are active, with what it has read;
else its launch is entered (R288, R305). -/
def FrontierAdmitted (s t : State) (q : B32) (r : LaunchRec) (pa : Option Nat) (va : Nat) (f : FrontRec) (i : Instr) (n : Nat) :
    Prop :=
  if 16 ≤ ((s.part s.cq.1).launches.filter fun l => l.2.frontier.isSome).length then CmdWaits s t (.frontierRoom r pa va f) i
  else FrontierEntered s t s.cq.1 q.toNat r pa va f n

/-! ### Writes of registers and the other requests of the host -/

/-- The requests that the host makes by CXL.mem and CXL.cache: in the viral state they have no answer (R277). -/
def isMemRequest : Instr → Bool
  | .cxlMemRead _ _ | .cxlMemWrite _ _ | .cxlCacheSnoop _ _ => true
  | _ => false

/-- The requests that the host makes: before boot is complete, and in the viral state, each is turned away (R277, R353). -/
def isHostRequest (i : Instr) : Prop :=
  (∃ p q v, i = .qtailWrite p q v) ∨ (∃ p q, i = .queueResume p q) ∨ (∃ p q v, i = .qresWrite p q v) ∨
  (∃ p v, i = .fqAnswerWrite p v) ∨ (∃ p, i = .contextReset p) ∨ (∃ p, i = .doorbell p) ∨ (∃ p v, i = .preemptGo p v) ∨
  (∃ k m v, i = .clusterAssignWrite k m v) ∨ (∃ c v, i = .coreBudgetWrite c v) ∨ (∃ p v, i = .tlbInvGo p v) ∨
  (∃ f b o n v, i = .registerWrite f b o n v) ∨ (∃ a n, i = .cxlMemRead a n) ∨ (∃ a d, i = .cxlMemWrite a d) ∨
  (∃ a d, i = .cxlCacheSnoop a d) ∨ (∃ k d, i = .ideKeySetup k d) ∨ ∃ d, i = .attestationReport d

/-- One field of every QRES but that of one queue, added up (R284). -/
def otherShares (s : State) (p q i : Nat) : Nat :=
  (s.parts.flatMap fun x => x.2.queues.map fun y =>
    if x.1 = p ∧ y.1 = q then 0 else y.2.res.toNat / 2 ^ (8 * i) % 256).foldl (· + ·) 0

/-- Only partition `p` may differ. -/
def OnlyPart (s t : State) (p : Nat) (x : Part) : Prop :=
  t = { s with parts := t.parts } ∧ (∀ r, r ≠ p → t.part r = s.part r) ∧ t.part p = x

/-- The launches of every partition try again to find room (R291). -/
def RetriesAll (s t : State) : Prop :=
  ∀ p, t.part p = { s.part p with
    launches := (s.part p).launches.map fun l => (l.1, { l.2 with waiting := false }) }

/-- Registers of a partition's interface block that hold what is written (R319): offset, the bits that a write keeps, and
whether partition 0 alone writes it. -/
def plainRegs : List (Nat × B64 × Bool) :=
  [(0x40, 0x000FFFFFFFFF0001, true), (0x80, 0x000FFFFFFFFFF000, false), (0x98, 0x00000000FFFFFFFF, false),
   (0xA8, 0xFFFFFFFFFFFFFFFF, false)]

/-! ### Dealing and the ends of blocks and launches -/

/-- A wave at block start (R23, R75, R292): 32 LIVE fibres at the entry with p0 alone set, windows one after another, lane 0
to 31 of wave `i` numbering its fibres in v0, s0 = ARG, s1 the point, s2 the launch; every other register zero. -/
def StartWave (r : LaunchRec) (id i : Nat) (pt : Nat × Nat × Nat) (w : Wave) : Prop :=
  w.entry = w.arch ∧ w.mode = .run ∧ w.arch.flags = 0 ∧ w.arch.lat = [] ∧ w.arch.fib.length = 32 ∧
  (∀ l < 32, w.arch.fibre l = { st := .live, pc := ⟨r.entry, 0⟩, wb := l * r.w }) ∧
  (∀ l < 32, Tab.get 0 w.arch.v (l * r.w) = BitVec.ofNat 32 (32 * i + l)) ∧
  (∀ p, (∀ l < 32, p ≠ l * r.w) → Tab.get 0 w.arch.v p = 0) ∧
  ∀ k, Tab.get 0 w.arch.sc k = match k with
    | 0 => r.arg
    | 1 => BitVec.ofNat 64 (pt.1 + pt.2.1 * 2 ^ 16 + pt.2.2 * 2 ^ 32)
    | 2 => BitVec.ofNat 64 id
    | _ => 0

/-- No block of the partition stands asked to stop, so that room that becomes free changes nothing else (R308). -/
def NoneAsked (s : State) : Prop := ∀ x ∈ s.blocks, x.2.ask = none

/-- A launch of a partition that is no frontier launch has dealt gang `g` to a cluster (R291). -/
def Dealt (s t : State) (p id : Nat) (k : Nat) : Prop :=
  ∀ l, Tab.find (s.part p).launches id = some l → l.frontier = none →
    Tab.find (t.part p).launches id = some { l with nextGang := l.nextGang + 1, placed := true, lastCluster := some k }

/-- A WAITCH on a launch that has completed (R290, R296): it returns, with PD = 0 where a block of the launch was killed. -/
def endedWait (id : Nat) (killed : Bool) (x : Waiting) : Waiting :=
  match x.kind with
  | .waitch c _ => if c.toNat = id ∧ x.woken = none then { x with woken := some (!killed) } else x
  | _ => x

/-- The blocks of a gang are on their cores (R36, R291, R292): rank j takes core j of those given. -/
def GangOn (s t : State) (p id : Nat) (l : Launch) (g first : Nat) (cs : List Nat) : Prop :=
  t.nextBlk = s.nextBlk + cs.length ∧ (∀ b, b < s.nextBlk → t.blk? b = s.blk? b) ∧
  ∀ j < cs.length, ∃ k, t.blk? (s.nextBlk + j) = some k ∧ k.part = p ∧ k.launch = BitVec.ofNat 32 id ∧ k.lin = first + j ∧
    k.pt = l.lr.point (first + j) ∧ k.gang = g ∧ k.gangSize = cs.length ∧ k.rank = j ∧ k.core = cs.getD j 0 ∧
    k.weight = l.lr.weight ∧ k.waves.length = l.lr.waves ∧
    ∀ i w, k.waves[i]? = some w → StartWave l.lr id i (l.lr.point (first + j)) w

/-! ### Returns of waiting words, saves and restorations -/

/-- Registers `o` become `a` when a waiting word of fibres `x` returns (R27): its scalar and predicate are written, and its
fibres go on after the word. -/
def Back (o a : Arch) (x : List Nat) (sd : Option (Nat × B64)) (pd : Option (Nat × Bool)) : Prop :=
  a = { o with fib := a.fib, sc := a.sc } ∧ a.fib.length = o.fib.length ∧
  (∀ k, Tab.get 0 a.sc k = match sd with
    | some (d, v) => if k = d then v else Tab.get 0 o.sc k
    | none => Tab.get 0 o.sc k) ∧
  ∀ l < o.fib.length, a.fibre l =
    if l ∈ x then
      let f : Fibre := match pd with
        | some (p, v) => if p = 0 then o.fibre l
            else { o.fibre l with pred := if v then (o.fibre l).pred ||| (1#16 <<< p) else (o.fibre l).pred &&& ~~~(1#16 <<< p) }
        | none => o.fibre l
      match f.blocked with
      | some pc => { f with pc := pc, blocked := none, wait := 0 }
      | none => f
    else o.fibre l

/-- The word that waits in a wave has returned (R27), in its registers and in its checkpoint. -/
def Returned (s t : State) (b i : Nat) (x : Waiting) (sd : Option (Nat × B64)) (pd : Option (Nat × Bool)) : Prop :=
  ∀ w, s.wave? b i = some w → ∃ a e n m, t.wave? b i = some { w with
      arch := a, entry := e, waits := w.waits.erase x, seen := n, wp := m } ∧
    Back w.arch a x.eff sd pd ∧ Back w.entry e x.eff sd pd

/-- The block is its own pair: what it does is forwarded to no twin (R272). -/
def NoTwin (s : State) (b : Nat) : Prop := (s.blk b).twin = none

/-- A BWAIT that can return (R201): the barrier unit has woken it. -/
def bwaitOver (x : Waiting) : Bool :=
  match x.kind with
  | .bwait _ _ _ => x.woken.isSome
  | _ => false

/-- An NBWAIT that can return (R202). -/
def nbwaitOver (s : State) (b i : Nat) (x : Waiting) : Bool :=
  match x.kind with
  | .nbwait k => x.woken.isSome || ((s.blk b).nb.getD k {}).phase != s.wpBit b i k
  | _ => false

/-- An RTAKE that can return (R205): the oldest on its ring, whose oldest slot is FULL. -/
def rtakeOver (s : State) (b : Nat) (x : Waiting) : Bool :=
  match x.kind with
  | .rtake k _ => !s.rtakeAhead b k (some x.order) && (s.headFull b k).isSome
  | _ => false

/-- An RACQ that can return (R205). -/
def racqOver (s : State) (b : Nat) (x : Waiting) : Bool :=
  match x.kind with
  | .racq k _ => !s.racqAhead b k (some x.order) && (s.acqSlot b k).isSome
  | _ => false

/-- A GWAIT or a queued GSIG that can return (R326, R328): in its turn, or with PD = 0. -/
def gwaitOver (s : State) (x : Waiting) : Bool :=
  match x.kind, x.woken with
  | .gwait g _ _, some v => !(v && s.gateAhead g x.order)
  | .gqueued _ _, some _ => true
  | _, _ => false

/-- An EVWAIT that can return (R296): COUNT has reached its target, in the order in which they began to wait. -/
def evwaitOver (s : State) (x : Waiting) : Bool :=
  match x.kind with
  | .evwait _ pa _ n _ => n.toNat ≤ s.mem.readNat pa 8 && !s.evwaitAhead pa x.order
  | _ => false

/-- A WAITCH that can return (R296): its child has completed. -/
def waitchOver (x : Waiting) : Bool :=
  match x.kind with
  | .waitch _ _ => x.woken.isSome
  | _ => false

/-! ### Cuts and gears -/

/-- The held stores of a wave are committed (R154, R262): those to DEV and SYS lines are on their way to their homes after those
committed before, of which a store to a LOCAL line sends some ahead where it needs a line from a home (R351). -/
def Committed (s t : State) (b i : Nat) (k : Block) (v : Wave) : Prop :=
  let new : List Req := if k.primary then (v.held.filter fun h => h.cls != .loc).map fun h =>
    ⟨k.part, h.va, h.pa, h.cls, h.data, b, i, h.own, h.whole⟩ else []
  (∃ old, old.Sublist (s.core k.core).outbox ∧ (t.core k.core).outbox = old ++ new) ∧
  ((∀ h ∈ v.held, h.cls ≠ .loc) → t.mem = s.mem ∧ (t.core k.core).outbox = (s.core k.core).outbox ++ new)

/-- The region of a wave has committed at an implicit cut (R153, R154, R262): its held stores are on their way to their homes,
those to LOCAL lines in the core's L1; the checkpoint is taken afresh with the flags of finished engine operations; a wave that
the mailbox has asked to stop stops. -/
def CutTaken (s t : State) (b i : Nat) (k : Block) (v : Wave) : Prop :=
  Committed s t b i k v ∧
  ∃ x, t.wave? b i = some x ∧ x.held = [] ∧ x.shadows = [] ∧ x.pkts = 0 ∧ x.entry = x.arch ∧ x.gear = v.gear ∧ x.first = v.first ∧
    x.arch = { v.arch with flags := orFlags v.arch.flags v.engFl } ∧ x.engFl = 0 ∧
    x.mode = (if v.stopReq then .stopped .mailbox else v.mode)

/-- A wave has gone back to its checkpoint (R157): registers as at region entry, no latch valid, nothing held but what a
P2 wave's words chained to the cut stored (R154, R272). -/
def RolledBack (v x : Wave) : Prop :=
  x.held = v.heldIn ∧ x.sig = v.sigIn ∧ x.shadows = [] ∧ x.pkts = 0 ∧ x.entry = x.arch ∧ x.arch = { v.entry with
    lat := [], fib := v.entry.fib.map fun f => { f with wait := 0, run := 0 } }

/-- A wave of a block that has no twin. -/
def LoneWave (s : State) (b i : Nat) (k : Block) (v : Wave) : Prop :=
  s.issue.on = false ∧ s.blk? b = some k ∧ k.twin = none ∧ s.wave? b i = some v

/-- A wave is in the scout. -/
def inScout (v : Wave) : Bool :=
  match v.gear with
  | .scout _ => true
  | _ => false

/-- The handler's wave, which is the first of its block, holds no store to a LOCAL line (R262). -/
def NothingLocal (s : State) : Prop := ∀ w, s.wave? s.issue.blk 0 = some w → ∀ h ∈ w.held, h.cls ≠ .loc

/-! ### The mailbox -/

/-- Nothing has joined the records that wait but E2E records of sectors whose check words fail (R349). -/
def MoreRecords (u t : State) : Prop :=
  (∀ q, ∃ l, t.part q = { u.part q with recWait := (u.part q).recWait ++ l }) ∧
  ((∀ k, (u.sector k).bad = false) → ∀ q, t.part q = u.part q)

/-- The monitor has written its reply (R276): the request's first 32 bytes with STATUS in byte 5, then the data. -/
def Replied (u t : State) (p status : Nat) (d : List Byte) : Prop :=
  let a := (u.part p).mbox.toNat / 2 ^ 12 % 2 ^ 40 * 2 ^ 12
  let r := u.mem.read a 32
  t.mem = u.mem.write (a + 0x800) (r.take 5 ++ [BitVec.ofNat 8 status] ++ r.drop 6 ++ d) ∧ MoreRecords u t ∧ t.cores = u.cores ∧
    t.blocks = u.blocks ∧ t.msi = u.msi

/-- A stopped wave as the monitor resumes it (R160, R276): its region commits, with the flags of finished engine
operations (R112, R154), and it goes on from the registers it has now, which are its checkpoint. -/
def Resumed (step : Bool) (v x : Wave) : Prop :=
  x.mode = .run ∧ x.single = step ∧ x.gear = (if step then .slow 0 none [] else .fast) ∧ x.held = [] ∧
    x.arch = { v.arch with lat := [], flags := orFlags v.arch.flags v.engFl } ∧ x.entry = x.arch

/-- The state in which a stopped wave has been restarted, its open region committed (R154, R160). -/
def restarted (s : State) (b w : Nat) (step : Bool) : State := (s.commit b w).onWave b w (State.restart step)

/-- The same with its phase looked at (R151), or the wave ended where no slot of it is LIVE (R31). -/
def settled (s : State) (b w : Nat) (step : Bool) (x : Wave) : State :=
  if (Arch.liveSlots x.arch).isEmpty then (restarted s b w step).endWave b w else (restarted s b w step).barTest b

/-- What a restart leaves of wave `x`: its stores are on their way, its latches invalid, its waits and its logical times as they
were. -/
def Restarts (s : State) (b w : Nat) (step : Bool) (x : Wave) : Prop :=
  Committed s (restarted s b w step) b w (s.blk b) x ∧
  ∃ y, (restarted s b w step).wave? b w = some y ∧ Resumed step x y ∧ y.shadows = [] ∧ y.pkts = 0 ∧ y.forced = none ∧ y.hold = none ∧
    y.waits = x.waits ∧ y.pend = x.pend ∧ y.seen = x.seen ∧ y.batches = x.batches ∧ y.role = x.role

/-! ### Encodings -/

/-- The constructor is one of the twelve stream operations (R71). -/
def isStream : Instr → Bool
  | .mnop | .mma _ | .mmac _ | .mclr _ | .epi _ | .mset _ _ _ | .madd _ _ _ _ | .mloop _ _ | .mjmp _ | .mwait _ | .msig _
  | .mhalt => true
  | _ => false

/-- The constructor is one of the thirteen command records (R285), its counts within LEN's 16 bits and its pointers aligned
as R285 asks. -/
def isCommand : Instr → Bool
  | .nopc n => n < 2 ^ 16
  | .launchCommand p _ ws => !p || (ws.getD 0 0).toNat % 64 == 0
  | .flaunch p _ ws => (!p || (ws.getD 0 0).toNat % 64 == 0) && (ws.getD (if p then 1 else 16) 0).toNat % 64 == 0
  | .writec _ data => data.length + 2 < 2 ^ 16
  | .copyc _ _ _ | .evsigc _ _ _ | .evwaitc _ _ | .ibcall _ _ | .predc _ _ _ | .loopc _ _ | .ffence _ | .tsc _
  | .savec _ => true
  | _ => false

/-! ### Statements that an obligation is made of -/

/-- R79, R81, R83: every two-source integer word completes, in every fibre in which it takes effect, with the result of the
rule on 32-bit values; the frame is that of `VResult`. -/
def IntegerTwoSource : Prop :=
  ∀ x ∈ twoSource, ∀ f s, ∃ t, exec (x.1 f) s = .next t ∧
    VResult s t f.n f.d 1 0 (fun l => (x.2 (n32 s f.a l) (n32 s f.b l)).setWidth 64) fun _ => 0

/-- R78, R80: MOV and the one-source integer words. -/
def IntegerOneSource : Prop :=
  ∀ x ∈ oneSource, ∀ f s, ∃ t, exec (x.1 f) s = .next t ∧
    VResult s t f.n f.d 1 0 (fun l => (x.2 (n32 s f.a l)).setWidth 64) fun _ => 0

/-- R78: MOVI writes the payload over FN; SEL selects by the predicate and sense that the payload names. -/
def MoveImmediateAndSelect : Prop :=
  (∀ (f : FmtI) s, ∃ t, exec (.movi f) s = .next t ∧ VResult s t f.n f.d 1 0 (fun _ => (f.x.p ++ f.i).setWidth 64) fun _ => 0) ∧
  ∀ (f : FmtS) s, ∃ t, exec (.sel f) s = .next t ∧
    VResult s t f.n f.d 1 0 (fun l =>
      (if s.issue.old.readP l (f.x.p.extractLsb' 0 4).toNat ^^ f.x.p.getLsbD 4 then n32 s f.a l else n32 s f.b l).setWidth 64)
      fun _ => 0

/-- R79, R83, R135: IMAD, BFI and the dot products add to, or insert into, the destination as it stood before the group. -/
def IntegerThreeSource : Prop :=
  ∀ x ∈ threeSource, ∀ f s, ∃ t, exec (x.1 f) s = .next t ∧
    VResult s t 0 f.d 1 0 (fun l => (x.2 (n32 s f.a l) (n32 s f.b l) (old32 s f.d l)).setWidth 64) fun _ => 0

/-- R85, R86: the 64-bit words and LEA, whose results take a register pair. -/
def Integer64 : Prop :=
  (∀ (f : FmtA) s, ∃ t, exec (.iadd64 f) s = .next t ∧ VResult s t f.n f.d 2 0 (fun l => n64 s f.a l + n64 s f.b l) fun _ => 0) ∧
  (∀ (f : FmtA) s, ∃ t, exec (.isub64 f) s = .next t ∧ VResult s t f.n f.d 2 0 (fun l => n64 s f.a l - n64 s f.b l) fun _ => 0) ∧
  (∀ (f : FmtD) s, ∃ t, exec (.imad64 f) s = .next t ∧
    VResult s t 0 f.d 2 0 (fun l => n64 s f.a l * n64 s f.b l + old64 s f.d l) fun _ => 0) ∧
  (∀ (f : FmtA) s, ∃ t, exec (.shl64 f) s = .next t ∧
    VResult s t f.n f.d 2 0 (fun l => n64 s f.a l <<< (n32 s f.b l).toNat) fun _ => 0) ∧
  ∀ (f : FmtAx) s, ∃ t, exec (.lea f) s = .next t ∧
    VResult s t f.n f.d 2 0 (fun l =>
      let p : BitVec 24 := match f.x with
        | some x => x.p
        | none => 0
      let i : B64 := if p.getLsbD 3 then (n32 s f.b l).setWidth 64 else (n32 s f.b l).signExtend 64
      n64 s f.a l + i <<< (p.extractLsb' 0 3).toNat) fun _ => 0

/-- R87, R88: the scalar words write s(D) once and every fibre's l3. -/
def ScalarWords : Prop :=
  (∀ x ∈ scalarTwo, ∀ f s, ∃ t, exec (x.1 f) s = .next t ∧ SResult s t f.n f.d 3 (x.2 (ns s f.a) (ns s f.b))) ∧
  (∀ (f : FmtA1) s, ∃ t, exec (.smov f) s = .next t ∧ SResult s t f.n f.d 3 (ns s f.a)) ∧
  (∀ (f : FmtI) s, ∃ t, exec (.smovi f) s = .next t ∧ SResult s t f.n f.d 3 ((f.x.p ++ f.i).signExtend 64)) ∧
  ∀ (f : FmtS) s, ∃ t, exec (.ssel f) s = .next t ∧
    SResult s t f.n f.d 3
      (if s.issue.old.readP s.issue.low (f.x.p.extractLsb' 0 4).toNat ^^ f.x.p.getLsbD 4 then ns s f.a else ns s f.b)

/-- R125, R126, R129, R132, R133: the F32, packed and F64 arithmetic words complete with the operation's result in every
fibre in which they take effect, rounded in the mode of the EXT, and gather the flags of the LIVE fibres. -/
def FloatArithmetic : Prop :=
  (∀ x ∈ ([(.fadd, f32.add), (.fsub, f32.sub), (.fmul, f32.mul)] : List ((FmtAx → Instr) × (RMode → Nat → Nat → Res))),
    ∀ f s, (payload f.x ≤ 4) → ∃ t, exec (x.1 f) s = .next t ∧
      FResult s t f.n f.d 1 0 fun l => x.2 (modeIn f.x) (fs s f.a l) (fs s f.b l)) ∧
  (∀ (f : FmtDx) s, (payload f.x ≤ 4) → ∃ t, exec (.fma f) s = .next t ∧
    FResult s t 0 f.d 1 0 fun l => f32.fma (modeIn f.x) (fs s f.a l) (fs s f.b l) (old32 s f.d l).toNat) ∧
  (∀ x ∈ ([(Instr.fmin, false), (Instr.fmax, true)] : List ((FmtA → Instr) × Bool)), ∀ f s, ∃ t, exec (x.1 f) s = .next t ∧
    FResult s t f.n f.d 1 0 fun l => ⟨f32.minmax x.2 (fs s f.a l) (fs s f.b l), 0⟩) ∧
  (∀ (f : FmtF) s, f.f.toNat ≤ 4 → ∃ t, exec (.frnd f) s = .next t ∧
    FResult s t f.n f.d 1 0 fun l => f32.rnd (modeIn (some ⟨0, f.f.setWidth 24⟩)) (fs s f.a l)) ∧
  (∀ x ∈ ([(.hadd2, f16, f16.add), (.hmul2, f16, f16.mul), (.badd2, b16, b16.add), (.bmul2, b16, b16.mul)] :
      List ((FmtAx → Instr) × FFmt × (RMode → Nat → Nat → Res))), ∀ f s, (payload f.x ≤ 4) → ∃ t, exec (x.1 f) s = .next t ∧
    FResult s t f.n f.d 1 0 fun l =>
      halves (fun a b _ => x.2.2 (modeIn f.x) a b) (hs s x.2.1 f.a l) (hs s x.2.1 f.b l) 0) ∧
  (∀ x ∈ ([(Instr.hfma2, f16), (Instr.bfma2, b16)] : List ((FmtDx → Instr) × FFmt)), ∀ f s, (payload f.x ≤ 4) →
    ∃ t, exec (x.1 f) s = .next t ∧ FResult s t 0 f.d 1 0 fun l =>
      halves (x.2.fma (modeIn f.x)) (hs s x.2 f.a l) (hs s x.2 f.b l) (old32 s f.d l).toNat) ∧
  (∀ x ∈ ([(.dadd, f64.add), (.dmul, f64.mul)] : List ((FmtAx → Instr) × (RMode → Nat → Nat → Res))),
    ∀ f s, (payload f.x ≤ 4) → ∃ t, exec (x.1 f) s = .next t ∧
      FResult s t f.n f.d 2 0 fun l => x.2 (modeIn f.x) (ds s f.a l) (ds s f.b l)) ∧
  ∀ (f : FmtDx) s, (payload f.x ≤ 4) → ∃ t, exec (.dfma f) s = .next t ∧
    FResult s t 0 f.d 2 0 fun l => f64.fma (modeIn f.x) (ds s f.a l) (ds s f.b l) (old64 s f.d l).toNat

/-- R131, R134, R136, R137: the X-pipe words complete with the function's result in l1 and v(D). -/
def FunctionUnitWords : Prop :=
  (∀ x ∈ ([(.frcp, frcp), (.frsq, frsq), (.fsqrt, fsqrt), (.fexp2, fexp2), (.flog2, flog2), (.fsin, fsin), (.fcos, fcos),
      (.ftanh, ftanh)] : List ((FmtA1 → Instr) × (Nat → Res))), ∀ f s, ∃ t, exec (x.1 f) s = .next t ∧
    FResult s t f.n f.d 1 1 fun l => x.2 (fs s f.a l)) ∧
  (∀ (f : FmtFx) s, (payload f.x ≤ 4) → ∃ t, exec (.cvt f) s = .next t ∧
    FResult s t f.n f.d (if 0xB ≤ f.t.toNat then 2 else 1) 1 fun l =>
      let x := cvtSource f.u.toNat s.issue f.a l
      convert (CFmt.ofCode f.t.toNat) x.1 (modeIn f.x) x.2) ∧
  (∀ (f : FmtA) s, ∃ t, exec (.bscl f) s = .next t ∧
    FResult s t f.n f.d 1 1 fun l => blockScale (s.issue.i32 f.a l) (s.issue.i32 f.b l)) ∧
  ∀ (f : FmtA) s, ∃ t, exec (.qexp f) s = .next t ∧
    FResult s t f.n f.d 1 1 fun l => qexp (fs s f.a l) (s.issue.i32 f.b l)

/-- R139: the quad words. Position p of a quad is slot mod 4; a slot that is not in the bundle is read through its synthetic
helper; QDDX and QDDY are rounded differences in F32. -/
def QuadWords : Prop :=
  (∀ x ∈ ([(.qswx, fun p => p ^^^ 1), (.qswy, fun p => p ^^^ 2), (.qswd, fun p => p ^^^ 3), (.qbc, fun _ => 0)] :
      List ((FmtA1 → Instr) × (Nat → Nat))), ∀ f s, ∃ t, exec (x.1 f) s = .next t ∧
    FResult s t f.n f.d 1 0 fun l => ⟨s.issue.i32 f.a (quadAt s l (x.2 (l % 4))), 0⟩) ∧
  ∀ x ∈ ([(Instr.qddx, 1), (Instr.qddy, 2)] : List ((FmtA1 → Instr) × Nat)), ∀ f s, ∃ t, exec (x.1 f) s = .next t ∧
    FResult s t f.n f.d 1 0 fun l =>
      f32.sub .rne (fs s f.a (quadAt s l (l % 4 ||| x.2))) (fs s f.a (quadAt s l (l % 4 &&& (3 - x.2))))

/-- R141, R142: each receiver of a shuffle reads the slot that the rule names, 0 from a slot that is no participant; VOTE
answers every receiver from the contributors' predicates. -/
def ShufflesAndVotes : Prop :=
  (∀ x ∈ ([(.shfl, fun s f l => (n32 s f.b l).toNat % 32), (.shflx, fun s f l => l ^^^ ((n32 s f.b l).toNat % 32)),
      (.bcast, fun s f _ => (n32 s f.b (s.issue.live.headD 0)).toNat % 32)] :
      List ((FmtA → Instr) × (State → FmtA → Nat → Nat))), ∀ f s, ∃ t, exec (x.1 f) s = .next t ∧
    FResult s t f.n f.d 1 0 fun l => ⟨if x.2 s f l ∈ s.issue.lanes then s.issue.i32 f.a (x.2 s f l) else 0, 0⟩) ∧
  ∀ (f : FmtVote) s, f.m.toNat ≤ 2 → ∃ t, exec (.vote f) s = .next t ∧
    (let yes := fun l => s.issue.old.readP l f.p.toNat ^^ f.i == 1
     ∃ r : B64, VResult s t f.n f.d 1 0 (fun _ => r) (fun _ => 0) ∧
       (f.m.toNat = 0 → ∀ i < 64, r.getLsbD i = decide (i ∈ s.issue.effLive ∧ yes i = true)) ∧
       (f.m.toNat = 1 → r = if ∃ l ∈ s.issue.effLive, yes l = true then 1 else 0) ∧
       (f.m.toNat = 2 → r = if ∀ l ∈ s.issue.effLive, yes l = true then 1 else 0))

/-- R143: WRED gives every receiver one value, and WSCAN each receiver the value of the contributors up to its slot; for the
sums, minima and logical operations on integers the order does not matter, so WRED's value is the plain fold over the
contributors, and 0 where there is none. -/
def ReduceAndScan : Prop :=
  (∀ (f : FmtF) s, f.f.toNat ≤ 11 → ∃ t, exec (.wred f) s = .next t ∧
    (let r := wredVal f.f.toNat (laneVals s.issue f.f.toNat f.a)
     ∃ u, VResult s u f.n f.d 1 0 (fun _ => BitVec.ofNat 64 r.v) (fun _ => 0) ∧
       t = { u with issue := { u.issue with fl := s.issue.fl ||| r.fl } })) ∧
  (∀ (f : FmtF) s, f.f.toNat ≤ 11 → ∃ t, exec (.wscan f) s = .next t ∧
    (let r := wscanVal f.f.toNat (laneVals s.issue f.f.toNat f.a)
     ∃ u, VResult s u f.n f.d 1 0 (fun l => BitVec.ofNat 64 (r l).v) (fun _ => 0) ∧
       t = { u with issue := { u.issue with fl := s.issue.eff.foldl (fun m l => m ||| (r l).fl) s.issue.fl } })) ∧
  ∀ x ∈ ([(0, fun a b => a + b), (1, fun a b => if a.slt b then a else b), (2, fun a b => if a.slt b then b else a),
      (3, fun a b => if a < b then a else b), (4, fun a b => if a < b then b else a), (5, fun a b => a &&& b),
      (6, fun a b => a ||| b), (7, fun a b => a ^^^ b)] : List (Nat × (B32 → B32 → B32))), ∀ s a,
    (wredVal x.1 (laneVals s.issue x.1 a)).v =
      match contributors s with
      | [] => 0
      | l :: r => (r.foldl (fun v m => x.2 v (n32 s a m)) (n32 s a l)).toNat

/-- R92, R94, R95, R96: outside a handler run MFS reads every selector as the rules give it (TGT, HSAVE0 to HSAVE7 as
zero), CLOCK the core's CCLK count; a scalar result. In a handler run with a target the selectors 0x00 to 0x11 read the
target wave's, for the fibre TGT.FIBRE, and 0x20 to 0x23 its scalar or vector register TGT.REG, its predicates or its PC;
with no target those of the handler's own wave, and zero. A vector register beyond the target's window reads zero, which
is the model's choice (log entry 111). -/
def SystemRegisterReads : Prop :=
  (∀ (f : FmtMfs) s, s.issue.on = true → s.iblk.handler = false → f.f.toNat < 0x20 → ∃ t, exec (.mfs f) s = .next t ∧
    SResult s t f.n f.d 3 (BitVec.ofNat 64 (sysValue s f.f.toNat))) ∧
  (∀ (f : FmtMfs) s, s.iblk.handler = true → 0x12 ≤ f.f.toNat → f.f.toNat < 0x20 → ∃ t, exec (.mfs f) s = .next t ∧
    SResult s t f.n f.d 3
      (if f.f = 0x12 then (s.core s.issue.core).tgt else Tab.get 0 (s.core s.issue.core).hsave (f.f.toNat - 0x18))) ∧
  (∀ (f : FmtMfs) s b w x, Targets s b w x → f.f.toNat < 0x12 ∨ (0x20 ≤ f.f.toNat ∧ f.f.toNat < 0x24) →
    let l := tgtOf s / 2 ^ 8 % 32
    let r := tgtOf s / 2 ^ 16 % 128
    ∃ t, exec (.mfs f) s = .next t ∧ SResult s t f.n f.d 3 (BitVec.ofNat 64 (match f.f.toNat with
      | 0x20 => (Tab.get 0 x.arch.sc (r % 64)).toNat
      | 0x21 => if r < (s.blk b).w then (Tab.get 0 x.arch.v ((x.arch.fibre l).wb + r)).toNat else 0
      | 0x22 => (x.arch.fibre l).pred.toNat ||| 1
      | 0x23 => tpcWord (x.arch.fibre l)
      | _ => sysValueOf s b w x x.arch l f.f.toNat))) ∧
  (∀ (f : FmtMfs) s, s.issue.on = true → TargetsNone s → f.f.toNat < 0x12 ∨ (0x20 ≤ f.f.toNat ∧ f.f.toNat < 0x24) →
    ∃ t, exec (.mfs f) s = .next t ∧ SResult s t f.n f.d 3 (BitVec.ofNat 64 (if f.f.toNat < 0x12 then sysValue s f.f.toNat else 0))) ∧
  ∀ (f : FmtClk) s, s.iblk.primary = true → s.iblk.twin = none → ∃ t, exec (.clock f) s = .next t ∧
    SResult s t f.n f.d 3 (BitVec.ofNat 64 (s.core s.issue.core).cycle)

/-- R92 to R95: MTS in a LIVE fibre. FLAGS takes its value when the group closes (R93); ones written to WSTAT clear
VANISHED and SCOPE_CLAMP; the other selectors of a wave are read-only, and TGT and HSAVE0 to HSAVE7 are ignored outside a
handler run and written in one, reserved bits of TGT as zero. In a handler run with a target FLAGS and WSTAT are the
target wave's, and the selectors 0x20 to 0x23 write its scalar or vector register TGT.REG, its predicates or its PC; with
no target those four are ignored. A fibre whose PC is written waits no more at its old PC, and leaves a gate for which none
waits (log entry 132). A write of a vector register beyond the target's window is ignored, which is the model's
choice (log entry 111). Where the word takes effect in no LIVE fibre nothing changes. -/
def SystemRegisterWrites : Prop :=
  ∀ (f : FmtMts) s, let v := ns s f.a
    (∀ b w x, s.issue.effLive ≠ [] → Targets s b w x → f.f.toNat < 0x12 ∨ (0x20 ≤ f.f.toNat ∧ f.f.toNat < 0x24) →
      let l := tgtOf s / 2 ^ 8 % 32
      let r := tgtOf s / 2 ^ 16 % 128
      ∃ t a, exec (.mts f) s = .next t ∧ t = { s with blocks := t.blocks, gates := t.gates } ∧
        t.wave? b w = some (if f.f = 0x23 then State.trimWaits { x with arch := a } else { x with arch := a }) ∧
        (∀ g, t.gate g = { s.gate g with waiters := (t.gate g).waiters }) ∧ (f.f ≠ 0x23 → t.gates = s.gates) ∧
        (∀ c i, (c, i) ≠ (b, w) → t.wave? c i = s.wave? c i) ∧ match f.f.toNat with
        | 0x0D => a = { x.arch with flags := v &&& 0x7F7F }
        | 0x0E => a = { x.arch with vanished := x.arch.vanished && !v.getLsbD 5, clamp := x.arch.clamp && !v.getLsbD 0 }
        | 0x20 => a = { x.arch with sc := a.sc } ∧ ∀ k, Tab.get 0 a.sc k = if k = r % 64 then v else Tab.get 0 x.arch.sc k
        | 0x21 => a = { x.arch with v := a.v } ∧ ∀ k, Tab.get 0 a.v k =
            if r < (s.blk b).w ∧ k = (x.arch.fibre l).wb + r then v.setWidth 32 else Tab.get 0 x.arch.v k
        | 0x22 => a = { x.arch with fib := x.arch.fib.set l { x.arch.fibre l with pred := v.setWidth 16 ||| 1 } }
        | 0x23 => a = { x.arch with fib := x.arch.fib.set l (State.writeTpc v.toNat (x.arch.fibre l)) }
        | _ => a = x.arch) ∧
    (s.issue.effLive = [] → exec (.mts f) s = .next s) ∧
    (s.issue.effLive ≠ [] → s.iblk.handler = false ∨
        (TargetsNone s ∧ (f.f.toNat < 0x12 ∨ (0x20 ≤ f.f.toNat ∧ f.f.toNat < 0x24))) →
      exec (.mts f) s = .next (withIssue s fun e =>
        if f.f = 0x0D then { e with mts := some v }
        else if f.f = 0x0E then withArch e { e.cur.arch with
          vanished := e.cur.arch.vanished && !v.getLsbD 5, clamp := e.cur.arch.clamp && !v.getLsbD 0 }
        else e)) ∧
    (s.issue.effLive ≠ [] → s.iblk.handler = true → 0x12 ≤ f.f.toNat → f.f.toNat < 0x20 →
      ∃ t, exec (.mts f) s = .next t ∧ t = { s with cores := t.cores } ∧
        ∀ n, t.core n = if n = s.issue.core then
            (if f.f = 0x12 then { s.core n with tgt := v &&& 0x7F1FBF }
             else { s.core n with hsave := (t.core n).hsave })
          else s.core n) ∧
    (s.issue.effLive ≠ [] → s.iblk.handler = true → 0x18 ≤ f.f.toNat → f.f.toNat < 0x20 → ∃ t, exec (.mts f) s = .next t ∧
      ∀ k, Tab.get 0 (t.core s.issue.core).hsave k =
        if k = f.f.toNat - 0x18 then v else Tab.get 0 (s.core s.issue.core).hsave k)

/-- R51, R146: BRA takes the branch in the LIVE fibres whose predicate has the named sense, to the packet index plus the signed
offset; BRX, RET and CALLX go to the packet index in source A; CALL and CALLX leave the next packet index in the link register
of each fibre that branches. Nothing else changes. -/
def BranchWords : Prop :=
  (∀ (f : FmtB) s, exec (.bra f) s = .next (withIssue s fun e => { e with taken := e.taken ++
    ((e.effLive.filter fun l => e.old.readP l f.p.toNat ^^ f.s == 1).map fun l => (l, e.pc.ix + f.o.signExtend 32)) })) ∧
  (∀ (f : FmtAb) s, exec (.brx f) s = exec (.ret f) s ∧ exec (.brx f) s = .next (withIssue s fun e =>
    { e with taken := e.taken ++ (e.effLive.map fun l => (l, n32 s f.a l)) })) ∧
  (∀ (f : FmtB) s, ∃ v, exec (.call f) s = .next (withIssue s fun e =>
      { withArch e { e.cur.arch with v := v } with taken := e.taken ++
        ((e.effLive.filter fun l => e.old.readP l f.p.toNat ^^ f.s == 1).map fun l => (l, e.pc.ix + f.o.signExtend 32)) }) ∧
    ∀ p, Tab.get 0 v p =
      if ∃ l ∈ s.issue.eff, (s.issue.old.readP l f.p.toNat ^^ f.s == 1) = true ∧ p = (s.issue.cur.arch.fibre l).wb + (s.iblk.w - 1)
      then s.issue.pc.ix + 1 else Tab.get 0 s.issue.cur.arch.v p) ∧
  ∀ (f : FmtAb) s, ∃ v, exec (.callx f) s = .next (withIssue s fun e =>
      { withArch e { e.cur.arch with v := v } with taken := e.taken ++ (e.effLive.map fun l => (l, n32 s f.a l)) }) ∧
    ∀ p, Tab.get 0 v p =
      if ∃ l ∈ s.issue.eff, p = (s.issue.cur.arch.fibre l).wb + f.b.toNat then s.issue.pc.ix + 1
      else Tab.get 0 s.issue.cur.arch.v p

/-- R24, R147, R148: FORK starts a fibre in the lowest EMPTY lane slot for each LIVE fibre in which it takes effect, in slot
order, and answers in l3 the slot, −1 where none is EMPTY, −2 where the window is not legal; EXIT ends those fibres. -/
def ForkAndExit : Prop :=
  (∀ (f : FmtAb) s, exec (.fork f) s = .next (withIssue s fun e => withArch e
    (e.effLive.foldl (forkIn s f) { e.cur.arch with
      lat := (e.lanes.filter fun l => !e.effLive.contains l).foldl (fun t l => t.erase (4 * l + 3)) e.cur.arch.lat }))) ∧
  ∀ (f : FmtAb) s, exec (.exit f) s = .next (withIssue s fun e =>
    withArch e { e.cur.arch with fib := e.effLive.foldl exitIn e.cur.arch.fib })

/-- R57, R149, R150, R158: NOP and CUT change nothing; GRD sets the guard of the words that follow; ROLEQ answers the role
or the FLEX mark in a predicate; PRE records the liveness map, its mask cut to the groups of the window, and stops the wave
where a pre-emption is pending and nothing holds its stops off (R309). -/
def HintsAndQueries : Prop :=
  (∀ f s, exec (.nop f) s = .next s) ∧ (∀ f s, exec (.cut f) s = .next s) ∧
  (∀ (f : FmtAb) s, exec (.grd f) s = .next (withIssue s fun e =>
    { e with guard := some ((f.b.extractLsb' 0 4).toNat, f.b.getLsbD 4) })) ∧
  (∀ (f : FmtAb) s, ∃ t, exec (.roleq f) s = .next t ∧ PResult s t (f.b.extractLsb' 4 4).toNat fun _ =>
    if f.b.getLsbD 3 then s.issue.cur.flex else s.issue.cur.role == [Role.any, .load, .store, .vec].getD (f.b.toNat % 4) .any) ∧
  ∀ (f : FmtAbo) s,
    (s.issue.effLive = [] → exec (.pre f) s = .next s) ∧
    (s.issue.effLive ≠ [] → f.x = none → exec (.pre f) s = .next (withIssue s fun e => { e with cur := { e.cur with
      live := some (BitVec.ofNat 16 ((f.a ++ f.b).toNat % 2 ^ (s.iblk.w / 8)), 0xC0000000, 0xC0000000)
      mode := if s.stopping s.issue.blk then .stopped (.preempt 0) else e.cur.mode } })) ∧
    (∀ x, s.issue.effLive ≠ [] → f.x = some x → exec (.pre f) s = .next (withIssue s fun e => { e with cur := { e.cur with
      live := some (BitVec.ofNat 16 ((f.a ++ f.b).toNat % 2 ^ (s.iblk.w / 8)),
        if x.p.getLsbD 6 then rangeWord ((Tab.get 0 e.old.sc (x.p.toNat % 64)).toNat % 2 ^ 32) else 0xC0000000,
        if x.p.getLsbD 6 then rangeWord ((Tab.get 0 e.old.sc (x.p.toNat % 64)).toNat / 2 ^ 32) else 0xC0000000)
      mode := if s.stopping s.issue.blk then .stopped (.preempt 0) else e.cur.mode } }))

/-- R45, R151, R152: at BAR the wave's committed stores reach visibility and its LIVE fibres wait with the carry mask, in
issue order. YIELD takes effect once its group's effects stand, in no scout: the wave takes a new age, or passes the baton
of a DET block to its lowest-indexed other ready wave; a baton whose holder has come to wait passes as well. Where the
word takes effect in no LIVE fibre nothing changes. -/
def BarAndYield : Prop :=
  (∀ (f : FmtAb) s, s.issue.effLive = [] → exec (.bar f) s = .next s ∧ exec (.yield f) s = .next s) ∧
  (∀ (f : FmtAb) s, s.issue.effLive ≠ [] →
    let u := s.drainWave s.issue.core s.issue.blk s.issue.wv
    exec (.bar f) s = .next { u with
      nextOrder := u.nextOrder + 1
      issue := { u.issue with
        blocked := u.issue.blocked ++ u.issue.effLive
        cur := { u.issue.cur with
          waits := u.issue.cur.waits ++ [{ kind := .bar (f.a ++ f.b).toNat, eff := u.issue.eff, order := u.nextOrder }] } } }) ∧
  (∀ (f : FmtAb) s, s.issue.effLive ≠ [] → exec (.yield f) s = .next (withIssue s fun e => { e with yielded := true })) ∧
  (∀ (s : State) b i ws e v, s.wave? b i = some v → v.mode = .run → Arch.liveSlots v.arch ≠ [] → v.single = false → v.waits = [] →
    e.yielded = true → (s.blk b).pre = none →
    s.afterGroup b i ws e = if inScout v = true then s.afterGroup b i ws { e with yielded := false } else s.yieldWave b i) ∧
  (∀ (s : State) b i k v, s.issue.on = false → s.blk? b = some k → k.det = false → s.wave? b i = some v →
    (s.yieldWave b i).wave? b i = some { v with age := s.nextAge } ∧ (s.yieldWave b i).nextAge = s.nextAge + 1 ∧
      ∀ c j, (c, j) ≠ (b, i) → (s.yieldWave b i).wave? c j = s.wave? c j) ∧
  (∀ (s : State) b i k, s.blk? b = some k → k.det = true →
    let t := s.yieldWave b i
    t = { s with blocks := t.blocks } ∧
      (∀ c, t.blk? c = if c = b then some { k with baton := (t.blk b).baton } else s.blk? c) ∧
      (t.blk b).baton = ((s.readyWaves b).filter fun j => j ≠ i).head?.getD k.baton) ∧
  ∀ (s : State) b k i r, s.blk? b = some k → k.det = true → s.comesToWait b k.baton = true → s.readyWaves b = i :: r →
    (s.settleBaton b).blk? b = some { k with baton := i }

/-- R159, R273, R276: ASSERT does nothing where the predicate has the sense in every LIVE fibre in which it takes effect; else
the context stops: its bit, the wave, and the record with the failing fibre and the scalar operand in the mailbox. -/
def AssertStopsContext : Prop :=
  (∀ (f : FmtAb) s, (∀ l ∈ s.issue.effLive, s.issue.old.readP l (f.b.toNat % 16) ≠ f.b.getLsbD 4) →
    exec (.assert f) s = .next s) ∧
  ∀ (f : FmtAb) s k l r, Issuing s k → k.handler = false →
    s.issue.effLive.filter (fun l => s.issue.old.readP l (f.b.toNat % 16) == f.b.getLsbD 4) = l :: r →
    ∃ t, exec (.assert f) s = .next t ∧ t.issue.cur = { s.issue.cur with
        mode := .stopped .context, single := false, waits := t.issue.cur.waits } ∧
      (t.part k.part).stopped = true ∧ (t.part k.part).recSeq = ((s.part k.part).recSeq + 1) % 65536 ∧
      t.mem = s.mem.write (stopRecordPa s k.part)
        (sequenced s k.part (recordOf s (stopFault s .assert l 0 (Tab.get 0 s.issue.old.sc (f.a.toNat % 64)))))

/-- R159, R273, R274: TRAP and BKPT stop the wave for the handler where HANDLER.EN is 1, and else their record kills the block
once it is written, its waves standing still; the record carries the word's code. Memory and every other part are unchanged. -/
def TrapsStopTheWave : Prop :=
  ∀ x ∈ ([(Instr.trap, FClass.trap), (Instr.bkpt, FClass.bkpt)] : List ((FmtAb → Instr) × FClass)), ∀ f s k,
    Issuing s k → k.handler = false →
    (s.issue.effLive = [] → exec (x.1 f) s = .next s) ∧
    (s.issue.effLive ≠ [] → (s.part k.part).handler.getLsbD 3 = true →
      exec (x.1 f) s = .next { s with
        parts := s.parts.insert k.part { s.part k.part with recWait := (s.part k.part).recWait ++
          [{ data := recordOf s (stopFault s x.2 (s.issue.live.headD 0) (f.a ++ f.b).toNat 0)
             handler := some (k.core, ⟨s.issue.blk, s.issue.wv, 0, [], 0⟩) }] }
        issue := { s.issue with cur := { s.issue.cur with mode := .stopped .handler, single := false } } }) ∧
    (s.issue.effLive ≠ [] → (s.part k.part).handler.getLsbD 3 = false → k.twin = none →
      ∃ t, exec (x.1 f) s = .next t ∧ t = { s with parts := t.parts, blocks := t.blocks, issue := t.issue } ∧
        t.parts = s.parts.insert k.part { s.part k.part with recWait := (s.part k.part).recWait ++
          [{ data := recordOf s (stopFault s x.2 (s.issue.live.headD 0) (f.a ++ f.b).toNat 0), kills := some s.issue.blk }] } ∧
        (t.blk s.issue.blk).doomed = true ∧ (∀ b, b ≠ s.issue.blk → t.blk? b = s.blk? b) ∧
        ∀ i w, s.wave? s.issue.blk i = some w → t.wave? s.issue.blk i = some (match w.mode with
          | .run | .asleep _ => { w with mode := .stopped .record, single := false }
          | _ => w))

/-- R25, R60, R167, R169, R170: a plain LDS (space 0) or LDA (space 1) gives each fibre in which it takes effect the bytes of
the space at its address; a LIVE fibre whose check fails gets a fault and no value, a helper gets 0. -/
def LocalLoads : Prop :=
  ∀ x ∈ ([(Instr.lds, 0), (Instr.lda, 1)] : List ((FmtM → Instr) × Nat)), ∀ f s, f.s.toNat ≤ 4 → f.o = 0 →
    ∃ t, exec (x.1 f) s = .next t ∧
      (let z := f.s.toNat
       let a := addr s f.g f.x f.e z
       let bad := fun l => spaceFault s x.2 (a l) (2 ^ z) true
       LoadResult s t f.n f.d z (s.issue.eff.map fun l => (l,
         if bad l = none then some (ofBytes (spaceBytes s x.2 (a l) (2 ^ z)))
         else if l ∈ s.issue.live then none else some 0)) ∧
       t = withIssue (addFaults s (s.issue.effLive.filterMap fun l => (bad l).map fun c =>
         atWord s { cls := c, kind := .load, lane := l, addr := a l, opa := baseOf s f.g l }))
         fun e => withArch e t.issue.cur.arch)

/-- R170, R235, R250, R279: an ordered LDS or LDA: where no fibre's check fails, a .sc form releases, then the plain load
takes place, then the wave acquires; where a LIVE fibre's check fails, only the faults are added. -/
def LocalLoadsOrdered : Prop :=
  ∀ x ∈ ([(Instr.lds, 0), (Instr.lda, 1)] : List ((FmtM → Instr) × Nat)), ∀ f s, f.s.toNat ≤ 4 → (f.o = 1 ∨ f.o = 3) →
    s.issue.eff ≠ [] → (f.x.p.extractLsb' 21 3).toNat ≤ 5 →
    (let u := if f.o = 3 then s.release (f.x.p.extractLsb' 21 3).toNat else s
     let bad := fun v l => spaceFault v x.2 (addr s f.g f.x f.e f.s.toNat l) (2 ^ f.s.toNat) true
     ((∀ l ∈ s.issue.eff, bad s l = none ∧ bad u l = none) → ∃ t,
       exec (x.1 f) s = .next (t.acquire (f.x.p.extractLsb' 21 3).toNat) ∧ exec (x.1 { f with o := 0 }) u = .next t) ∧
     ((∃ l ∈ s.issue.effLive, bad s l ≠ none) →
       exec (x.1 f) s = .next (addFaults s (s.issue.effLive.filterMap fun l => (bad s l).map fun c => atWord s
           { cls := c, kind := .load, lane := l, addr := addr s f.g f.x f.e f.s.toNat l, opa := baseOf s f.g l }))))

/-- A wave without the marks that its waits have been woken. -/
def unwoken (w : Wave) : Wave := { w with waits := w.waits.map fun x => { x with woken := none } }

/-- The waits of waves differ in nothing but the marks of those woken, and the blocks in nothing else. -/
def OnlyWoken (s t : State) : Prop :=
  unwoken t.issue.cur = unwoken { s.issue.cur with shadows := t.issue.cur.shadows, sig := t.issue.cur.sig } ∧
  (t.blocks.map fun x => (x.1, { x.2 with waves := x.2.waves.map unwoken })) =
    s.blocks.map fun x => (x.1, { x.2 with waves := x.2.waves.map unwoken })

/-- The waves differ in nothing but PEND, and the issue and the blocks in nothing else: committed stores have come to
their homes (R246, R254). -/
def OnlyPend (s t : State) : Prop :=
  t.issue = { s.issue with cur := { s.issue.cur with pend := t.issue.cur.pend } } ∧
  (t.blocks.map fun x => (x.1, { x.2 with waves := x.2.waves.map fun (w : Wave) => { w with pend := 0 } })) =
    s.blocks.map fun x => (x.1, { x.2 with waves := x.2.waves.map fun (w : Wave) => { w with pend := 0 } })

/-- R155, R169, R170, R171: STS (space 0) and STA (space 1) write the low 2^z bytes of each LIVE fibre's registers in slot
order, so that the highest slot's bytes remain; no other byte of a space changes; a plain store first keeps the sectors it
writes for a rollback. -/
def LocalStores : Prop :=
  ∀ x ∈ ([(Instr.sts, 0), (Instr.sta, 1)] : List ((FmtMs → Instr) × Nat)), ∀ f s, f.s.toNat ≤ 4 → f.o = 0 →
    s.issue.scout = false → s.shadowRoom s.issue.core s.issue.effLive.length s.issue.cur = true →
    (let z := f.s.toNat
     let a := addr s f.g f.x f.e z
     (∀ l ∈ s.issue.effLive, spaceFault s x.2 (a l) (2 ^ z) false = none) → ∃ t, exec (x.1 f) s = .next t ∧
       (∀ b sp p, t.spaceByte b sp p =
         match (s.issue.effLive.filter fun l => decide (b = s.issue.blk ∧ sp = x.2 ∧ a l ≤ p ∧ p < a l + 2 ^ z)).getLast? with
         | some l => (stored s f.d z l).getD (p - a l) 0
         | none => s.spaceByte b sp p) ∧
       (∀ l ∈ s.issue.effLive, State.isShadowed t.issue.cur x.2 (a l) = true) ∧
       t = { s with cores := t.cores, blocks := t.blocks, issue := { s.issue with cur := { s.issue.cur with
         shadows := t.issue.cur.shadows, sig := t.issue.cur.sig, waits := t.issue.cur.waits } } } ∧
       OnlyWoken s t ∧ (x.2 = 1 → t.blocks = s.blocks ∧ t.issue.cur.waits = s.issue.cur.waits))

/-- R170, R250, R279: an ordered STS or STA releases in its .rel and .sc forms, stores as above and takes no shadow; a .sc form
then acquires; where the word takes effect in no LIVE fibre nothing changes (R67). -/
def LocalStoresOrdered : Prop :=
  ∀ x ∈ ([(Instr.sts, 0), (Instr.sta, 1)] : List ((FmtMs → Instr) × Nat)), ∀ f s, f.s.toNat ≤ 4 → (f.o = 2 ∨ f.o = 3) →
    s.issue.scout = false →
    (s.issue.effLive = [] → exec (x.1 f) s = .next s) ∧
    (s.issue.effLive ≠ [] → let z := f.s.toNat
     let a := addr s f.g f.x f.e z
     let u := s.release (f.x.p.extractLsb' 21 3).toNat
     (∀ l ∈ s.issue.effLive, spaceFault s x.2 (a l) (2 ^ z) false = none ∧ spaceFault u x.2 (a l) (2 ^ z) false = none) → ∃ t,
       exec (x.1 f) s = .next (if f.o = 3 then t.acquire (f.x.p.extractLsb' 21 3).toNat else t) ∧
       (∀ b sp p, t.spaceByte b sp p =
         match (s.issue.effLive.filter fun l => decide (b = s.issue.blk ∧ sp = x.2 ∧ a l ≤ p ∧ p < a l + 2 ^ z)).getLast? with
         | some l => (stored s f.d z l).getD (p - a l) 0
         | none => u.spaceByte b sp p) ∧
       t = { u with cores := t.cores, blocks := t.blocks, issue := { u.issue with cur := { u.issue.cur with
         sig := t.issue.cur.sig, waits := t.issue.cur.waits } } } ∧
       OnlyWoken u t ∧ (x.2 = 1 → t.blocks = u.blocks ∧ t.issue.cur.waits = u.issue.cur.waits))

/-- R264, R265, R279: where the check of a LIVE fibre fails, STS, STA and ATOMS have no effect but the faults; a scout's STS
and STA have none at all. -/
def LocalStoresRefused : Prop :=
  (∀ x ∈ ([(Instr.sts, 0), (Instr.sta, 1)] : List ((FmtMs → Instr) × Nat)), ∀ f s,
    (s.issue.scout = true → exec (x.1 f) s = .next s) ∧
    (let a := addr s f.g f.x f.e f.s.toNat
     let bad := fun l => spaceFault s x.2 (a l) (2 ^ f.s.toNat) false
     s.issue.scout = false → (∃ l ∈ s.issue.effLive, bad l ≠ none) → ∃ t, exec (x.1 f) s = .next t ∧
       t.issue.faults.map FaultInfo.cls = s.issue.faults.map FaultInfo.cls ++ s.issue.effLive.filterMap bad ∧
       t = withIssue s fun e => { e with faults := t.issue.faults })) ∧
  ∀ (f : FmtM) s,
    let bad := fun l => spaceFault s 0 (addr s f.g f.x f.e f.s.toNat l) (2 ^ f.s.toNat) (f.n == 0)
    (∃ l ∈ s.issue.effLive, bad l ≠ none) → ∃ t, exec (.atoms f) s = .next t ∧
      t.issue.faults.map FaultInfo.cls = s.issue.faults.map FaultInfo.cls ++ s.issue.effLive.filterMap bad ∧
      t = withIssue s fun e => { e with faults := t.issue.faults }

/-- R119 to R121, R172, R256, R257: the read-modify-write functions on `w`-bit values: each returns the old value and
writes NEW, and FADD gives its flags. On a 48-byte cell xadd adds the exact value of its datum, the low bits of the
register; xrd returns the cell rounded to its format and leaves it; xclr makes it 48 zero bytes. -/
def ReadModifyWriteValues : Prop :=
  (∀ old d d2 : B32,
    rmwApply 0x0A 2 (toBytes 4 old.toNat) d.toNat d2.toNat =
      ⟨old.toNat, toBytes 4 (f32.add .rne old.toNat d.toNat).v, (f32.add .rne old.toNat d.toNat).fl⟩ ∧
    rmwApply 0x0B 2 (toBytes 4 old.toNat) d.toNat d2.toNat = ⟨old.toNat, toBytes 4 (f32.minmax false old.toNat d.toNat), 0⟩ ∧
    rmwApply 0x0C 2 (toBytes 4 old.toNat) d.toNat d2.toNat = ⟨old.toNat, toBytes 4 (f32.minmax true old.toNat d.toNat), 0⟩) ∧
  (∀ z (cell : List Byte) (d d2 : Nat), cell.length = 48 →
    (∀ x ∈ ([(0x18, f32), (0x19, b16), (0x1A, f16), (0x1B, e4m3), (0x1C, e5m2)] : List (Nat × FFmt)),
      rmwApply x.1 z cell d d2 = ⟨0, ((Xa.ofBytes cell).add (x.2.read (d % 2 ^ x.2.width))).bytes, 0⟩) ∧
    (∀ x ∈ ([(0x10, f32), (0x11, b16), (0x12, f16)] : List (Nat × FFmt)),
      rmwApply x.1 z cell d d2 = ⟨((Xa.ofBytes cell).round x.2).v, cell, ((Xa.ofBytes cell).round x.2).fl⟩) ∧
    rmwApply 0x13 z cell d d2 = ⟨0, List.replicate 48 0, 0⟩ ∧ ∀ fn, 0x10 ≤ fn → rmwSpan fn z = (48, 16)) ∧
  ∀ z ≤ 3, ∀ old : BitVec (8 * 2 ^ z), ∀ d d2 : BitVec (8 * 2 ^ z),
    ∀ x ∈ ([(0, d), (1, if old = d then d2 else old), (2, old + d), (3, old &&& d), (4, old ||| d), (5, old ^^^ d),
        (6, if old.slt d then old else d), (7, if old.slt d then d else old), (8, if old < d then old else d),
        (9, if old < d then d else old)] : List (Nat × BitVec (8 * 2 ^ z))),
    rmwApply x.1 z (toBytes (2 ^ z) old.toNat) d.toNat d2.toNat = ⟨old.toNat, toBytes (2 ^ z) x.2.toNat, 0⟩

/-- The check and the access of a plain load in a fibre (R233, R255). -/
def loadOne (f : FmtM) (s : State) (l : Nat) : LaneRes × State :=
  match State.laneCheck f s l with
  | (.ok t, u) => State.laneLoad f u l t
  | (.error x, u) => (.bad x, u)

/-- R25, R60, R246, R250, R255, R279: LD gives each fibre in which it takes effect the value that its access finds, a LIVE
fibre whose access faults a fault; the line's wts joins SEEN; earlier stores that come to their homes first (R351) change
only PEND. SLD makes one access for the lowest LIVE fibre and writes s(D), l2 and l3. An ordered form makes every check
before any access: where one fails in a LIVE fibre only the faults are added; else a .sc form releases, the accesses
follow, and the wave acquires. -/
def GlobalLoads : Prop :=
  (∀ (f : FmtM) s, f.s.toNat ≤ 4 → f.o = 0 → s.issue.scout = false → ∃ t, exec (.ld f) s = .next t ∧
    (let r := State.eachLane (loadOne f) s.issue.eff s
     OnlyPend s r.2 ∧ LoadResult s t f.n f.d f.s.toNat (r.1.map (loadValue s)) ∧
     t = withIssue (addFaults r.2 (loadFaults s r.1)) fun e => { e with cur := { e.cur with
       arch := t.issue.cur.arch, seen := max s.issue.cur.seen (State.maxWts r.1) } })) ∧
  (∀ (f : FmtM) s, f.s.toNat ≤ 4 → (f.o = 1 ∨ f.o = 3) → s.issue.eff ≠ [] →
    let c := State.checkEach (State.laneCheck f) s.issue.eff s
    (c.2.checkFaults c.1 ≠ [] → exec (.ld f) s = .next (addFaults c.2 ((c.2.checkFaults c.1).map (atWord s)))) ∧
    ((∀ x ∈ c.1, ∃ y, x.2 = .ok y ∧ y.cls ≠ .loc) →
      let u := if f.o = 3 then c.2.release (scopeOf f.x) else c.2
      let r := State.eachLane (State.afterCheck (State.laneLoad f) c.1) s.issue.eff u
      (∀ x ∈ r.1, ∃ v w, x.2 = .ok v w false) → ∃ t, exec (.ld f) s = .next (t.acquire (scopeOf f.x)) ∧
        LoadResult u t f.n f.d f.s.toNat (r.1.map (loadValue s)))) ∧
  (∀ (f : FmtM) s l, f.s.toNat ≤ 3 → f.o = 0 → s.issue.actor = some l → s.issue.scout = false →
    let r := loadOne f s l
    (∀ v w loc, r.1 = .ok v w loc → ∃ t, exec (.sld f) s = .next t ∧
      (∀ k, Tab.get 0 t.issue.cur.arch.sc k =
        if f.n ≠ 1 ∧ k = f.d.toNat % 64 then BitVec.ofNat 64 v else Tab.get 0 s.issue.cur.arch.sc k) ∧
      (∀ m j, j < 4 → Tab.find t.issue.cur.arch.lat (4 * m + j) =
        if 2 ≤ j ∧ m ∈ s.issue.eff then some ⟨BitVec.ofNat 64 v, 0⟩ else if 2 ≤ j ∧ m ∈ s.issue.lanes then none
        else Tab.find s.issue.cur.arch.lat (4 * m + j)) ∧
      t = withIssue r.2 fun e => { e with cur := { e.cur with seen := max s.issue.cur.seen w, arch := { e.cur.arch with
        sc := t.issue.cur.arch.sc, lat := t.issue.cur.arch.lat } } }) ∧
    (∀ x, r.1 = .bad x → exec (.sld f) s = .next (addFaults r.2 [atWord s x])))

/-- R155, R156, R234, R255, R265, R279: ST and SST check every fibre that stores; where a check fails only the faults are
added; a plain store that finds hold room joins the hold buffer in slot order, memory being as its checks left it (which
set A and D bits of page-table entries), and else it is tried again; a scout stores nothing. -/
def GlobalStores : Prop :=
  ∀ x ∈ globalStores, ∀ f s, f.s.toNat ≤ 4 →
    let r := storeChecks s f (x.2.2 s f) (x.2.1 s)
    (s.issue.scout = true → exec (x.1 f) s = .next s) ∧
    (s.issue.scout = false → r.2.1 ≠ [] → exec (x.1 f) s = .next (addFaults r.2.2 (r.2.1.map (atWord s)))) ∧
    (s.issue.scout = false → r.2.1 = [] → f.o = 0 →
      let n := 2 ^ f.s.toNat * r.1.length
      let room := r.2.2.hasRoom s.issue.core s.issue.blk s.issue.wv s.issue.cur n
      r.1.map (·.1) = x.2.1 s ∧
      (r.1 ≠ [] → room = false → exec (x.1 f) s = .next (withIssue r.2.2 fun e => { e with held := some (.room n) })) ∧
      (r.1 = [] ∨ room = true → ∃ t hs, exec (x.1 f) s = .next t ∧
        (hs.map fun h : Held => (h.va, h.pa, h.cls, h.data)) =
          (r.1.map fun y => (addr s f.g f.x f.e f.s.toNat y.1, y.2.pa, y.2.cls, x.2.2 s f y.1)) ∧
        t = withIssue r.2.2 fun e => { e with cur := { e.cur with sig := t.issue.cur.sig, held := e.cur.held ++ hs } }))

/-- R235, R246, R249, R250, R255, R262, R351: an ordered ST or SST whose checks succeed releases, then writes its bytes in slot
order; a .sc form then acquires. A store to a DEV or SYS line follows the core's committed stores to the same home slice and is
applied there at once: its bytes are in memory, and pts is at or beyond its ts. Where no committed store of the core is under
way to such a slice, every byte of memory reads as the last store, or as the release left it. A store to a LOCAL line goes into
the core's L1, where it orders its own wave only. -/
def GlobalStoresOrdered : Prop :=
  (∀ x ∈ globalStores, ∀ f s, f.s.toNat ≤ 4 → (f.o = 2 ∨ f.o = 3) → s.issue.scout = false → s.issue.on = true → s.iblk.primary = true →
    let r := storeChecks s f (x.2.2 s f) (x.2.1 s)
    r.2.1 = [] →
    (r.1 ≠ [] → (∀ y ∈ r.1, y.2.cls ≠ .loc) →
      let u := r.2.2.release (scopeOf f.x)
      ∃ t, exec (x.1 f) s = .next (if f.o = 3 then t.acquire (scopeOf f.x) else t) ∧
        (∃ ws : List (Nat × Trans × List Nat), ws.map (fun y => (y.1, y.2.1)) = r.1 ∧
          t = ws.foldl (fun v y => v.storeNow (addr s f.g f.x f.e f.s.toNat y.1) y.2.1 (x.2.2 s f y.1) y.2.2) u) ∧
        (∀ y ∈ r.1, (t.leaseOf y.2.pa).1 ≤ t.pts s.issue.core s.ipart) ∧
        ((∀ q ∈ (u.core s.issue.core).outbox, ∀ y ∈ r.1, sliceOf q.pa ≠ sliceOf y.2.pa) →
          (∀ a, t.mem.readByte a = (lastByte (r.1.map fun y => (y.2.pa, x.2.2 s f y.1)) a).getD (u.mem.readByte a)) ∧
          (∀ p, { t.part p with recWait := [] } = { u.part p with recWait := [] }) ∧
          t = { u with
            mem := t.mem, lease := t.lease, meta_ := t.meta_, e2eCnt := t.e2eCnt, noWay := t.noWay, tags := t.tags
            parts := t.parts, cores := t.cores })) ∧
    (∀ y, r.1 = [y] → y.2.cls = .loc →
      let v := ((r.2.2.clampScope (scopeOf f.x)).release 0).localNow
        ⟨s.ipart, addr s f.g f.x f.e f.s.toNat y.1, y.2.pa, .loc, x.2.2 s f y.1, s.issue.blk, s.issue.wv, false, []⟩ s.issue.core
      exec (x.1 f) s = .next (if f.o = 3 then v.acquire 0 else v))) ∧
  (∀ (v : State) va (tr : Trans) d ws, v.iblk.primary = true → tr.cls ≠ .loc →
    let w := v.catchUp v.issue.core tr.pa
    let t := v.storeNow va tr d ws
    t.mem = w.mem.write tr.pa d ∧ (d ≠ [] → (t.leaseOf tr.pa).1 ≤ t.pts v.issue.core v.ipart) ∧
    (∀ q ∈ (t.core v.issue.core).outbox, sliceOf q.pa ≠ sliceOf tr.pa) ∧ OnlyPend v t ∧
    (∀ p, { t.part p with recWait := [] } = { v.part p with recWait := [] })) ∧
  ∀ (s : State) (q : Req) c k l, (s.localNow q c).l1Find c q.part q.va = some (k, l) →
    Memory.read l.data (q.pa % 1024) q.data.length = q.data

/-- R249, R257, R258, R351: a WRITE step of a core at a home follows the core's committed stores to the same home slice:
where the tag is new there, the old bytes give the value and are replaced by the function's result at ts, which in each
line touched is pts or more and later than every lease of that line, the answer being the last; a second copy of the
request changes nothing and gets the same answer. A core's plain WRITE takes the next tag of its source toward the slice
too, and a place in the window there. -/
def HomeAtomics : Prop :=
  (∀ (s : State) src part ord scope fn z pa d d2 p, fn < 32 → z ≤ 3 → pa < 2 ^ 52 → d < 2 ^ 64 → d2 < 2 ^ 64 → p < 2 ^ 47 →
    src < 2 ^ 12 →
    let u := (s.cross (s.coreDie src) (homeDie pa)).catchUp src pa
    (∀ k, (Tab.get (0, 0) u.lease k).2 < 2 ^ 47) →
    (∀ w ∈ (u.tags.get {} (State.tagKey src (sliceOf pa))).window, w.tag ≠ (u.tags.get {} (State.tagKey src (sliceOf pa))).next % 65536) →
    let q := s.request src part ord scope fn z pa d d2 p
    let r := rmwApply fn z (u.mem.read pa (rmwSpan fn z).1) d (if fn = 1 then d2 else 0)
    let ks := State.linesOf pa (rmwSpan fn z).1
    let ts := fun k => max p ((Tab.get (0, 0) u.lease k).2 + 1)
    q.1 = r.v % 2 ^ 64 ∧ q.2.1 = (ks.map ts).foldl max p ∧ q.2.2.1 = r.fl ∧ q.2.2.2.mem = u.mem.write pa r.data ∧
    ∀ k ∈ ks, Tab.get (0, 0) q.2.2.2.lease k = (ts k, ts k)) ∧
  (∀ (s : State) c part pa data, 1 ≤ data.length → pa % 1024 + data.length ≤ 1024 →
    let key := State.tagKey c (sliceOf pa)
    let q := s.coreStore c part pa data
    (q.2.tags.get {} key).next = ((s.tags.get {} key).next + 1) % 65536 ∧
    (q.2.tags.get {} key).window.getLast? = some ⟨(s.tags.get {} key).next, [], q.1, part⟩) ∧
  ∀ (s : State) m, (s.homeAtomOf m.src.toNat m).2.2.homeAtomOf m.src.toNat m =
    ((s.homeAtomOf m.src.toNat m).1, 0, (s.homeAtomOf m.src.toNat m).2.2)

/-- R244, R245, R250, R260: what FENCE does: a release at scope .gang or wider leaves no committed store of the wave on
its way and raises pts to PEND; an acquire raises pts to SEEN, which starts again at 0; .sc does both. -/
def Fences : Prop :=
  (∀ (f : FmtFen) s, s.issue.actor = none → exec (.fence f) s = .next s) ∧
  (∀ (f : FmtFen) s, s.issue.actor ≠ none → exec (.fence f) s = .next (
    if f.k = 0 then s.acquire f.s.toNat else if f.k = 1 then s.release f.s.toNat
    else (s.release f.s.toNat).acquire f.s.toNat)) ∧
  (∀ (s : State) sc, s.issue.on = true → 2 ≤ sc → sc ≤ 5 →
    let t := s.release sc
    ownStores t s.issue.core s.issue.blk s.issue.wv = s.issue.cur.held.map (fun h => (h.pa, h.data)) ∧
    t.issue.cur.pend ≤ t.pts s.issue.core s.ipart ∧ s.pts s.issue.core s.ipart ≤ t.pts s.issue.core s.ipart) ∧
  ∀ (s : State) sc, s.issue.on = true → 2 ≤ sc → sc ≤ 5 →
    let t := s.acquire sc
    t.pts s.issue.core s.ipart = max (s.pts s.issue.core s.ipart) s.issue.cur.seen ∧ t.issue.cur.seen = 0 ∧
    t = { s with cores := t.cores, issue := t.issue }

/-- R241, R242, R243, R261: after CFLUSH no sector of its range is dirty in the core's L1; after CINV the L1 holds no copy
of a line with a sector in the range; PREF changes no register and counts a fault in PF_DROP; TLBQ writes its word to s(B)
and changes nothing else, but that it waits for a link on its way to the tables. -/
def CacheWords : Prop :=
  (∀ (f : FmtAb) s, s.issue.actor = none →
    exec (.cflush f) s = .next s ∧ exec (.cinv f) s = .next s ∧ exec (.tlbq f) s = .next s) ∧
  (∀ (f : FmtAb) s, s.issue.actor ≠ none → s.issue.on = true →
    let a := (ns s f.a).toNat
    let n := (ns s f.b).toNat % 2 ^ 32
    let meets := fun va => n = 0 ∨ (a / 128 * 128 ≤ va ∧ va < (a + n + 127) / 128 * 128)
    (∃ t, exec (.cflush f) s = .next t ∧
      ∀ x ∈ (t.core s.issue.core).lines, ∀ va pa cls w r d, x.2.st = .copy s.ipart va pa cls w r d →
        cls = .loc → ∀ j ∈ d, j < 8 → ¬meets (va + 128 * j)) ∧
    (∃ t, exec (.cinv f) s = .next t ∧
      ∀ x ∈ (t.core s.issue.core).lines, ∀ va pa cls w r d, x.2.st = .copy s.ipart va pa cls w r d →
        ∀ j < 8, ¬meets (va + 128 * j))) ∧
  (∀ (f : FmtAb) s, ∃ t, exec (.pref f) s = .next t ∧ OnlyPend s t ∧
    ∀ l u x, s.issue.eff = [l] →
      s.translate s.issue.core s.ipart { Access.load with demand := false } (n64 s f.a l).toNat = (.error x, u) →
      t = u.onCore s.issue.core fun k => { k with pfDrop := k.pfDrop + 1 }) ∧
  ∀ (f : FmtAb) s, s.issue.actor ≠ none → ∃ u, u = { s with noWay := u.noWay } ∧
    exec (.tlbq f) s = .next (withIssue u fun e => withArch e { e.cur.arch with
      sc := e.cur.arch.sc.set 0 (f.b.toNat % 64) (BitVec.ofNat 64 (s.tlbqWord e.core s.ipart (ns s f.a).toNat)) })

/-- R236, R238: LDBK loads, in each fibre in which it takes effect, the bytes of the block whose address in its page is the
fibre's address: block b of a format of N blocks of E bytes lies at E·b and its scale at E·N + b; they go to v(D) and
the registers that follow. -/
def BlockLoads : Prop :=
  (∀ (f : FmtLk) s, exec (.ldbk f) s = .next (s.issue.eff.foldl (fun u l =>
    let r := State.blockLoad f u l
    let put := fun v => withIssue v fun e => withArch e (r.1.zipIdx.foldl (fun a y => a.writeV l (f.d.toNat + y.2) y.1) e.cur.arch)
    match r.2.1 with
    | none => (put r.2.2.2).see r.2.2.1
    | some x => if l ∈ r.2.2.2.issue.live then r.2.2.2.raise [x] else put r.2.2.2) s)) ∧
  ∀ (f : FmtLk) (s : State) l t u, s.issue.scout = false →
    let a := addr s f.g f.x f.e 0 l
    s.reach { Access.load with fmt := [2, 3] } 1 l a (baseOf s f.g l).toNat 0 = (.ok t, u) →
    ∀ x ∈ [(2, 5024, 12), (3, 2608, 24)], t.fmt = x.1 → a % 65536 < x.2.1 → (x.1 = 3 → f.d.toNat + 6 < s.iblk.w) →
      let page := a / 65536 * 65536
      let ws := u.loadWords (page + x.2.2 * (a % 65536)) (t.pa - a % 65536 + x.2.2 * (a % 65536)) t.cls t.fmt (x.2.2 / 4)
      let q := ws.2.2.2.loadBytes s.issue.core s.ipart s.issue.blk s.issue.wv (page + x.2.1 * x.2.2 + a % 65536)
        (t.pa - a % 65536 + x.2.1 * x.2.2 + a % 65536) t.cls 1 t.fmt
      ws.2.2.1 = false → q.1.poison = false →
      (State.blockLoad f s l).1 = ((List.range (x.2.2 / 4)).map fun i => ofBytes ((ws.1.drop (4 * i)).take 4)) ++ [ofBytes q.1.data] ∧
      (State.blockLoad f s l).2.1 = none

/-- R197, R198, R200, R201: the words on a transaction barrier: the checks of its address and of its initialisation, then,
after the release, what BINIT, BEXP and BARV make of the barrier; BINIT of a count out of range, of a barrier on which a wave
waits, that a copy names or that has bytes pending, and BARV of a count out of range, raise BARRIER. -/
def TransactionBarrierUpdates : Prop :=
  (∀ x ∈ barrierWords, ∀ f s,
    let ea := (ns s f.a).toNat
    let n := if x.2.1 then ns s f.b else 0
    (s.issue.actor = none → exec (x.1 f) s = .next s) ∧
    ∀ l, s.issue.actor = some l →
      (ea % 16 ≠ 0 → exec (x.1 f) s = .next (addFaults s [memberFault s .alignment l ea (ns s f.a) n])) ∧
      (ea % 16 = 0 → s.spaceHas s.issue.blk 0 ea = false →
        exec (x.1 f) s = .next (addFaults s [memberFault s .space l ea (ns s f.a) n])) ∧
      (ea % 16 = 0 → s.spaceHas s.issue.blk 0 ea = true → x.2.2 = true →
        ((s.tbar s.issue.blk ea).expect = 0 ∨ (s.tbar s.issue.blk ea).rsv ≠ 0) →
        exec (x.1 f) s = .next (addFaults s [memberFault s .barrier l ea (ns s f.a) n]))) ∧
  ∀ (f : FmtAb) s, s.issue.actor ≠ none →
    let b := s.issue.blk
    let ea := (ns s f.a).toNat
    let n := (ns s f.b).toNat % 2 ^ 32
    let t := s.tbar b ea
    let u := s.release 1
    ea % 16 = 0 → s.spaceHas b 0 ea = true →
      (u.barWaited b ea = false → u.copyNames b ea = false → t.pending = 0 → 1 ≤ n → n < 2 ^ 16 →
        exec (.binit f) s = .next (u.setTbar b ea { remain := n, expect := n })) ∧
      (∀ l, s.issue.actor = some l →
        (u.barWaited b ea = true ∨ u.copyNames b ea = true ∨ t.pending ≠ 0 ∨ n = 0 ∨ 2 ^ 16 ≤ n) →
        exec (.binit f) s = .next (addFaults s [memberFault s .barrier l ea (ns s f.a) (ns s f.b)])) ∧
      (∀ l, s.issue.actor = some l → t.expect ≠ 0 → t.rsv = 0 → (n = 0 ∨ 2 ^ 16 ≤ n) →
        exec (.barv f) s = .next (addFaults s [memberFault s .barrier l ea (ns s f.a) (ns s f.b)])) ∧
      (t.expect ≠ 0 → t.rsv = 0 →
        exec (.bexp f) s = .next (if t.inv then u else u.setTbar b ea { t with
          pending := (t.pending + n) % 2 ^ 32
          err := t.err || decide ((2 : Int) ^ 31 ≤ (BitVec.ofNat 32 t.pending).toInt + n) }) ∧
        (1 ≤ n → n < 2 ^ 16 → exec (.barv f) s = .next (if t.inv then u else
          (u.setTbar b ea { t with remain := t.remain - n, err := t.err || decide (t.remain < n) }).checkDone b ea)))

/-- R27, R197, R201: BTRY answers whether the phase has ended without error; BWAIT answers so at once when it has ended or the
barrier is invalid, and else waits. BINV makes the barrier invalid, detaches every copy in flight that names it (a multicast of
the gang in this block, R183), ends every wait on it and fills every ring slot published on it. -/
def TransactionBarrierWaits : Prop :=
  (∀ (f : FmtAbx) s, s.issue.actor ≠ none →
    let ea := (ns s f.a).toNat
    let t := s.tbar s.issue.blk ea
    let q := (ns s f.b).getLsbD 0
    let u := s.release 1
    ea % 16 = 0 → s.spaceHas s.issue.blk 0 ea = true → t.expect ≠ 0 → t.rsv = 0 →
      (∃ v, exec (.btry f) s = .next v ∧ PResult u v (pdField f.x) fun _ => t.phase != q && !(t.err || t.inv)) ∧
      (t.phase = q → t.inv = false → exec (.bwait f) s = .next (waiting u (.bwait ea q (pdField f.x)))) ∧
      ((t.phase ≠ q ∨ t.inv = true) → ∃ v, exec (.bwait f) s = .next v ∧
        PResult u v (pdField f.x) fun _ => !(t.err || t.inv))) ∧
  ∀ (f : FmtAb) s k, Issuing s k → s.issue.actor ≠ none →
    let b := s.issue.blk
    let ea := (ns s f.a).toNat
    let t := s.tbar b ea
    ea % 16 = 0 → s.spaceHas b 0 ea = true → (s.release 1).spaceHas b 0 ea = true → t.expect ≠ 0 → t.rsv = 0 → t.inv = false →
    ∃ v, exec (.binv f) s = .next v ∧ v.tbar b ea = { t with inv := true } ∧
      (∀ c ∈ (v.core k.core).copies, c.2.blk = b → c.2.inFlight = true → c.2.tbar? = some (ea / 16) → c.2.detached = true) ∧
      (∀ y ∈ v.cores, ∀ c ∈ y.2.copies, c.2.blk ≠ b → c.2.fn = 2 → c.2.inFlight = true → c.2.tbar? = some (ea / 16) →
        b ∈ v.gangOf c.2.blk → b ∈ c.2.detIn) ∧
      (∀ i w, v.wave? b i = some w → ∀ x ∈ w.waits, ∀ q pd, x.kind = .bwait ea q pd → x.woken ≠ none) ∧
      ∀ r ∈ (v.blk b).rings, ∀ x ∈ r.st, ∀ p, x.2 ≠ .pubw (ea / 16) p

/-- R197, R201: where a plain STS stores to the bytes of a barrier, every BWAIT on it for whose phase the new contents no longer
stand, or that finds it invalid, has been woken. -/
def StoresWakeWaiters : Prop :=
  ∀ (f : FmtMs) s k, Issuing s k → f.s.toNat ≤ 4 → f.o = 0 → s.issue.scout = false →
    s.shadowRoom s.issue.core s.issue.effLive.length s.issue.cur = true →
    let a := addr s f.g f.x f.e f.s.toNat
    (∀ l ∈ s.issue.effLive, spaceFault s 0 (a l) (2 ^ f.s.toNat) false = none) → ∃ t, exec (.sts f) s = .next t ∧
      ∀ i w, t.wave? s.issue.blk i = some w → ∀ x ∈ w.waits, ∀ ea q pd, x.kind = .bwait ea q pd → ea % 16 = 0 →
        (∃ l ∈ s.issue.effLive, a l / 16 = ea / 16) →
        ((t.tbar s.issue.blk ea).phase ≠ q ∨ (t.tbar s.issue.blk ea).inv = true) → x.woken ≠ none

/-- R41, R178, R179, R193: a copy start whose role, layout words and barrier are right takes the lowest free slot of its core
for a queued copy that holds its operands, answers the handle in l2, and joins the open batch of its class; without a free
slot it is tried again; a role that may not start it raises ROLE. -/
def CopyStarts : Prop :=
  ∀ x ∈ copyStarts, ∀ (f : FmtAbx) s l, s.issue.actor = some l →
    let a := scalarsAt s f.a x.2.2.2.1
    let b := scalarsAt s f.b x.2.2.2.2
    let core := s.issue.core
    let bar := 16 * (f.x.p.extractLsb' 0 16).toNat
    (s.issue.cur.role ∉ x.2.2.1 →
      exec (x.1 f) s = .next (addFaults s [memberFault s .role l 0 (a.getD 0 0) (b.getD 0 0)])) ∧
    (∀ c, s.issue.cur.role ∈ x.2.2.1 → State.plwCheck x.2.1 (startPlws x.2.1 a b) = some c →
      exec (x.1 f) s = .next (addFaults s [memberFault s c l 0 (a.getD 0 0) (b.getD 0 0)])) ∧
    (s.issue.cur.role ∈ x.2.2.1 → State.plwCheck x.2.1 (startPlws x.2.1 a b) = none →
      (f.x.p.getLsbD 20 = false → s.spaceHas s.issue.blk 0 bar = false →
        exec (x.1 f) s = .next (addFaults s [memberFault s .space l bar (a.getD 0 0) (b.getD 0 0)])) ∧
      ((f.x.p.getLsbD 20 = true ∨ s.spaceHas s.issue.blk 0 bar = true) →
        let u := s.release 1
        let n := match s.issue.cur.hold with
          | some (.slot m) => m
          | _ => s.nextOrder
        (∀ slot, u.startsBefore core n = 0 → u.freeSlot core = some slot →
          let id := (s.core core).starts
          ∃ t c, exec (x.1 f) s = .next t ∧ copyAt t core slot = some c ∧ (∀ k, k ≠ slot → copyAt t core k = copyAt u core k) ∧
            c.seq = id ∧ c.blk = s.issue.blk ∧ c.wave = s.issue.wv ∧ c.part = s.ipart ∧ c.st = .queued ∧ c.fn = x.2.1 ∧
            c.a = a ∧ c.b = b ∧ c.ext = f.x.p ∧ c.cls = (f.x.p.extractLsb' 16 2).toNat ∧ c.lane = l ∧ c.pc = s.issue.pc ∧
            c.word = s.issue.word ∧ LatchIs s t 2 (id % 2 ^ 26 * 64 + slot) ∧
            (Wave.batch t.issue.cur c.cls).opened = (Wave.batch s.issue.cur c.cls).opened ++ [id] ∧
            t.mem = u.mem ∧ t.blocks = u.blocks) ∧
        ((u.startsBefore core n ≠ 0 ∨ u.freeSlot core = none) → ∃ t, exec (x.1 f) s = .next t ∧
          t.issue = { u.issue with held := some (.slot n) } ∧ t.cores = u.cores ∧ t.mem = u.mem)))

/-- R188, R193, R194: CPYQ answers a copy's state and accounted bytes by its handle, or 0; SEAL closes the open batch of a
class, the 64th unfinished one waiting; WAITB goes on, with an acquire at .block, when at most its number of sealed batches of
its class are unfinished; DRAIN when no copy in flight of the block writes the space that it names. -/
def CopyQueries : Prop :=
  (∀ (f : FmtAb) s, s.issue.actor ≠ none →
    let h := ns s f.a
    let c := copyAt s s.issue.core (h.toNat % 64)
    let named := ∃ x, c = some x ∧ x.seq % 2 ^ 26 = h.toNat / 64 % 2 ^ 26
    ∃ t v, exec (.cpyq f) s = .next t ∧ LatchIs s t 2 v ∧
      (∀ x, c = some x → x.seq % 2 ^ 26 = h.toNat / 64 % 2 ^ 26 → v = x.bytes % 2 ^ 32 + 2 ^ 32 * x.st.code +
        (if x.failedDst = [] then 0 else 2 ^ 39) + (if x.poison then 2 ^ 40 else 0) + (if x.rowDropped then 2 ^ 41 else 0)) ∧
      (¬named → v = 0) ∧
      t = withIssue s fun e => withArch e { e.cur.arch with
        lat := t.issue.cur.arch.lat, sc := e.cur.arch.sc.set 0 (f.b.toNat % 64) (BitVec.ofNat 64 v) }) ∧
  (∀ (f : FmtAb) s, s.issue.actor ≠ none →
    let k := f.b.toNat % 4
    let b := Wave.batch s.issue.cur k
    (b.sealed.length < 63 → ∃ t, exec (.seal f) s = .next t ∧
      t = (withIssue s fun e => { e with cur := { e.cur with batches := t.issue.cur.batches } }) ∧
      (∀ j, j < 4 → j ≠ k → Wave.batch t.issue.cur j = Wave.batch s.issue.cur j) ∧
      (Wave.batch t.issue.cur k).opened = [] ∧ (Wave.batch t.issue.cur k).seq = b.seq + 1 ∧
      (b.opened ≠ [] → b.sealed.head? ≠ some [] → (Wave.batch t.issue.cur k).sealed = b.sealed ++ [b.opened])) ∧
    (63 ≤ b.sealed.length → exec (.seal f) s = .next (withIssue s fun e => { e with held := some (.seal k) }))) ∧
  (∀ (f : FmtAb) s, s.issue.actor ≠ none →
    let k := f.b.toNat % 4
    exec (.waitb f) s = .next (if (Wave.batch s.issue.cur k).sealed.length ≤ f.a.toNat then s.acquire 1
      else waiting s (.waitb k f.a.toNat))) ∧
  ∀ (f : FmtAb) s, s.issue.actor ≠ none →
    let k := f.b.toNat % 4
    let mine := fun c : Copy => c.blk = s.issue.blk ∧ c.inFlight = true ∧ c.writesTo k = true
    ((∀ c ∈ (s.core s.iblk.core).copies, ¬mine c.2) → exec (.drain f) s = .next (s.acquire 1)) ∧
    ((∃ c ∈ (s.core s.iblk.core).copies, mine c.2) →
      ∃ ids, exec (.drain f) s = .next (waiting s (.drain k ids)) ∧
        ∀ i, i ∈ ids ↔ ∃ c ∈ (s.core s.iblk.core).copies, mine c.2 ∧ c.2.seq = i)

/-- R214 to R216: MSTART starts the block's IDLE sequencer on the stream at its first source with its second in m0, after a
release at .block; it raises BARRIER where the block declares no matrix use or the sequencer is not IDLE. MQRY answers the
sequencer's state, the barrier it waits for, its busy tiles, SP and WPOS. -/
def MatrixMembers : Prop :=
  (∀ (f : FmtAb) s l, s.issue.actor = some l →
    let q := s.iblk.seqr
    ((q.use = false ∨ q.st ≠ .idle) → exec (.mstart f) s = .next (addFaults s [memberFault s .barrier l 0 (ns s f.a) (ns s f.b)])) ∧
    (q.use = true → q.st = .idle → exec (.mstart f) s = .next ((s.release 1).onBlk s.issue.blk fun k => { k with seqr := { k.seqr with
      sa := ns s f.a, wpos := 0, m := Tab.set 0 [] 0 (ns s f.b), flagWave := s.issue.wv, st := .running, woken := false } }))) ∧
  ∀ (f : FmtAb) s, s.issue.actor ≠ none →
    let q := s.iblk.seqr
    let st : Nat := match q.st with
      | .idle => 0
      | .running => 1
      | .waiting _ => 2
      | .faulted => 3
    let nb : Nat := match q.st with
      | .waiting k => k
      | _ => 0
    let busy : Nat := (match q.mma with
      | some o => 2 ^ o.tile
      | none => 0) ||| match q.epi with
      | some o => 2 ^ o.tile
      | none => 0
    exec (.mqry f) s = .next (answerS s f.b (st * 2 ^ 62 + nb * 2 ^ 56 + busy * 2 ^ 52 + q.sp.toNat * 2 ^ 32 + q.wpos.toNat))

/-- R202, R222, R223: the stream words of control: each moves WPOS to the next word, or by its offset; MSET, MADD and MLOOP
write an m register; MWAIT waits while the barrier's phase equals its parity and else flips that; MSIG arrives and MHALT ends
the stream once nothing is under way; a barrier that is not declared is a fault of class BARRIER. -/
def MatrixControlWords : Prop :=
  ∀ s k, s.blk? s.sq = some k →
    let q := k.seqr
    let quiet := q.mma = none ∧ q.epi = none
    let m := fun r : BitVec 4 => Tab.get 0 q.m r.toNat
    exec .mnop s = .next (seqStep s 1 id) ∧
    (∀ r imm, exec (.mset r 0 imm) s = .next (seqStep s 1 fun x => { x with m := x.m.set 0 r.toNat (imm.setWidth 64) })) ∧
    (∀ r sel imm, sel ≠ 0 → exec (.mset r sel imm) s = .next (seqStep s 1 fun x =>
      { x with m := x.m.set 0 r.toNat (imm.extractLsb' 0 16 ++ (m r).extractLsb' 0 48) })) ∧
    (∀ d r sh imm, exec (.madd d r sh imm) s = .next (seqStep s 1 fun x =>
      { x with m := x.m.set 0 d.toNat (m r + imm.signExtend 64 <<< sh.toNat) })) ∧
    (∀ r off, exec (.mloop r off) s = .next (seqStep s (if m r = 1 then 1 else off.signExtend 32) fun x =>
      { x with m := x.m.set 0 r.toNat (m r - 1) })) ∧
    (∀ off, exec (.mjmp off) s = .next (seqStep s (off.signExtend 32) id)) ∧
    (∀ nb : BitVec 4, (k.nb.getD nb.toNat {}).expect = 0 →
      (∃ t, exec (.mwait nb) s = .next t ∧ SeqFaulted s t .barrier) ∧
      (quiet → ∃ t, exec (.msig nb) s = .next t ∧ SeqFaulted s t .barrier)) ∧
    (∀ nb : BitVec 4, (k.nb.getD nb.toNat {}).expect ≠ 0 →
      ((k.nb.getD nb.toNat {}).phase ≠ q.sp.getLsbD nb.toNat →
        exec (.mwait nb) s = .next (seqStep s 1 fun x => { x with sp := x.sp ^^^ (1#16 <<< nb.toNat) })) ∧
      ((k.nb.getD nb.toNat {}).phase = q.sp.getLsbD nb.toNat → s.allEnded s.sq = false →
        exec (.mwait nb) s = .next (seqStep s 0 fun x => { x with st := .waiting nb.toNat, woken := false })) ∧
      (quiet → exec (.msig nb) s = .next ((seqStep s 1 id).nbArrive s.sq nb.toNat))) ∧
    (quiet → exec .mhalt s = .next (seqStep s 1 fun x => { x with st := .idle })) ∧
    (¬quiet → exec .mhalt s = .next s ∧ ∀ nb, exec (.msig nb) s = .next s)

/-- R212, R214, R217, R220, R224: MMA, MMAC, MCLR and EPI begin when their unit is free and nothing under way meets their
tile or bytes, with their descriptors captured; MMAC and MCLR clear their tile and set its binary point; their WPOS is
kept for a fault record; else they stay where they are, or fault. -/
def MatrixOperationsBegin : Prop :=
  ∀ s k, s.blk? s.sq = some k →
    let m := fun r : BitVec 4 => Tab.get 0 k.seqr.m r.toNat
    let clear := fun (t : Nat) (q : BitVec 10) => s.onBlk s.sq fun k => { k with
      tiles := k.tiles.modify t fun x => { x with a := [], rinv := 0, cinv := 0, q := q } }
    let begin_ := fun (v : State) (w da dw : B64) => seqStep v 1 fun x => { x with mma := some ⟨w, da, dw, 0, x.wpos⟩ }
    (∀ (f : MmFields) (c : Bool), let i := if c then Instr.mmac f else .mma f
      let free := s.mmFree s.sq f.tile.toNat (f.aRanges (m f.areg) 0)
      (free = false → exec i s = .next s) ∧
      (∀ e, free = true → s.mmFault s.sq f (m f.areg) (m f.wreg) = some e → ∃ t, exec i s = .next t ∧ SeqFaulted s t e) ∧
      (free = true → s.mmFault s.sq f (m f.areg) (m f.wreg) = none → exec i s = .next (begin_
        (if c = true ∧ f.m ≠ 0 ∧ f.n8 ≠ 0 then clear f.tile.toNat f.q else s) i.streamWord (m f.areg) (m f.wreg)))) ∧
    (∀ f : MclrFields,
      (s.mmFree s.sq f.tile.toNat [] = false → exec (.mclr f) s = .next s) ∧
      (s.mmFree s.sq f.tile.toNat [] = true → (f.sigen = 0 ∨ (k.nb.getD f.nb.toNat {}).expect ≠ 0) →
        exec (.mclr f) s = .next (begin_ (clear f.tile.toNat f.q) (Instr.mclr f).streamWord 0 0))) ∧
    ∀ f : EpiFields,
      (s.epiFree s.sq f.tile.toNat (f.outRanges (m f.oreg)) = false → exec (.epi f) s = .next s) ∧
      (∀ e, s.epiFree s.sq f.tile.toNat (f.outRanges (m f.oreg)) = true → s.epiFault s.sq f (m f.oreg) (m f.preg) = some e →
        ∃ t, exec (.epi f) s = .next t ∧ SeqFaulted s t e) ∧
      (s.epiFree s.sq f.tile.toNat (f.outRanges (m f.oreg)) = true → s.epiFault s.sq f (m f.oreg) (m f.preg) = none →
        exec (.epi f) s = .next (seqStep s 1 fun x => { x with epi := some ⟨(Instr.epi f).streamWord, m f.oreg, m f.preg, 0, x.wpos⟩ }))

end Sys2Proof.Claims

open Sys2Proof Sys2Proof.Machine Sys2Proof.Claims

/-- The integer words of two, one and three sources and the 64-bit ones: each goes on to the state that has its result and is
otherwise unchanged. -/
def Obligations.IntegerWords : Prop :=
  Claims.IntegerTwoSource ∧ Claims.IntegerOneSource ∧ Claims.IntegerThreeSource ∧ Claims.Integer64

/-- R84, R89, R91, R130: the compares and the predicate words write the named predicate of each fibre in which they take
effect, and nothing else. COND[3] of ICMP, NCMP and SCMP selects 64-bit operands. -/
def Obligations.ComparesAndPredicates : Prop :=
  (∀ x ∈ ([(true, Instr.icmp), (false, Instr.ncmp)] : List (Bool × (FmtC → Instr))), ∀ f s, ∃ t, exec (x.2 f) s = .next t ∧
    PResult s t f.p.toNat fun l =>
      if f.k.getLsbD 3 then testBits x.1 (f.k.toNat % 8) (n64 s f.a l) (n64 s f.b l)
      else testBits x.1 (f.k.toNat % 8) (n32 s f.a l) (n32 s f.b l)) ∧
  (∀ (f : FmtC) s, ∃ t, exec (.scmp f) s = .next t ∧
    PResult s t f.p.toNat fun _ =>
      if f.k.getLsbD 3 then scalarTest (f.k.toNat % 8) (ns s f.a) (ns s f.b)
      else scalarTest (f.k.toNat % 8) ((ns s f.a).setWidth 32) ((ns s f.b).setWidth 32)) ∧
  (∀ (f : FmtC) s, ∃ t, exec (.fcmp f) s = .next t ∧
    PResult s t f.p.toNat fun l => f32.test f.k.toNat (s.issue.f32 f.a l) (s.issue.f32 f.b l)) ∧
  (∀ (f : FmtC) s, ∃ t, exec (.dcmp f) s = .next t ∧
    PResult s t f.p.toNat fun l =>
      f64.test f.k.toNat (src64 (.flt f64) s.issue.old l f.a) (src64 (.flt f64) s.issue.old l f.b)) ∧
  (∀ x ∈ ([(.pand, fun a b => a && b), (.por, fun a b => a || b), (.pxor, fun a b => a ^^ b)] :
      List ((FmtP → Instr) × (Bool → Bool → Bool))), ∀ f s, ∃ t, exec (x.1 f) s = .next t ∧
    PResult s t f.p.toNat fun l =>
      x.2 (s.issue.old.readP l f.q.toNat ^^ f.i == 1) (s.issue.old.readP l f.r.toNat ^^ f.j == 1)) ∧
  ∀ x ∈ ([(true, Instr.pnot), (false, Instr.pmov)] : List (Bool × (FmtP1 → Instr))), ∀ f s, ∃ t, exec (x.2 f) s = .next t ∧
    PResult s t f.p.toNat fun l => x.1 ^^ (s.issue.old.readP l f.q.toNat ^^ f.i == 1)

/-- Moves, immediates and selects, and the scalar words. -/
def Obligations.MovesSelectsAndScalars : Prop :=
  Claims.MoveImmediateAndSelect ∧ Claims.ScalarWords

/-- R62, R63, R77: what a source field names. 0x00–0x7F is a vector register of the fibre's window, 0x80–0xBF a scalar,
0xC0–0xC3 a latch entry, 0xE0–0xFF the integer −16 to +15 (or, read as F32, the table of R63); an S-pipe word reads a vector
register zero-extended. -/
def Obligations.SourceFields : Prop :=
  ∀ (a : Arch) (l : Nat) (b : Byte), let x := b.toNat
    let k := (a.fibre l).wb + x
    (x < 0x80 → src32 .int a l b = (Tab.get 0 a.v k).toNat ∧ ssrc a l b = (Tab.get 0 a.v k).toNat ∧
      src64 .int a l b = (Tab.get 0 a.v (k + 1) ++ Tab.get 0 a.v k).toNat) ∧
    (0x80 ≤ x ∧ x < 0xC0 → let v : B64 := Tab.get 0 a.sc (x - 0x80)
      src64 .int a l b = v.toNat ∧ ssrc a l b = v.toNat ∧ src32 .int a l b = (v.setWidth 32).toNat) ∧
    (0xC0 ≤ x ∧ x < 0xC4 → ∀ e, Tab.find a.lat (4 * l + (x - 0xC0)) = some e →
      src64 .int a l b = e.v.toNat ∧ ssrc a l b = e.v.toNat ∧ src32 .int a l b = (e.v.setWidth 32).toNat) ∧
    (0xE0 ≤ x →
      src32 .int a l b = (BitVec.ofInt 32 ((x : Int) - 0xF0)).toNat ∧
      src64 .int a l b = (BitVec.ofInt 64 ((x : Int) - 0xF0)).toNat ∧ ssrc a l b = (BitVec.ofInt 64 ((x : Int) - 0xF0)).toNat ∧
      src32 (.flt f32) a l b =
        [0x00000000, 0x3F800000, 0x40000000, 0x40800000, 0x41000000, 0x41800000, 0x3F000000, 0x3E800000,
         0x3E000000, 0xBF800000, 0xC0000000, 0xBF000000, 0x40400000, 0x41200000, 0x42FE0000, 0x437F0000,
         0x40490FDB, 0x40C90FDB, 0x3EA2F983, 0x402DF854, 0x3F317218, 0x3FB8AA3B, 0x3FB504F3, 0x3F3504F3,
         0x7F800000, 0xFF800000, 0x7FC00000, 0x7F7FFFFF, 0x00800000, 0x33800000, 0x3EAAAAAB, 0x40C00000].getD (x - 0xE0) 0)

/-- R127: FABS (0x42) clears bit 31 and FNEG (0x43) inverts it; a NaN operand gives the canonical NaN 0x7FC00000; no flag is
set. -/
def Obligations.AbsoluteAndNegate : Prop :=
  (∀ f : FmtA1, (Instr.fabs f).word.extractLsb' 24 7 = 0x42#7 ∧ (Instr.fneg f).word.extractLsb' 24 7 = 0x43#7) ∧
  ∀ x ∈ ([(.fabs, fun a => a &&& 0x7FFFFFFF#32), (.fneg, fun a => a ^^^ 0x80000000#32)] :
      List ((FmtA1 → Instr) × (B32 → B32))), ∀ f s, ∃ t, exec (x.1 f) s = .next t ∧
    VResult s t f.n f.d 1 0 (fun l =>
      let a : B32 := BitVec.ofNat 32 (fs s f.a l)
      if 0x7F800000#32 < a &&& 0x7FFFFFFF#32 then 0x7FC00000 else (x.2 a).setWidth 64) fun _ => 0

/-- R126: FMIN (0x40) and FMAX (0x41) take no EXT and set no flag; each returns one operand bit for bit: the canonical NaN of
two NaNs, the other operand of one NaN, −0 or +0 of two zeros of either sign, and otherwise the lesser or the greater, by the
order of the values that the F32 encoding of R99 gives. -/
def Obligations.MinimumAndMaximum : Prop :=
  (∀ f : FmtA, (Instr.fmin f).word.extractLsb' 24 7 = 0x40#7 ∧ (Instr.fmax f).word.extractLsb' 24 7 = 0x41#7 ∧
    (Instr.fmin f).ext = none ∧ (Instr.fmax f).ext = none) ∧
  ∀ x ∈ ([(Instr.fmin, false), (Instr.fmax, true)] : List ((FmtA → Instr) × Bool)), ∀ f s, ∃ t, exec (x.1 f) s = .next t ∧
    VResult s t f.n f.d 1 0 (fun l =>
      let a : B32 := BitVec.ofNat 32 (fs s f.a l)
      let b : B32 := BitVec.ofNat 32 (fs s f.b l)
      let nan : B32 → Bool := fun v => decide (0x7F800000#32 < v &&& 0x7FFFFFFF#32)
      let value : B32 → Int := fun v => if v.getLsbD 31 then -((v &&& 0x7FFFFFFF#32).toNat : Int) else (v.toNat : Int)
      let r : B32 :=
        if nan a ∧ nan b then 0x7FC00000
        else if nan a then b
        else if nan b then a
        else if value a = 0 ∧ value b = 0 ∧ a ≠ b then (if x.2 then 0 else 0x80000000)
        else if value a ≤ value b then (if x.2 then b else a)
        else if x.2 then a else b
      r.setWidth 64) fun _ => 0

/-- R128: FCLASS (0x45) writes a mask with exactly the bit of the operand's class set, by the F32 encoding of R99. -/
def Obligations.Classify : Prop :=
  (∀ f : FmtA1, (Instr.fclass f).word.extractLsb' 24 7 = 0x45#7) ∧
  ∀ (f : FmtA1) s, ∃ t, exec (.fclass f) s = .next t ∧
    VResult s t f.n f.d 1 0 (fun l =>
      let a : B32 := BitVec.ofNat 32 (fs s f.a l)
      let neg := a.getLsbD 31
      let e := a.extractLsb' 23 8
      let m := a.extractLsb' 0 23
      let bit : Nat :=
        if e = 255 then (if m ≠ 0 then 8 else if neg then 0 else 7)
        else if e = 0 then (if m = 0 then (if neg then 3 else 4) else if neg then 2 else 5)
        else if neg then 1 else 6
      1#64 <<< bit) fun _ => 0

/-- R101, R125: a NaN operand gives the canonical NaN and sets no flag; addition and multiplication do not depend on the order
of their operands; a difference is the sum with the second operand's sign inverted; in every floating format. -/
def Obligations.FloatAlgebra : Prop :=
  ∀ f ∈ [f64, f32, f16, b16, e4m3, e5m2], ∀ (mode : RMode) (a b d : Nat),
    f.add mode a b = f.add mode b a ∧ f.mul mode a b = f.mul mode b a ∧ f.fma mode a b d = f.fma mode b a d ∧
    f.sub mode a b = f.add mode a (f.neg b) ∧
    ((f.read a).isNan → f.add mode a b = ⟨f.qnan, 0⟩ ∧ f.mul mode a b = ⟨f.qnan, 0⟩ ∧ f.fma mode a b d = ⟨f.qnan, 0⟩)

/-- The floating-point words and those of the function unit. -/
def Obligations.FloatWords : Prop :=
  Claims.FloatArithmetic ∧ Claims.FunctionUnitWords

/-- R138: QPK4 and QPK8 write the block that QUANT makes of a fibre's 24 values to 3 or 6 registers from v(D) and its scale to
the next register and to l1; where no two fibres of the bundle share a register, every register of the fibre holds what the
rule gives; flags are those of LIVE fibres; scalars, predicates and memory stay. -/
def Obligations.QuantiserWords : Prop :=
  ∀ x ∈ ([(Instr.qpk4, 4), (Instr.qpk8, 8)] : List ((FmtQ → Instr) × Nat)), ∀ f s, ∃ t, exec (x.1 f) s = .next t ∧
    (let e := s.issue
     let k := 24 * x.2 / 32
     let b := fun l => quant (qpkValues e f.f.toNat f.a.toNat l) x.2 (f.m == 1)
     (∀ p, Tab.get 0 t.issue.cur.arch.v p =
       match writerOf e f.d.toNat (k + 1) p with
       | some l =>
         let j := p - ((e.cur.arch.fibre l).wb + f.d.toNat)
         if j < k then BitVec.ofNat 32 (packElems x.2 (b l).e >>> (32 * j)) else BitVec.ofNat 32 (b l).x
       | none => Tab.get 0 e.cur.arch.v p) ∧
     (∀ l j, j < 4 → Tab.find t.issue.cur.arch.lat (4 * l + j) =
       if j = 1 ∧ l ∈ e.eff then some ⟨BitVec.ofNat 64 (b l).x, 0⟩
       else if j = 1 ∧ l ∈ e.lanes then none else Tab.find e.cur.arch.lat (4 * l + j)) ∧
     t.issue.fl = e.effLive.foldl (fun m l => m ||| (b l).fl) e.fl ∧
     t = { s with issue := { e with fl := t.issue.fl, cur := { e.cur with
             arch := { e.cur.arch with v := t.issue.cur.arch.v, lat := t.issue.cur.arch.lat } } } })

/-- The quad words, the shuffles and votes, the reductions and scans. -/
def Obligations.LaneWords : Prop :=
  Claims.QuadWords ∧ Claims.ShufflesAndVotes ∧ Claims.ReduceAndScan

/-- Reads and writes of the system registers. -/
def Obligations.SystemRegisters : Prop :=
  Claims.SystemRegisterReads ∧ Claims.SystemRegisterWrites

/-- The branches, calls and returns, and the words that start and end fibres. -/
def Obligations.ControlTransfers : Prop :=
  Claims.BranchWords ∧ Claims.ForkAndExit

/-- The hints and queries, BAR and YIELD. -/
def Obligations.HintsQueriesAndBars : Prop :=
  Claims.HintsAndQueries ∧ Claims.BarAndYield

/-- ASSERT, and TRAP and BKPT. -/
def Obligations.ExceptionsStopTheWave : Prop :=
  Claims.AssertStopsContext ∧ Claims.TrapsStopTheWave

/-- R159, R276: HALT outside a handler run stops every wave of the block that runs, a descheduled one once it is back, and
puts its record in the mailbox; inside one, it ends the run: the handler's block goes, and a run for the doorbell clears
DOOR and raises the mailbox interrupt. -/
def Obligations.HaltStopsOrEndsTheRun : Prop :=
  (∀ (f : FmtAb) s k, Issuing s k → k.handler = false → s.issue.effLive ≠ [] →
    ∃ t, exec (.halt f) s = .next t ∧ (t.part k.part).recSeq = ((s.part k.part).recSeq + 1) % 65536 ∧
      t.mem = s.mem.write (stopRecordPa s k.part) (sequenced s k.part
        (recordOf s { stopFault s .trap (s.issue.live.headD 0) 0 0 with word := 0x7D0E0000 })) ∧
      (∀ b, b ≠ s.issue.blk → t.blk? b = s.blk? b) ∧
      ∀ i w, i < k.waves.length → s.wave? s.issue.blk i = some w → t.wave? s.issue.blk i = some (match w.mode with
        | .ended | .stopped _ => w
        | .desched _ => { w with stopAs := some .halt }
        | _ => { w with mode := .stopped .halt, single := false })) ∧
  ∀ (f : FmtAb) s k h, Issuing s k → k.handler = true → s.issue.effLive ≠ [] →
    (s.core s.issue.core).hrun = some (s.issue.blk, h) →
    ∃ t, exec (.halt f) s = .next t ∧ (t.core s.issue.core).hrun = none ∧ t.blk? s.issue.blk = none ∧ t.issue = {} ∧
      (NothingLocal s → t.mem = s.mem ∧ ∀ b, b ≠ s.issue.blk → t.blk? b = s.blk? b) ∧ t.msi = s.msi ++ (if h.code = 0xFFFE then [(k.part, 2)] else []) ∧
      (t.part k.part).mbox = (if h.code = 0xFFFE then (s.part k.part).mbox &&& ~~~1#64 else (s.part k.part).mbox)

/-- R31, R112, R151, R154, R160, R274: RFE restarts the wave that TGT.WSLOT names, where it is stopped for this handler:
its open region commits, and it goes on from the registers the handler left in it, latches invalid, in the slow gear for
one step where HANDLER.STEP is 1, which it clears; a wave without a LIVE slot ends, and one whose fibres stand at a BAR
has arrived; and the run ends. Where no phase turns on the wave and neither it nor the handler holds a store to a LOCAL
line, nothing else changes. -/
def Obligations.ReturnFromHandler : Prop :=
  ∀ (f : FmtAb) s k h b w x, Issuing s k → k.handler = true → s.issue.effLive ≠ [] → b ≠ s.issue.blk →
    s.stoppedAt s.issue.core k.part ((s.core s.issue.core).tgt.toNat % 64) = some (b, w) → s.wave? b w = some x →
    (s.core s.issue.core).hrun = some (s.issue.blk, h) → h.code ≠ 0xFFFE →
    let step := (s.part k.part).handler.getLsbD 4
    let u := restarted s b w step
    let handler := (s.part k.part).handler &&& ~~~16#64
    Restarts s b w step x ∧
    ∃ t, exec (.rfe f) s = .next t ∧
      t = ((settled s b w step x).onPart k.part fun y => { y with handler := y.handler &&& ~~~16#64 }).endHandler s.issue.core ∧
      (Arch.liveSlots x.arch ≠ [] → u.barTest b = u → (∀ h ∈ x.held, h.cls ≠ .loc) → NothingLocal s →
        t.wave? b w = u.wave? b w ∧ (∃ l, (t.core s.issue.core).outbox = (u.core s.issue.core).outbox ++ l) ∧ t.mem = s.mem ∧
        (∀ p, p ≠ k.part → t.part p = s.part p) ∧ t.part k.part = { s.part k.part with handler := handler } ∧ t.issue = {} ∧
        t.blk? s.issue.blk = none ∧ (t.core s.issue.core).hrun = none ∧
        ∀ c, c ≠ b → c ≠ s.issue.blk → t.blk? c = s.blk? c)

/-- The loads of local memory, relaxed and ordered. -/
def Obligations.LocalLoadWords : Prop :=
  Claims.LocalLoads ∧ Claims.LocalLoadsOrdered

/-- The stores to local memory: relaxed, ordered, and refused. -/
def Obligations.LocalStoreWords : Prop :=
  Claims.LocalStores ∧ Claims.LocalStoresOrdered ∧ Claims.LocalStoresRefused

/-- R173: ATOMS carries out the read-modify-writes of its LIVE fibres one after another in slot order, after the release of a
.rel or .sc form and before the acquire of an .acq or .sc form, none of which happens where it takes effect in no LIVE fibre
(R67); l2 of the fibres in which it takes no effect is not valid after a returning form. -/
def Obligations.LocalAtomics : Prop :=
  ∀ (f : FmtM) s, f.s.toNat ≤ 3 → s.issue.scout = false →
    let sc := (f.x.p.extractLsb' 21 3).toNat
    let u := if s.issue.effLive ≠ [] ∧ (f.o = 2 ∨ f.o = 3) then s.release sc else s
    let bad := fun v l => spaceFault v 0 (addr s f.g f.x f.e f.s.toNat l) (2 ^ f.s.toNat) (f.n == 0)
    (∀ l ∈ s.issue.effLive, bad s l = none ∧ bad u l = none) →
      let v := if f.n = 0 then withIssue u fun e => withArch e { e.cur.arch with
          lat := (e.lanes.filter fun l => !e.eff.contains l).foldl (fun t l => t.erase (4 * l + 2)) e.cur.arch.lat }
        else u
      let t := s.issue.effLive.foldl (spaceAtomicIn f) v
      exec (.atoms f) s = .next (if s.issue.effLive ≠ [] ∧ (f.o = 1 ∨ f.o = 3) then t.acquire sc else t)

/-- R164, R165, R174 to R177, R308: LALLOC pins the lowest run of free indices that is long enough and answers its first byte
address, each pinned index holding a line of zeros; −1 and PD = 0 where there is none or too few lines may be pinned, and PD = 1
without a write of s(B) for 0 lines; it waits while a pre-emption of its block is pending. LFREE unpins
exactly the lines of its range that no operation uses, and is tried again while one does; LQRY answers the lines left, the
longest free run and the lines held. -/
def Obligations.LocalAllocation : Prop :=
  (∀ (f : FmtAbx) s, s.issue.actor = none → exec (.lalloc f) s = .next s) ∧
  (∀ (f : FmtAbx) s, s.issue.actor ≠ none → s.iblk.pre ≠ none →
    exec (.lalloc f) s = .next (withIssue s fun e => { e with held := some .lalloc })) ∧
  (∀ (f : FmtAbx) s, s.issue.actor ≠ none → s.iblk.pre = none →
    let n := (ns s f.a).toNat % 2 ^ 32
    let space := (f.x.p.extractLsb' 4 2).toNat
    let taken := fun i => (s.spaceWay s.issue.blk space i).isSome
    let fits := fun i => i + n ≤ 1024 ∧ ∀ j < n, taken (i + j) = false
    let pd := (f.x.p.extractLsb' 0 4).toNat
    let answer := fun v (x : B64) => withIssue v fun e =>
      withArch e { e.cur.arch with sc := e.cur.arch.sc.set 0 (f.b.toNat % 64) x }
    ∃ t, exec (.lalloc f) s = .next t ∧
      (n = 0 → PResult s t pd fun _ => true) ∧
      (∀ i, n ≠ 0 → n ≤ s.freePinnable s.issue.core → fits i → (∀ j < i, ¬fits j) →
        PResult (answer (s.pinLines s.issue.blk space i n) (BitVec.ofNat 64 (1024 * i))) t pd fun _ => true) ∧
      (∀ i, n ≠ 0 → n ≤ s.freePinnable s.issue.core → fits i → (∀ j < i, ¬fits j) → s.issue.core = s.iblk.core →
        (∀ set < 64, (State.pinnedWays (s.core s.issue.core) set).length ≤ 14) →
        ∀ a, 1024 * i ≤ a → a < 1024 * (i + n) →
          t.spaceHas s.issue.blk space a = true ∧ t.spaceByte s.issue.blk space a = 0 ∧ t.spacePoison s.issue.blk space a = false) ∧
      (n ≠ 0 → (s.freePinnable s.issue.core < n ∨ ∀ i, ¬fits i) → PResult (answer s (-1)) t pd fun _ => false)) ∧
  (∀ (f : FmtAb) s, s.issue.actor ≠ none →
    let r := ns s f.a
    let space := (r.extractLsb' 30 2).toNat
    let n := (r.extractLsb' 16 11).toNat
    let ix := (r.extractLsb' 0 10).toNat
    let before := match s.issue.cur.hold with
      | some (.lfree _ _ _ m) => m
      | _ => (s.core s.issue.core).starts
    let ok := space < 3 ∧ 0 < n ∧ n ≤ 1024 ∧ r.extractLsb' 10 6 = 0 ∧ r.extractLsb' 27 3 = 0
    (¬ok → exec (.lfree f) s = .next s) ∧
    (ok →
      (s.linesBusy s.issue.blk space ix n before = true →
        exec (.lfree f) s = .next (withIssue s fun e => { e with held := some (.lfree space ix n before) })) ∧
      (s.linesBusy s.issue.blk space ix n before = false → exec (.lfree f) s = .next (s.onCore s.iblk.core fun c => { c with
        lines := c.lines.filter (fun x : Nat × Line =>
          !(List.range n).any fun j => x.2.st == .pinned s.issue.blk space (ix + j)) })))) ∧
  ∀ (f : FmtAb) s, s.issue.actor ≠ none →
    let k := (ns s f.a).toNat % 2 ^ 32
    let taken := fun i => (s.spaceWay s.issue.blk k i).isSome
    let free := fun r => ∃ i, i + r ≤ 1024 ∧ ∀ j < r, taken (i + j) = false
    ∃ x : Nat, exec (.lqry f) s = .next (withIssue s fun e =>
        withArch e { e.cur.arch with sc := e.cur.arch.sc.set 0 (f.b.toNat % 64) (BitVec.ofNat 64 x) }) ∧
      (2 < k → x = 0) ∧
      (k ≤ 2 → ∃ r, free r ∧ (∀ m, free m → m ≤ r) ∧
        x = s.freePinnable s.iblk.core * 2 ^ 32 + r * 2 ^ 16 + ((List.range 1024).filter taken).length)

/-- R163, R246, R249, R250, R255, R351: the bytes that a load of a wave finds: the wave's own stores, which read no line where
they cover all of it; else over the core's L1 copy while its lease covers pts, whose way has then been used, and else over the
bytes at the home, whose lease then reaches at least pts + 64, once the core's committed stores to the same home slice have come
there. The load itself changes no byte of memory. -/
def Obligations.LoadFindsLatestBytes : Prop :=
  (∀ (s : State) c p b w va pa cls n, pa % 1024 + n ≤ 1024 →
    let r := s.loadBytes c p b w va pa cls n
    let u := s.beforeRead c p va pa cls
    (State.covers pa n (ownStores s c b w) = true → r.2 = s ∧ r.1.data.length = n ∧
      ∀ i < n, some (r.1.data.getD i 0) = lastByte (ownStores s c b w) (pa + i)) ∧
    (State.covers pa n (ownStores s c b w) = false → NoCopies u →
      (∀ q ∈ (u.core c).outbox, sliceOf q.pa ≠ sliceOf pa) ∧ r.1.data.length = n ∧
      (∀ i < n, r.1.data.getD i 0 = (lastByte (ownStores u c b w) (pa + i)).getD (u.mem.readByte (pa + i))) ∧
      r.2.mem = u.mem ∧ (cls ≠ .loc → (r.2.leaseOf pa).2 = max (u.leaseOf pa).2 (u.pts c p + 64)) ∧
      (r.2.leaseOf pa).1 = (u.leaseOf pa).1) ∧
    (NoCopies s → (∀ q ∈ (s.core c).outbox, sliceOf q.pa ≠ sliceOf pa) →
      u.mem = s.mem ∧ u.lease = s.lease ∧ ownStores u c b w = ownStores s c b w)) ∧
  ∀ (s : State) c p b w va pa n k l q v cls wts rts d, pa % 1024 + n ≤ 1024 → s.l1Find c p va = some (k, l) →
    l.st = .copy q v (State.lineOf pa) cls wts rts d → s.pts c p ≤ rts →
    let r := s.loadBytes c p b w va pa cls n
    (State.covers pa n (ownStores s c b w) = true → r.2 = s) ∧
    (State.covers pa n (ownStores s c b w) = false → r.2 = s.touchWay c k ∧ r.1.wts = wts) ∧ ∀ i < n, r.1.data.getD i 0 =
      (lastByte (ownStores s c b w) (pa + i)).getD (Memory.readByte l.data (pa % 1024 + i))

/-- The stores to global memory, relaxed and ordered. -/
def Obligations.GlobalStoreWords : Prop :=
  Claims.GlobalStores ∧ Claims.GlobalStoresOrdered

/-- The values that read-modify-writes make, and the atomics that run at a home. -/
def Obligations.AtomicValues : Prop :=
  Claims.ReadModifyWriteValues ∧ Claims.HomeAtomics

/-- R256, R257, R259, R279: ATOM, RED and ARV check every LIVE fibre, release where the form says so, carry out the WRITE
steps in slot order, give ATOM's values to v(D) and l2 and its flags to FLAGS, and acquire where the form says so; in no
LIVE fibre, nothing. ARV adds 1 to the word at its address for the whole bundle, and its old value goes to s(B) and l2. -/
def Obligations.GlobalAtomics : Prop :=
  (∀ (f : FmtM) s, f.s.toNat ≤ 3 → s.issue.on = true → s.iblk.primary = true → s.iblk.twin = none →
    let c := rmwChecks s f.g f.x f.e f.d f.s.toNat f.o (f.n == 0)
    (s.issue.effLive = [] → ∃ t, exec (.atom f) s = .next t ∧ (f.n = 0 → LoadResult s t 0 f.d f.s.toNat []) ∧
      t = withIssue s fun e => withArch e (if f.n = 0 then t.issue.cur.arch else e.cur.arch)) ∧
    (c.2.1 ≠ [] → exec (.atom f) s = .next (addFaults c.2.2 (c.2.1.map (atWord s)))) ∧
    (s.issue.effLive ≠ [] → c.2.1 = [] →
      let q := rmwSteps c.2.2 f.g f.x f.e f.d f.s.toNat f.o c.1
      ∃ t, exec (.atom f) s = .next (if f.o = 1 ∨ f.o = 3 then t.acquire (scopeOf f.x) else t) ∧
        (f.n = 0 → LoadResult q.2 t 0 f.d f.s.toNat ((c.1.zip q.1).map fun y => (y.1.1, some y.2.1))) ∧
        t = withIssue q.2 fun e => { e with
          fl := (c.1.zip q.1).foldl (fun m y => if y.1.1 ∈ e.live then m ||| y.2.2 else m) e.fl
          cur := { e.cur with arch := if f.n = 0 then t.issue.cur.arch else e.cur.arch } })) ∧
  (∀ (f : FmtMs) s, f.s.toNat ≤ 3 → s.issue.on = true → s.iblk.primary = true → s.iblk.twin = none →
    let c := rmwChecks s f.g f.x f.e f.d f.s.toNat f.o false
    (s.issue.effLive = [] → exec (.red f) s = .next s) ∧
    (c.2.1 ≠ [] → exec (.red f) s = .next (addFaults c.2.2 (c.2.1.map (atWord s)))) ∧
    (s.issue.effLive ≠ [] → c.2.1 = [] → (f.o = 0 ∨ f.o = 2) → exec (.red f) s = .next (rmwSteps c.2.2 f.g f.x f.e f.d f.s.toNat f.o c.1).2)) ∧
  ∀ (f : FmtAb) (s : State) l t u, s.issue.actor = some l → s.issue.on = true → s.iblk.primary = true → s.iblk.twin = none →
    let a := (ns s f.a).toNat
    s.reach (State.rmwAccess 2) 4 l a a 0 = (.ok t, u) → u.poisoned t.pa 4 = false →
    let q := (u.release 3).rmwOne 1 3 2 2 a t 1 0
    exec (.arv f) s = .next (withIssue (q.2.2.acquire 3) fun e => (withArch e { e.cur.arch with
      sc := e.cur.arch.sc.set 0 (f.b.toNat % 64) (BitVec.ofNat 64 q.1) }).putLatch 2 q.1)

/-- The fences and the cache words. -/
def Obligations.FencesAndCacheWords : Prop :=
  Claims.Fences ∧ Claims.CacheWords

/-- The loads of global memory and the block load. -/
def Obligations.GlobalLoadWords : Prop :=
  Claims.GlobalLoads ∧ Claims.BlockLoads

/-- R196, R198: a barrier that has been written reads back, and a phase whose arrivals and bytes are all counted ends: the
phase flips, REMAIN is EXPECT again, PENDING is 0, ERR is set where more bytes came than were expected; else nothing changes. -/
def Obligations.TransactionBarrierPhases : Prop :=
  (∀ (s : State) b ea t, ea % 16 = 0 → s.spaceHas b 0 ea = true → inRangeT t → (s.setTbar b ea t).tbar b ea = t) ∧
  ∀ (s : State) b ea, ea % 16 = 0 → s.spaceHas b 0 ea = true →
    let t := s.tbar b ea
    let p : B32 := BitVec.ofNat 32 t.pending
    let done := t.remain = 0 ∧ (p.slt 1) = true
    (done → ((s.checkDone b ea).tbar b ea = { t with
        pending := 0, remain := t.expect, phase := !t.phase, err := t.err || p.slt 0 }) ∧
      (∀ r ∈ ((s.checkDone b ea).blk b).rings, ∀ x ∈ r.st, x.2 ≠ .pubw (ea / 16) t.phase)) ∧
    (¬done → s.checkDone b ea = s)

/-- The updates of a transaction barrier, the waits on one, and the stores that end them. -/
def Obligations.TransactionBarriers : Prop :=
  Claims.TransactionBarrierUpdates ∧ Claims.TransactionBarrierWaits ∧ Claims.StoresWakeWaiters

/-- R202: NBARV arrives on a numbered barrier, whose last arrival of a phase flips it and starts the count again; NBWAIT waits
while the phase equals the wave's parity and else flips that parity; one that is not declared raises BARRIER. -/
def Obligations.NumberedBarriers : Prop :=
  (∀ x ∈ ([Instr.nbarv, .nbwait] : List (FmtAb → Instr)), ∀ f s,
    (s.issue.actor = none → exec (x f) s = .next s) ∧
    ∀ l, s.issue.actor = some l → (s.iblk.nb.getD (f.b.toNat % 16) {}).expect = 0 →
      exec (x f) s = .next (addFaults s [memberFault s .barrier l 0 0 0])) ∧
  (∀ (f : FmtAb) s, s.issue.actor ≠ none →
    let k := f.b.toNat % 16
    let u := s.release 1
    let x := s.iblk.nb.getD k {}
    x.expect ≠ 0 → ∃ t, exec (.nbarv f) s = .next t ∧
      t.iblk.nb.getD k {} = (if x.remain ≤ 1 then { x with remain := x.expect, phase := !x.phase } else { x with remain := x.remain - 1 }) ∧
      (∀ j, j ≠ k → t.iblk.nb.getD j {} = s.iblk.nb.getD j {}) ∧
      (x.remain ≤ 1 → s.issue.on = true → ∀ i w, i < s.iblk.waves.length → t.wave? s.issue.blk i = some w →
        ∀ y ∈ w.waits, y.kind = .nbwait k → w.wp.getLsbD k = x.phase → y.woken ≠ none) ∧
      (1 < x.remain → t = { u with blocks := t.blocks }) ∧ t = { u with blocks := t.blocks, issue := t.issue }) ∧
  ∀ (f : FmtAb) s, s.issue.actor ≠ none → s.issue.on = true →
    let k := f.b.toNat % 16
    let u := s.release 1
    let x := s.iblk.nb.getD k {}
    x.expect ≠ 0 →
      (x.phase = s.issue.cur.wp.getLsbD k → exec (.nbwait f) s = .next (waiting u (.nbwait k))) ∧
      (x.phase ≠ s.issue.cur.wp.getLsbD k → exec (.nbwait f) s = .next (withIssue u fun e =>
        { e with cur := { e.cur with wp := e.cur.wp ^^^ (1#16 <<< k) } }))

/-- R203 to R206: the ring words on a declared ring. RACQ takes the next home slot, or a pool slot, and answers its address;
RPUB publishes a HELD slot at once or on the phase of a barrier; RTAKE takes the oldest slot once it is FULL; RREL frees a
TAKEN slot; RACQ and RTAKE wait while there is none. RING is raised for a ring that does not exist or an address that is no
slot in the right state. RQRY answers the ring's word. -/
def Obligations.RingWords : Prop :=
  (∀ x ∈ ([(.racq, false), (.rtake, false), (.rqry, false), (.rrel, true)] : List ((FmtAb → Instr) × Bool)), ∀ f s l,
    s.issue.actor = some l → (7 < (ns s f.a).toNat % 2 ^ 32 ∨ (s.ring s.issue.blk ((ns s f.a).toNat % 2 ^ 32)).slots = 0) →
    exec (x.1 f) s = .next (addFaults s [memberFault s .ring l 0 (ns s f.a) (if x.2 then ns s f.b else 0)])) ∧
  ∀ s a, s.issue.actor ≠ none →
    let k := (ns s a).toNat % 2 ^ 32
    let b := s.issue.blk
    let u := s.release 1
    let r := s.ring b k
    let pool := s.iblk.pool
    k ≤ 7 → r.slots ≠ 0 →
      (∀ f : FmtAb, f.a = a → exec (.rqry f) s = .next (answerS u f.b r.word)) ∧
      (∀ f : FmtAb, f.a = a → (u.racqAhead b k none = true ∨ u.acqSlot b k = none) →
        exec (.racq f) s = .next (waiting u (.racq k (f.b.toNat % 64)))) ∧
      (∀ f : FmtAb, f.a = a → u.racqAhead b k none = false → Tab.find r.st r.acq = none → r.acq < 64 →
        ∃ t, exec (.racq f) s = .next (answerS t f.b (r.base + r.acq * r.size * 128)) ∧
          RingResult u t k { slotSet r r.acq .held with
            phase := r.phase ^^^ 2 ^ r.acq, acq := (r.acq + 1) % r.slots, queue := r.queue ++ [r.acq] }) ∧
      (∀ (f : FmtAb) j, f.a = a → u.racqAhead b k none = false → Tab.find r.st r.acq ≠ none → r.lent < r.lend →
        j < pool.count → (∀ q ∈ s.iblk.rings, Tab.find q.st (64 + j) = none) →
        (∀ i < j, ∃ q ∈ s.iblk.rings, Tab.find q.st (64 + i) ≠ none) →
        ∃ t, exec (.racq f) s = .next (answerS t f.b (pool.base + j * pool.size * 128)) ∧
          RingResult u t k { slotSet r (64 + j) .held with queue := r.queue ++ [64 + j] }) ∧
      (∀ (f : FmtAb) key err q, f.a = a → u.rtakeAhead b k none = false → r.queue = key :: q → Tab.find r.st key = some (.full err) →
        ∃ t, exec (.rtake f) s = .next (answerS t f.b (slotAddr r pool key + if err then 2 ^ 63 else 0)) ∧
          RingResult u t k { slotSet r key .taken with queue := q }) ∧
      (∀ f : FmtAb, f.a = a → (u.rtakeAhead b k none = true ∨ u.headFull b k = none) →
        exec (.rtake f) s = .next (waiting u (.rtake k (f.b.toNat % 64)))) ∧
      (∀ f : FmtAb, f.a = a → ∀ l, s.issue.actor = some l →
        let key := slotKey r pool (ns s f.b).toNat
        (∀ i, key = some i → Tab.find r.st i = some .taken → ∃ t, exec (.rrel f) s = .next t ∧
          RingResult u t k { r with st := r.st.erase i }) ∧
        ((∀ i, key = some i → Tab.find r.st i ≠ some .taken) →
          exec (.rrel f) s = .next (addFaults s [memberFault s .ring l 0 (ns s f.a) (ns s f.b)]))) ∧
      (∀ f : FmtAbo, f.a = a → ∀ l, s.issue.actor = some l →
        let p : BitVec 24 := match f.x with
          | some x => x.p
          | none => 0
        let key := slotKey r pool (ns s f.b).toNat
        let ea := (p.extractLsb' 0 16).toNat * 16
        (∀ i, key = some i → Tab.find r.st i = some .held → p.getLsbD 16 = false →
          ∃ t, exec (.rpub f) s = .next t ∧ RingResult u t k (slotSet r i (.full false))) ∧
        (∀ i, key = some i → Tab.find r.st i = some .held → p.getLsbD 16 = true → s.spaceHas b 0 ea = true →
          (u.tbar b ea).ready = true →
          ∃ t, exec (.rpub f) s = .next t ∧ RingResult u t k (slotSet r i
            (if (u.tbar b ea).inv then .full true else .pubw (ea / 16) (u.tbar b ea).phase))) ∧
        (p.getLsbD 16 = false → (∀ i, key = some i → Tab.find r.st i ≠ some .held) →
          exec (.rpub f) s = .next (addFaults s [memberFault s .ring l 0 (ns s f.a) (ns s f.b)])))

/-- What lands are the bytes that wait, of spaces and of global memory, 16-byte part by 16-byte part (R171); the space sectors
that they cover whole without poison, and whether one of them is poisoned (R190, R272). -/
def LandsBytes (l : Landing) (c : Carry) : Prop :=
  (∀ w, w ∈ l.sp.flatten ↔ ∃ x ∈ c.sp, ∃ y ∈ x.2, y.1 < 128 ∧ w = (x.1 % 4, x.1 / 4 * 128 + y.1, y.2)) ∧
  (∀ p ∈ l.sp, p ≠ [] ∧ ∃ k a, ∀ w ∈ p, w.1 = k ∧ w.2.1 / 16 = a) ∧
  (∀ a z, (∃ g ∈ l.gl.flatten, ∃ i, g.data[i]? = some z ∧ g.pa + i = a) ↔
    ∃ x ∈ c.gl, ∃ g ∈ x.2, ∃ i, g.2.data[i]? = some z ∧ g.2.pa + i = a) ∧
  (∀ p ∈ l.gl, p ≠ [] ∧ ∃ k, ∀ h ∈ p, ∃ x ∈ c.gl, ∃ g ∈ x.2, g.1 % 128 / 16 = k ∧ g.2.pa = h.pa) ∧
  (∀ p, p ∈ l.whole ↔ ∃ x ∈ c.sp, x.2.length = 128 ∧ (∀ b ∈ x.2, b.2.2 = false) ∧ p = (x.1 % 4, x.1 / 4)) ∧
  (l.poison = true ↔ (∃ x ∈ c.sp, ∃ b ∈ x.2, b.2.2 = true) ∨ ∃ x ∈ c.gl, ∃ g ∈ x.2, ∃ b ∈ g.2.data, b.2 = true)

/-- The words that start a copy and that ask after one. -/
def Obligations.CopyWords : Prop :=
  Claims.CopyStarts ∧ Claims.CopyQueries

/-- R171, R181, R187, R189, R190, R193, R195, R198, R248, R268, R280: the steps of the copy engine on a copy in a slot: its
descriptor is read once, and a layout that breaks a rule ends it; the items of a unit are moved, those that NOT-PRESENT
stops staying owed and a fault of another class ending it; what they make waits until its 128-byte sectors are whole, or no
unit is left to move, and then lands a 16-byte part at a time, after which its bytes are accounted and its time has joined PEND;
a chain ends at a record that is not owned; a copy with nothing left is done and leaves its
batch; one whose fault is known ends faulted with all of its bytes accounted; owed sectors make one BATCH record. A step
that does not apply changes nothing. -/
def Obligations.CopyEngineSteps : Prop :=
  (∀ core slot s, copyAt s core slot = none →
    ∀ i ∈ [Instr.count core slot, .copyDescriptorRead core slot, .copyDone core slot, .copyFault core slot,
      .copyBatchWait core slot, .transferRecord core slot], exec i s = .next s) ∧
  ∀ core slot s c, copyAt s core slot = some c →
    (c.fn ≠ 0x18 → c.wantsDesc = false → exec (.copyDescriptorRead core slot) s = .next s) ∧
    (∀ d u, c.fn ∉ [3, 4, 5, 0x18] → c.wantsDesc = true →
      let v := s.onCopy core slot fun x => { x with st := .running, todo := [] }
      (readDesc core c).run v = (.ok d, u) →
      let y : Copy := { c with st := .running, todo := [], desc := some d }
      ∃ t, exec (.copyDescriptorRead core slot) s = .next t ∧ t.mem = u.mem ∧ copyAt t core slot = some
        (if ({ c with desc := some d } : Copy).layoutOk then { y with units := ({ c with desc := some d } : Copy).unitCount }
         else { y with units := 0, failOff := c.bytes, fault := some (c.flt .layout 0 .copyRead (if c.fn = 7 then 0 else (c.b.getD 0 0).toNat)) })) ∧
    (c.fn ≠ 0x18 → c.land = none → c.nextUnit = none → c.flushDue = false → exec (.count core slot) s = .next s) ∧
    (c.fn ≠ 0x18 → c.fn ≠ 2 → c.flushDue = true → ∃ t y l, exec (.count core slot) s = .next t ∧ copyAt t core slot = some y ∧
      y.carry = {} ∧ LandsBytes l c.carry ∧ l.n = c.carry.n ∧ t.mem = s.mem ∧
      if l.sp = [] ∧ l.gl = [] then y.land = none ∧ y.bytes = c.bytes + l.n else y.land = some l ∧ y.bytes = c.bytes) ∧
    (∀ l p q, c.fn ≠ 0x18 → c.fn ≠ 2 → c.dropped = false → c.land = some l → l.sp = p :: q → (q ≠ [] ∨ l.gl ≠ []) →
      exec (.count core slot) s = .next ((s.landPart c.blk p).onCopy core slot fun x => { x with land := some { l with sp := q } })) ∧
    (∀ l, c.fn ≠ 0x18 → c.fn ≠ 2 → c.land = some l → l.sp.length + l.gl.length ≤ 1 →
      ∃ t y, exec (.count core slot) s = .next t ∧ copyAt t core slot = some y ∧ y.land = none ∧ y.bytes = c.bytes + l.n ∧
        y.poison = (c.poison || l.poison) ∧ y.st = c.st ∧ y.owed = c.owed ∧ y.carry = c.carry ∧
        (∀ i w, t.wave? c.blk i = some w → y.ts ≤ w.pend) ∧ (l.gl = [] → t.mem = s.mem)) ∧
    (∀ k, c.fn ≠ 0x18 → c.fn ≠ 5 → c.land = none → c.nextUnit = some k →
      let step := fun x : Copy => match x.todo with
        | _ :: r => { x with todo := r }
        | [] => { x with unit := k + 1 }
      let q := State.runItems core (step c) k (Tab.get (List.range ((step c).unitItems k)) c.left k) (s.onCopy core slot step)
      let bad := q.1.flatMap fun x => match x.2 with
        | .ok _ => []
        | .error fs => fs.map fun f => (k, x.1, f)
      let outs := q.1.filterMap fun x => match x.2 with
        | .ok w => some (x.1, w)
        | .error _ => none
      let n := (outs.map fun w => (step c).itemCount w.1).sum
      let x := (outs.flatMap (·.2.gl)).foldl Carry.putWrite ((outs.flatMap (·.2.sp)).foldl Carry.putByte c.carry)
      ∃ t y, exec (.count core slot) s = .next t ∧ copyAt t core slot = some y ∧ t.mem = q.2.mem ∧ y.st = c.st ∧
        (bad = [] → y.owed = c.owed ∧ y.fault = c.fault) ∧
        (bad ≠ [] → (∀ x ∈ bad, x.2.2.cls = .notPresent) → y.owed = c.owed ++ bad ∧ y.fault = c.fault) ∧
        (∀ x, bad.find? (fun x => x.2.2.cls != .notPresent) = some x →
          y.fault = some x.2.2 ∧ y.failOff = (step c).sectorOffset k x.2.1 ∧ y.land = none ∧ y.bytes = c.bytes ∧
          y.carry = c.carry) ∧
        ((∀ x ∈ bad, x.2.2.cls = .notPresent) →
          y.carry.sp = (x.sp.filter fun w => w.2.length != 128) ∧ y.carry.gl = (x.gl.filter fun w => Carry.glen w.2 != 128) ∧
          y.carry.n = min (c.carry.n + n) y.carry.size ∧
          ∃ l, LandsBytes l {
              sp := x.sp.filter fun w => w.2.length == 128, gl := x.gl.filter fun w => Carry.glen w.2 == 128 } ∧
            y.carry.n + l.n = c.carry.n + n ∧
            if l.sp = [] ∧ l.gl = [] then c.fn ≠ 2 → y.land = none ∧ y.bytes = c.bytes + l.n
            else y.land = some l ∧ y.bytes = c.bytes)) ∧
    (c.over = false → exec (.copyDone core slot) s = .next s) ∧
    (c.over = true → (∀ x ∈ (s.core core).copies, x.1 < 64) → ∃ t, exec (.copyDone core slot) s = .next t ∧
      copyAt t core slot = some { c with st := .done, todo := [], owed := [], left := [], land := none, carry := {}, bins := [] } ∧
      (∀ k, k ≠ slot → copyAt t core k = copyAt s core k) ∧ t.mem = s.mem ∧
      ∀ w, s.wave? c.blk c.wave = some w → c.flags = 0 →
        t.wave? c.blk c.wave = some (({ w with pend := max w.pend c.ts } : Wave).setBatch c.cls ((Wave.batch w c.cls).finish c.seq))) ∧
    ((c.inFlight = false ∨ c.fault = none) → exec (.copyFault core slot) s = .next s) ∧
    (c.inFlight = true → c.fault ≠ none → c.fn ≠ 0x18 → s.colls = [] → (∀ x ∈ (s.core core).copies, x.1 < 64) →
      ∃ t y, exec (.copyFault core slot) s = .next t ∧ copyAt t core slot = some y ∧ y.st = .faulted ∧
        y.bytes = c.bytes + (c.total - c.bytes) ∧ y.owed = [] ∧ y.todo = []) ∧
    (c.fn ≠ 0x18 → c.isOwed = false → exec (.copyBatchWait core slot) s = .next s) ∧
    (c.fn ≠ 0x18 → c.isOwed = true → ∃ t, exec (.copyBatchWait core slot) s = .next t ∧
      copyAt t core slot = some { c with st := .batch (s.part c.part).batchNo } ∧
      (t.part c.part).batchNo = ((s.part c.part).batchNo + 1) % 65536 ∧
      (∃ r, (t.part c.part).recWait = (s.part c.part).recWait ++ [r]) ∧ t.mem = s.mem) ∧
    (c.wantsRecord = false → exec (.transferRecord core slot) s = .next s) ∧
    (c.wantsRecord = true → c.xrec = none →
      let v := s.onCopy core slot fun x => { x with st := .running }
      (∀ u, (State.readRecord core c (c.chain.getD 0)).run v = (.ok none, u) → ∃ t, exec (.transferRecord core slot) s = .next t ∧
        copyAt t core slot = some { c with st := .running, chain := none, todo := [] } ∧ t.mem = u.mem) ∧
      (∀ x u, (State.readRecord core c (c.chain.getD 0)).run v = (.ok (some x), u) → ∃ t, exec (.transferRecord core slot) s = .next t ∧
        copyAt t core slot = some { c with
          st := .running, xrec := some x, todo := List.range ((x.len + 127) / 128), left := [] } ∧ t.mem = u.mem)) ∧
    (∀ x h tr u w, c.wantsRecord = true → c.xrec = some x →
      (readGlobal core c [.loc, .dev, .sys] x.va 8).run (s.onCopy core slot fun x => { x with st := .running }) = (.ok h, u) →
      (reachWrite core c x.va).run u = (.ok tr, w) → ∃ t y, exec (.transferRecord core slot) s = .next t ∧
        copyAt t core slot = some y ∧ y.chain = (if x.next = 0 then none else some x.next) ∧ y.xrec = none ∧ y.todo = [] ∧
        y.bytes = c.bytes + x.len)

/-- The words and the stream operations of the matrix unit. -/
def Obligations.MatrixWords : Prop :=
  Claims.MatrixMembers ∧ Claims.MatrixControlWords ∧ Claims.MatrixOperationsBegin

/-- R117, R171, R210, R211, R217, R220, R223, R227, R272: the tile after a K block holds, in every row below M and column
below N, the accumulator after the product of the row and the column, scaled and saturated, and is unchanged elsewhere;
RINV then marks the rows, and CINV the columns, with a scale of 255. When an array operation completes, its tile is the
one after all its K blocks and the unit is free; an MCLR, and an MMA or EPI with M or N8 0, leaves every tile as it is. An
epilogue's output is worked out and then lands a 16-byte part at a time, after which the unit is free. An operation that
would read poison stops its sequencer FAULTED and dooms its block. Nothing completes once the save engine has stopped the
sequencer. -/
def Obligations.MatrixProducts : Prop :=
  (∀ (s : State) b f da dw kb (t : Tile), Tab.wf 0 t.a = true →
    let r := (s.mmBlock b f da dw kb t).1
    Tab.wf 0 r.a = true ∧ r.q = t.q ∧
    (∀ m n, m < 16 → n < 384 → Tab.get 0 r.a (384 * m + n) =
      if m < f.m.toNat ∧ n < 8 * f.n8.toNat then macAt s b f da dw kb m n t.q.toInt (Tab.get 0 t.a (384 * m + n))
      else Tab.get 0 t.a (384 * m + n)) ∧
    (∀ m < 16, r.rinv.getLsbD m = (t.rinv.getLsbD m ||
      decide (m < f.m.toNat ∧ s.spaceByte b 1 ((da.extractLsb' 36 20).toNat + 16 * kb + m) = 255))) ∧
    ∀ n < 384, r.cinv.getLsbD n = (t.cinv.getLsbD n ||
      decide (n < 8 * f.n8.toNat ∧ s.spaceByte b 2 ((dw.extractLsb' 32 20).toNat + 384 * kb + n) = 255))) ∧
  (∀ b e s, State.seqClosed (s.blk b) = true ∨ (if e then (s.seq b).epi else (s.seq b).mma) = none →
    exec (.arrayOpComplete b e) s = .next s) ∧
  (∀ b s k o f, s.blk? b = some k → State.seqClosed k = false → k.seqr.mma = some o → o.mm? = some f →
    s.poisonIn b o.reads = none →
    f.m ≠ 0 → f.n8 ≠ 0 → o.tile < k.tiles.length → ∃ t, exec (.arrayOpComplete b false) s = .next t ∧ (t.seq b).mma = none ∧
      (t.blk b).tiles = k.tiles.set o.tile
        ((List.range (f.kb.toNat - o.kb)).foldl (fun x j => (s.mmBlock b f o.da o.db (o.kb + j) x).1) (k.tiles.getD o.tile {}))) ∧
  (∀ b s k o, s.blk? b = some k → State.seqClosed k = false → k.seqr.mma = some o →
    (o.mm? = none ∨ ∃ f, o.mm? = some f ∧ (f.m = 0 ∨ f.n8 = 0)) →
    ∃ t, exec (.arrayOpComplete b false) s = .next t ∧ (t.seq b).mma = none ∧ (t.blk b).tiles = k.tiles) ∧
  (∀ b s k o f, s.blk? b = some k → State.seqClosed k = false → k.seqr.epi = some o → o.epi? = some f → k.seqr.land = none →
    (f.m = 0 ∨ f.n8 = 0) →
    ∃ t, exec (.arrayOpComplete b true) s = .next t ∧ (t.seq b).epi = none ∧ (t.seq b).land = none ∧ (t.blk b).tiles = k.tiles ∧
      ∀ sp < 3, ∀ a, t.spaceByte b sp a = s.spaceByte b sp a) ∧
  (∀ b e s k o, s.blk? b = some k → State.seqClosed k = false → k.twin = none →
    (if e then (∃ f, k.seqr.epi = some o ∧ o.epi? = some f ∧ k.seqr.land = none ∧ s.poisonIn b (f.parRanges o.db) ≠ none)
      else k.seqr.mma = some o ∧ s.poisonIn b o.reads ≠ none) →
    ∃ t, exec (.arrayOpComplete b e) s = .next t ∧ (t.seq b).st = .faulted ∧ (t.blk b).doomed = true ∧ (t.blk b).tiles = k.tiles ∧
      t.mem = s.mem) ∧
  ∀ b s k o f, s.blk? b = some k → State.seqClosed k = false → k.seqr.epi = some o → o.epi? = some f →
    f.m ≠ 0 → f.n8 ≠ 0 →
    let out := s.epiOut b f o.da o.db (k.tiles.getD o.tile {})
    let bytes := out.1.flatMap fun w => w.2.zipIdx.map fun x => ((o.da.extractLsb' 20 2).toNat, w.1 + x.2, (x.1, false))
    (k.seqr.land = none → s.poisonIn b (f.parRanges o.db) = none → bytes ≠ [] →
      exec (.arrayOpComplete b true) s = .next (s.onSeq b fun q => {
        q with land := some { sp := (bytes.foldl Carry.putByte {}).spParts, fl := out.2 } })) ∧
    (∀ l p r, k.seqr.land = some l → l.sp = p :: r → r ≠ [] → exec (.arrayOpComplete b true) s =
      .next ((s.landPart b p).onSeq b fun q => { q with land := some { l with sp := r } })) ∧
    ∀ l, k.seqr.land = some l → l.sp.length ≤ 1 → ∃ t, exec (.arrayOpComplete b true) s = .next t ∧
      (t.seq b).epi = none ∧ (t.seq b).land = none ∧
      (∀ sp < 3, ∀ a, t.spaceByte b sp a = (l.sp.foldl (fun u p => u.landPart b p) s).spaceByte b sp a) ∧
      (f.clr = 1 → o.tile < k.tiles.length →
        (t.blk b).tiles.getD o.tile {} = { k.tiles.getD o.tile {} with a := [], rinv := 0, cinv := 0 })

/-- R322, R325 to R329: the gate members of a wave that has no twin. GATE is raised for a gate that does not exist, is
FREE or does not name the partition. GSIG releases, takes a token where the gate has a bucket, adds to COUNT with
saturation, and answers whether it was counted; GWAIT and GTRY answer whether COUNT has reached the target, with an
acquire at the gate's time if so, GWAIT waiting else; GQRY answers the status, COUNT or the time. A GSIG that is counted
wakes every GWAIT whose target is at or below the new COUNT. In TRANSIT GSIG and GWAIT wait and GTRY is not met. -/
def Obligations.GateMembers : Prop :=
  (∀ x ∈ ([(.gsig, Gate.sig), (.gwait, Gate.wmask), (.gtry, Gate.wmask)] : List ((FmtAbx → Instr) × (Gate → B64))),
    ∀ f s l, s.issue.actor = some l → s.iblk.primary = true → s.ipart < 64 → ¬gateOk s (ns s f.a).toNat x.2 →
      exec (x.1 f) s = .next (addFaults (toGate s (ns s f.a).toNat) [memberFault s .gate l 0 (ns s f.a) (ns s f.b)])) ∧
  (∀ (f : FmtAbx) s, s.issue.actor ≠ none → Alone s → s.ipart < 64 →
    let g := (ns s f.a).toNat
    let n := (ns s f.b).toNat % 2 ^ 32
    let u := (toGate s g).release 4
    let y := s.gate g
    gateOk s g Gate.sig →
      (y.st = 2 → exec (.gsig f) s = .next (waiting u (.gqueued g (pdField f.x)))) ∧
      (y.st ≠ 2 → y.depth ≠ 0 → y.tokens = 0 → ∃ t, exec (.gsig f) s = .next t ∧ PResult u t (pdField f.x) fun _ => false) ∧
      (y.st ≠ 2 → (y.depth = 0 ∨ y.tokens ≠ 0) → ∃ v t, exec (.gsig f) s = .next t ∧ PResult v t (pdField f.x) (fun _ => true) ∧
        GateOnly u v g ∧ WaitsMapped u v (metAt g (v.gate g).count) ∧ v.gate g = { y with
          count := if 2 ^ 64 ≤ y.count.toNat + n then -1 else y.count + BitVec.ofNat 64 n
          sat := y.sat || decide (2 ^ 64 ≤ y.count.toNat + n)
          tokens := if y.depth = 0 then y.tokens else y.tokens - 1
          ts := max y.ts (u.pts s.issue.core s.ipart), waiters := (v.gate g).waiters })) ∧
  (∀ (f : FmtAbx) s, s.issue.actor ≠ none → Alone s → s.ipart < 64 →
    let g := (ns s f.a).toNat
    let n := ns s f.b
    let y := s.gate g
    let u := toGate s g
    gateOk s g Gate.wmask →
      (y.st = 2 → exec (.gwait f) s = .next (waiting u (.gqueued g (pdField f.x))) ∧
        ∃ t, exec (.gtry f) s = .next t ∧ PResult u t (pdField f.x) fun _ => false) ∧
      (y.st ≠ 2 → n.toNat ≤ y.count.toNat → ∃ v t, exec (.gwait f) s = .next t ∧ exec (.gtry f) s = .next t ∧
        PResult u v (pdField f.x) (fun _ => true) ∧ AcquiredAt v t y.ts) ∧
      (y.st ≠ 2 → y.count.toNat < n.toNat →
        exec (.gwait f) s = .next (waiting (u.onGate g fun y => { y with waiters := y.waiters + 1 }) (.gwait g n (pdField f.x))) ∧
        ∃ t, exec (.gtry f) s = .next t ∧ PResult u t (pdField f.x) fun _ => false)) ∧
  ∀ (f : FmtAbo) s, s.issue.actor ≠ none → Alone s → s.ipart < 64 →
    let g := (ns s f.a).toNat
    let y := s.gate g
    (gateOk s g fun y => y.sig ||| y.wmask) → y.ts < 2 ^ 64 →
      exec (.gqry f) s = .next (answerS (toGate s g) f.b (
        if payload f.x = 0 then y.st * 2 ^ 62 + (if y.sat then 2 ^ 61 else 0) +
          (if y.sig.getLsbD s.ipart then 2 ^ 60 else 0) + (if y.wmask.getLsbD s.ipart then 2 ^ 59 else 0) +
          y.waiters % 65536 * 2 ^ 32 + (if y.depth = 0 then 0xFFFFFFFF else y.tokens.toNat)
        else if payload f.x = 1 then y.count.toNat else y.ts))

/-- R322 to R324, R331 to R333: the gate table. A write of GCTL with STATE 1 creates a FREE gate, one with STATE 0 frees it and
ends every wait on it with PD = 0; a tick adds RATE tokens up to DEPTH. A write of GMIG_CTL with GO 1 starts an operation with
OP 1 or 2, unless one is under way; GO written as 0 leaves one that is. An export puts a VALID gate in TRANSIT and writes
its record; an import loads a FREE gate, whose masks and GCTL have been written, from a record that is well made. A record
loads back what it was made of. -/
def Obligations.GateTable : Prop :=
  (∀ g (v : B64) s, s.hostOpen = false → exec (.gateCreate g v) s = .next (turnedAway s) ∧
    exec (.gateFree g v) s = .next (turnedAway s)) ∧
  (∀ g (v : B64) s, s.hostOpen = true → g < 4096 → (s.gate g).st = 0 → ∃ t, exec (.gateCreate g v) s = .next t ∧
    t.gate g = { s.gate g with
      depth := (v.extractLsb' 32 16).toNat, rate := (v.extractLsb' 16 16).toNat, owner := (v.extractLsb' 0 6).toNat, st := 1
      sat := false, waiters := 0, refillAt := (t.gate g).refillAt, wroteCtl := true } ∧
    (∀ h, h ≠ g → t.gate h = s.gate h) ∧ t = { s with gates := t.gates }) ∧
  (∀ g (v : B64) s, s.hostOpen = true → g < 4096 → ∃ t, exec (.gateFree g v) s = .next t ∧
    (t.gate g).st = 0 ∧ (t.gate g).waiters = 0 ∧ (∀ h, h ≠ g → t.gate h = s.gate h) ∧
    WaitsMapped s t (freedWait g) ∧ t.mem = s.mem ∧ t.cores = s.cores) ∧
  (∀ g s, exec (.tokenRefill g) s = .next (if (s.gate g).refillAt ≤ s.nclk then s.onGate g fun y => { y with
      tokens := if y.depth = 0 then y.tokens else BitVec.ofNat 32 (min y.depth (y.tokens.toNat + y.rate))
      refillAt := y.refillAt + 1600 } else s)) ∧
  (∀ (v : B64) s, s.hostOpen = true → exec (.registerWrite 0 4 0x40008 8 v) s = .next { s with
    gmigCtl := (v &&& 0xFFF0003) ||| (s.gmigCtl &&& 0x30)
    gmig := if v.getLsbD 2 = true ∧ s.gmig = none ∧ (v.extractLsb' 0 2 = 1 ∨ v.extractLsb' 0 2 = 2) then
        some ⟨(v.extractLsb' 0 2).toNat, (v.extractLsb' 16 12).toNat, (s.gmigPa.extractLsb' 6 46).toNat * 64⟩
      else s.gmig }) ∧
  (∀ s, ((∀ m, s.gmig = some m → m.op ≠ 1) → exec .gateExport s = .next s) ∧
    ((∀ m, s.gmig = some m → m.op ≠ 2) → exec .gateImport s = .next s)) ∧
  (∀ s m, s.gmig = some m →
    let g := m.gate
    let ended := fun (t : State) (n : B64) => t.gmig = none ∧ t.gmigCtl = (s.gmigCtl &&& 0xFFF0003) ||| (n <<< 4)
    let written := (s.gate g).st = 0 ∧ (s.gate g).wroteCtl = true ∧ (s.gate g).wroteSig = true ∧ (s.gate g).wroteWait = true
    (m.op = 1 → (s.gate g).st ≠ 1 → ∃ t, exec .gateExport s = .next t ∧ ended t 1 ∧
      t = { s with gmigCtl := t.gmigCtl, gmig := none }) ∧
    (m.op = 1 → (s.gate g).st = 1 → ∃ t, exec .gateExport s = .next t ∧ ended t 0 ∧ t.gate g = { s.gate g with st := 2 } ∧
      t.mem = s.mem.write m.pa (migRecord g (s.gate g) (s.partClock (s.gate g).owner)) ∧ ∀ h, h ≠ g → t.gate h = s.gate h) ∧
    (m.op = 2 → ¬written → ∃ t, exec .gateImport s = .next t ∧ ended t 1 ∧ t = { s with gmigCtl := t.gmigCtl, gmig := none }) ∧
    (m.op = 2 → written → migOk (s.mem.read m.pa 64) = false → ∃ t, exec .gateImport s = .next t ∧ ended t 2 ∧
      t = { s with gmigCtl := t.gmigCtl, gmig := none, noWay := t.noWay }) ∧
    (m.op = 2 → written → migOk (s.mem.read m.pa 64) = true → ∃ t, exec .gateImport s = .next t ∧ ended t 0 ∧
      t.gate g = (s.gate g).load (s.mem.read m.pa 64) (s.partClock (s.gate g).owner) ∧ (t.gate g).st = 1 ∧
      (∀ h, h ≠ g → t.gate h = s.gate h) ∧ t.mem = s.mem)) ∧
  ∀ n (x y : Gate) c d, n < 2 ^ 32 → x.ts < 2 ^ 47 → c < 2 ^ 47 → x.waiters < 2 ^ 16 → x.tokens.toNat ≤ y.depth →
    migOk (migRecord n x c) = true ∧ y.load (migRecord n x c) d = { y with
      count := x.count, sat := x.sat, tokens := x.tokens, waiters := 0, st := 1, ts := ((d : Int) + x.ts - c).toNat }

/-- R290, R293 to R296: LAUNCH, WAITCH, EVSIG and EVWAIT of a wave that has no twin: LAUNCH answers the child's number, or
−1 and PD = 0 where the launch is refused or, under NB, the pool has no entry for it, and waits for an entry else; WAITCH
goes on when the child has completed or is unknown; EVSIG adds to the event's COUNT at its home, after the core's
committed stores to the same home slice; EVWAIT goes on when COUNT has reached its target, PD telling whether FLG is
clear. -/
def Obligations.LaunchAndEventMembers : Prop :=
  (∀ (f : FmtAbx) s, s.issue.actor ≠ none → Alone s → s.issue.cur.verdict = none →
    let r := (toHub (s.release 4)).tryLaunch s.issue.blk (ns s f.a).toNat (f.x.p.extractLsb' 4 4).toNat false
    ((∀ id, r.1 = .entered id → ∃ t, exec (.launch f) s = .next (answerS t f.b id) ∧ PResult r.2 t (pdField f.x) fun _ => true) ∧
      ((r.1 = .refused ∨ (r.1 = .full ∧ f.x.p.getLsbD 8 = true)) →
        ∃ t, exec (.launch f) s = .next (answerS t f.b (2 ^ 64 - 1)) ∧ PResult r.2 t (pdField f.x) fun _ => false) ∧
      (r.1 = .full → f.x.p.getLsbD 8 = false → exec (.launch f) s = .next (waiting r.2
        (.launch (ns s f.a) (f.x.p.extractLsb' 4 4).toNat (f.b.toNat % 64) (pdField f.x)))))) ∧
  (∀ (f : FmtAbx) s, s.issue.actor ≠ none → Alone s → s.issue.cur.verdict = none →
    let id : B32 := (ns s f.a).setWidth 32
    (s.isChild s.ipart id.toNat = false → ∃ v t, exec (.waitch f) s = .next t ∧
      PResult (toHub s) v (pdField f.x) (fun _ => true) ∧ AcquiredAt v t (s.part s.ipart).relts) ∧
    (s.isChild s.ipart id.toNat = true → exec (.waitch f) s = .next (waiting (toHub s)
      (if s.poolShut s.ipart then .waitchPool id (pdField f.x) else .waitch id (pdField f.x))))) ∧
  (∀ (f : FmtAb) s l, s.issue.actor = some l → Alone s →
    let a := (ns s f.a).toNat
    let n := (ns s f.b).toNat % 2 ^ 32
    (∀ x u, s.reach State.signalAccess 16 l a a n = (.error x, u) → exec (.evsig f) s = .next (addFaults u [atWord s x])) ∧
    ∀ t u, s.reach State.signalAccess 16 l a a n = (.ok t, u) →
      let w := ((u.release 4).checkMerge u.ipart u.issue.core a t.pa 8 [] .atomic).catchUp u.issue.core t.pa
      ∃ v, exec (.evsig f) s = .next v ∧ v.mem = w.mem.write t.pa (toBytes 8 (w.mem.readNat t.pa 8 + n)) ∧
      (v.leaseOf t.pa).1 ≤ v.issue.cur.pend ∧ v.blocks = w.blocks ∧
      v.issue = { w.issue with cur := { w.issue.cur with pend := v.issue.cur.pend } }) ∧
  ∀ (f : FmtAbx) s l t u, s.issue.actor = some l → Alone s →
    let a := (ns s f.a).toNat
    s.reach State.eventAccess 16 l a a (ns s f.b).toNat = (.ok t, u) →
    (u.mem.readNat t.pa 8 < (ns s f.b).toNat → exec (.evwait f) s = .next (waiting u (.evwait a t.pa t.big (ns s f.b) (pdField f.x)))) ∧
    ((ns s f.b).toNat ≤ u.mem.readNat t.pa 8 → ∃ v w, exec (.evwait f) s = .next w ∧
      PResult (u.cross (u.coreDie u.issue.core) (homeDie t.pa)) v (pdField f.x) (fun _ => !(u.mem.readByte (t.pa + 12)).getLsbD 0) ∧
      AcquiredAt v w (u.leaseOf t.pa).1)

/-- R178, R179, R340 to R342, R346: COLL starts a copy-engine operation of member 0x18 as a copy start does, after a release at
.part. RATOM on a window that is off, too small or misaligned, or in a DET block, raises a fault; else, after a release at
.part, it takes a copy slot, sends its request through the window's port, and waits for the answer where it returns a
value; where the port is down it ends faulted at once, with an INVALID record and PD = 0. -/
def Obligations.CollectiveAndRemoteMembers : Prop :=
  (∀ (f : FmtAbx) s l, s.issue.actor = some l →
    let bar := 16 * (f.x.p.extractLsb' 0 16).toNat
    let core := s.issue.core
    let u := s.release 4
    (f.x.p.getLsbD 16 = false → s.spaceHas s.issue.blk 0 bar = false →
      exec (.coll f) s = .next (addFaults s [memberFault s .space l bar (ns s f.a) 0])) ∧
    ((f.x.p.getLsbD 16 = true ∨ s.spaceHas s.issue.blk 0 bar = true) → s.issue.cur.hold = none →
      (∀ slot, u.startsBefore core s.nextOrder = 0 → u.freeSlot core = some slot → ∃ t c, exec (.coll f) s = .next t ∧
        copyAt t core slot = some c ∧ (∀ k, k ≠ slot → copyAt t core k = copyAt u core k) ∧ c.seq = (s.core core).starts ∧
        c.fn = 0x18 ∧ c.cls = 2 ∧ c.a = [ns s f.a] ∧ c.st = .queued ∧ c.ext = f.x.p ∧ c.blk = s.issue.blk ∧ c.wave = s.issue.wv ∧
        LatchIs s t 2 ((s.core core).starts % 2 ^ 26 * 64 + slot) ∧ t.mem = u.mem) ∧
      ((u.startsBefore core s.nextOrder ≠ 0 ∨ u.freeSlot core = none) → ∃ t, exec (.coll f) s = .next t ∧
        t.issue = { u.issue with held := some (.slot s.nextOrder) } ∧ t.cores = u.cores))) ∧
  ∀ (f : FmtAbx) s l, s.issue.actor = some l →
    let win := (s.part s.ipart).rwin
    let k := (f.x.p.extractLsb' 20 4).toNat
    let base : B64 := Tab.get 0 win (2 * k)
    let ctl : B64 := Tab.get 0 win (2 * k + 1)
    let off := (ns s f.a).toNat
    let va := ((base.extractLsb' 16 48).toNat * 65536 + off) % 2 ^ 64
    let z := (f.x.p.extractLsb' 13 2).toNat
    let d : B64 := Tab.get 0 s.issue.old.sc (f.b.toNat % 64)
    let port := (ctl.extractLsb' 2 4).toNat
    let on := ctl.getLsbD 0 = true ∧ port ≤ 11
    let size := 2 ^ max 16 (ctl.extractLsb' 32 6).toNat
    let core := s.issue.core
    let fault := fun c => addFaults s [{ memberFault s c l va (ns s f.a) d with kind := .atomic }]
    (¬on → exec (.ratom f) s = .next (fault .permission)) ∧
    (on → size ≤ off → exec (.ratom f) s = .next (fault .invalid)) ∧
    (on → off < size → off % 2 ^ z ≠ 0 → exec (.ratom f) s = .next (fault .alignment)) ∧
    (on → off < size → off % 2 ^ z = 0 → s.iblk.det = true → exec (.ratom f) s = .next (fault .det)) ∧
    (on → off < size → off % 2 ^ z = 0 → s.iblk.det = false → Alone s → s.issue.cur.hold = none →
      let u := s.release 4
      (∀ slot, u.startsBefore core s.nextOrder = 0 → u.freeSlot core = some slot → s.isDown port = true →
        ∃ t c x, exec (.ratom f) s = .next t ∧ copyAt t core slot = some c ∧ c.fn = 0x19 ∧ c.st = .faulted ∧
          c.seq = (s.core core).starts ∧ LatchIs s t 2 ((s.core core).starts % 2 ^ 26 * 64 + slot) ∧
          (t.part s.ipart).recWait = (u.part s.ipart).recWait ++ [x] ∧
          x.data.head? = some (BitVec.ofNat 8 FClass.invalid.code) ∧ t.ends = u.ends ∧ t.issue.cur.waits = s.issue.cur.waits ∧
          (f.x.p.getLsbD 12 = true → pdField f.x ≠ 0 → ∀ l ∈ s.issue.eff,
            (t.issue.cur.arch.fibre l).pred.getLsbD (pdField f.x) = false)) ∧
      ∀ slot, u.startsBefore core s.nextOrder = 0 → u.freeSlot core = some slot → s.isDown port = false →
        ∃ t c m, exec (.ratom f) s = .next t ∧ copyAt t core slot = some c ∧ c.fn = 0x19 ∧ c.st = .running ∧
        c.seq = (s.core core).starts ∧ LatchIs s t 2 ((s.core core).starts % 2 ^ 26 * 64 + slot) ∧
        (t.end_ (64 + port)).ready = (s.end_ (64 + port)).ready ++ [m] ∧ m.kind = 0x03 ∧ m.addr.toNat = va ∧
        m.func.toNat = (f.x.p.extractLsb' 15 5).toNat ∧ m.size.toNat = z ∧
        ofBytes (m.data.take 8) = d.toNat % 2 ^ (8 * 2 ^ z) ∧
        (f.x.p.getLsbD 12 = true → ∃ x, t.issue.cur.waits = s.issue.cur.waits ++ [x] ∧
          x.kind = .ratom slot (f.b.toNat % 64) (pdField f.x)) ∧
        (f.x.p.getLsbD 12 = false → t.issue.cur.waits = s.issue.cur.waits))

/-- R285, R286: the command records but the launches. NOPC is skipped; COPYC copies by way of the partition's tables;
WRITEC stores its words, those before a faulting one standing; EVSIGC adds to COUNT, under AFTER once every earlier launch
has completed; EVWAITC goes on when COUNT ≥ target; IBCALL enters a buffer, at most three deep; PREDC skips k records when
(word ≠ 0) XOR SENSE is 0; LOOPC repeats or skips; FFENCE discards what was fetched; TSC writes the NCLK and launch counts;
SAVEC stops a frontier launch and waits for it. A fault stops the queue with the cause that R286 gives. -/
def Obligations.CommandRecords : Prop :=
  (∀ n (s : State), ∃ t, exec (.nopc n) s = .next t ∧ CmdDone s t n) ∧
  (∀ (src dst n : B64) (s : State), ∃ t, exec (.copyc src dst n) s = .next t ∧
    match s.hubRead s.cq.1 src.toNat n.toNat with
    | (.error _, u) => CmdStopped u t 3 .access
    | (.ok d, u) => match u.hubWrite u.cq.1 dst.toNat d with
      | (some _, v) => CmdStopped v t 3 .access
      | (none, v) => CmdDone v t 4) ∧
  (∀ (va : B64) ws (s : State), ∃ t, exec (.writec va ws) s = .next t ∧
    match s.hubWrite s.cq.1 va.toNat (ws.flatMap fun w => toBytes 8 w.toNat) with
    | (some _, u) => CmdStopped u t 4 .access
    | (none, u) => CmdDone u t (ws.length + 2)) ∧
  (∀ (after : Bool) (n : B32) (va : B64) (s : State), ∃ t, exec (.evsigc after n va) s = .next t ∧
    if after = true ∧ s.drained s.cq.1 s.cq.2 (drainBound s) = false then
      CmdWaits s t (.drained (drainBound s)) (.evsigc after n va)
    else match s.eventReach s.cq.1 va.toNat with
      | (.error c, u) => CmdStopped u t 5 c
      | (.ok pa, u) => CmdDone (u.hubMerge s.cq.1 va.toNat pa (toBytes 8 (u.mem.readNat pa 8 + n.toNat)) .atomic) t 2) ∧
  (∀ (va n : B64) (s : State), ∃ t, exec (.evwaitc va n) s = .next t ∧
    match s.eventReach s.cq.1 va.toNat with
    | (.error c, u) => CmdStopped u t 6 c
    | (.ok pa, u) =>
      let v := u.cross (cpDie s.cq.1) (homeDie pa)
      if n.toNat ≤ v.mem.readNat pa 8 then CmdDone (v.hubAcquire s.cq.1 pa) t 3
      else CmdWaits v t (.event pa (v.bigPage s.cq.1 va.toNat) n) (.evwaitc va n)) ∧
  (∀ (va n : B64) (s : State), ∃ t, exec (.ibcall va n) s = .next t ∧
    if 3 ≤ (ownQueue s).frames.length then CmdStopped s t 7 .nest
    else if n = 0 then CmdDone s t 3
    else (s.part s.cq.1).cseen ≤ (t.part s.cq.1).cseen ∧ QueueIs (readBy s t s.cq.1) t s.cq.1 s.cq.2 { ownQueue s with
      frames := { va := va.toNat, len := n.toNat } :: (ownQueue s).frames
      ahead := (ownQueue { t with cq := s.cq }).ahead, fixed := (ownQueue { t with cq := s.cq }).fixed }) ∧
  (∀ (sense : Bool) (k : B32) (va : B64) (s : State), ∃ t, exec (.predc sense k va) s = .next t ∧
    if va.toNat % 4 ≠ 0 then CmdStopped s t 8 .length
    else match s.hubRead s.cq.1 va.toNat 4 with
      | (.error _, u) => CmdStopped u t 8 .access
      | (.ok d, u) => ∃ v, CmdDone u v 2 ∧
        if (decide (ofBytes d ≠ 0) ^^ sense) = false then QueueIs v t s.cq.1 s.cq.2 ((v.queue s.cq.1 s.cq.2).setSkip k.toNat)
        else t = v) ∧
  (∀ (n : B32) (k : B64) (s : State), ∃ t, exec (.loopc n k) s = .next t ∧
    if (ownQueue s).loop ≠ none then CmdStopped s t 9 .nest
    else ∃ v, CmdDone s v 2 ∧ QueueIs v t s.cq.1 s.cq.2
      (if n = 0 then (ownQueue { v with cq := s.cq }).setSkip k.toNat
       else (ownQueue { v with cq := s.cq }).setLoop k.toNat n.toNat)) ∧
  (∀ (drain : Bool) (s : State), ∃ t, exec (.ffence drain) s = .next t ∧
    if drain = true ∧ s.drained s.cq.1 s.cq.2 (drainBound s) = false then CmdWaits s t (.drained (drainBound s)) (.ffence drain)
    else ∃ u v, u = (if drain then (s.hubSync s.cq.1).onPart s.cq.1 fun x => { x with cpts := max x.cpts x.relts } else s) ∧
      QueueIs u v s.cq.1 s.cq.2 { ownQueue s with ahead := [], fixed := [] } ∧ CmdDone v t 1) ∧
  (∀ (va : B64) (s : State), ∃ t, exec (.tsc va) s = .next t ∧
    match s.hubWrite s.cq.1 va.toNat (toBytes 8 s.nclk ++ toBytes 8 (s.part s.cq.1).count.toNat) with
    | (some _, u) => CmdStopped u t 11 .access
    | (none, u) => CmdDone u t 2) ∧
  (∀ (id : B32) (s : State), ∃ t, exec (.savec id) s = .next t ∧
    match (Tab.find (s.part s.cq.1).launches id.toNat).bind (·.frontier) with
    | none => CmdDone s t 1
    | some f => CmdWaits (if f.saving = true ∨ f.faulted = true ∨ s.frozen s.cq.1 id.toNat = true then s else s.startSave s.cq.1 id.toNat) t
        (.save id.toNat) (.savec id)) ∧
  (∀ p q pa big n (s : State), (s.queue p q).wait = some (.event pa big n) → n.toNat ≤ s.mem.readNat pa 8 →
    ∃ t, exec (.evwaitcWake p q) s = .next t ∧
      CmdDone ((({ s with cq := (p, q) } : State).cross (cpDie p) (homeDie pa)).hubAcquire p pa) t 3) ∧
  -- the place after a record of n bytes: in the queue, in a buffer, at a buffer's end, in a loop's body (R283, R285)
  (∀ (x : Queue) n, x.frames = [] → x.loop = none →
    x.leave n = { x with head := x.head + BitVec.ofNat 32 n, wait := none, pend := none }) ∧
  (∀ (x : Queue) n f r, x.frames = f :: r → x.loop = none → f.pos + n < f.len →
    x.leave n = { x with frames := { f with pos := f.pos + n } :: r, wait := none, pend := none }) ∧
  (∀ (x : Queue) n f r, x.frames = f :: r → (∀ y, x.loop = some y → y.depth ≤ r.length) → f.len ≤ f.pos + n →
    x.leave n = { x with frames := r }.leave 24) ∧
  -- in the body of a loop; a record of a buffer that the body calls is none of its records
  (∀ (x : Queue) n y, x.frames = [] → x.loop = some y → x.leave n =
    (if 1 < y.left then { x with head := x.head + BitVec.ofNat 32 n, loop := some { y with left := y.left - 1, depth := 0 }
                                 wait := none, pend := none }
     else if 1 < y.passes then { x with
       frames := y.frames, head := y.head, wait := none, pend := none
       loop := some { y with left := y.k, passes := y.passes - 1, depth := y.frames.length } }
     else { x with head := x.head + BitVec.ofNat 32 n, loop := none, wait := none, pend := none })) ∧
  (∀ (x : Queue) n f r y, x.frames = f :: r → x.loop = some y → y.depth ≤ r.length → f.pos + n < f.len →
    x.leave n = { x with frames := { f with pos := f.pos + n } :: r, wait := none, pend := none }) ∧
  (∀ (x : Queue) n f r y, x.frames = f :: r → x.loop = some y → r.length < y.depth → f.pos + n < f.len → 1 < y.left →
    x.leave n = { x with frames := { f with pos := f.pos + n } :: r, wait := none, pend := none
                         loop := some { y with left := y.left - 1, depth := r.length + 1 } }) ∧
  -- the causes' codes (R286), and what the hub's own accesses do (R254)
  ([.opcode, .length, .record, .stamp, .energy, .nest, .fetch, .prio, .event, .access] : List CmdCause).map CmdCause.code =
    [1, 2, 3, 4, 5, 6, 7, 8, 9, 10] ∧
  ∀ (s : State) p va pa d k, let t := s.hubMerge p va pa d k
    t.mem = s.mem.write pa d ∧ t.queue p = s.queue p ∧ (d ≠ [] → (t.leaseOf pa).1 ≤ (t.part p).cpts)

/-- R254, R285, R286, R288 to R290, R305: LAUNCH and FLAUNCH as command records. A launch that names no resource block and no
event and passes every check receives the next identifier, is entered with its queue's priority, after an acquire at .part, and
the queue goes on without waiting for it. A refused record stops the queue: RECORD for its bytes, STAMP for another target, PRIO
above the queue's. An FLAUNCH that passes every check while 16 frontier launches of its partition are active waits with what it
has read, and reads nothing again; with fewer, its launch is entered with its height map, its READY points queued in order, its
saved points to restore and STATE 1. For a fresh record (STATE 0) with no resource block and no event the checks are written
out. -/
def Obligations.LaunchCommands : Prop :=
  (∀ (ptr : Bool) (q : B32) ws (s : State), ∃ t, exec (.launchCommand ptr q ws) s = .next t ∧
    match s.launchBytes ptr ws with
    | (.error c, u) => CmdStopped u t 1 c
    | (.ok d, u) => match u.acceptLaunch u.cq.1 q.toNat d (u.part u.cq.1).cpts with
      | (.error c, v) => CmdStopped v t 1 c
      | (.ok _, v) => CmdDone v t (ws.length + 1)) ∧
  (∀ (ptr : Bool) (q : B32) ws (s : State), (∀ r pa va f, (ownQueue s).wait ≠ some (.frontierRoom r pa va f)) →
    ∃ t, exec (.flaunch ptr q ws) s = .next t ∧
    match s.launchBytes ptr ws with
    | (.error c, u) => CmdStopped u t 2 c
    | (.ok d, u) =>
      let va := (ws.getD (ws.length - 1) 0).toNat
      match u.checkFrontier u.cq.1 q.toNat d va with
      | (.error c, v) => CmdStopped v t 2 c
      | (.ok x, v) => FrontierAdmitted v t q x.1 x.2.1 va x.2.2 (.flaunch ptr q ws) (ws.length + 1)) ∧
  (∀ (ptr : Bool) (q : B32) ws (s : State) r pa va f, (ownQueue s).wait = some (.frontierRoom r pa va f) →
    ∃ t, exec (.flaunch ptr q ws) s = .next t ∧ FrontierAdmitted s t q r pa va f (.flaunch ptr q ws) (ws.length + 1)) ∧
  (∀ (q : B32) ws (s : State) h m u v,
    let d := (ws.take 16).flatMap fun w : B64 => toBytes 8 w.toNat
    let r := LaunchRec.of d
    let p := s.cq.1
    let va := (ws.getD (ws.length - 1) 0).toNat
    let map := (List.range r.ncol).map fun c => fieldAt m (4 * c) 4
    (∀ r pa va f, (ownQueue s).wait ≠ some (.frontierRoom r pa va f)) →
    LaunchRec.bytesOk d = true → r.frontierOk = true → r.res = 0 → r.hasFlex = false → r.event = 0 →
    r.stamp.toNat = Config.devid → r.prio ≤ (s.queue p q.toNat).prio →
    (∃ c ∈ s.coresOf p, r.weight ≤ bits (s.core c).budget.toNat 0 8) →
    (s.hubSync p).hubRead p va 64 = (.ok h, u) → State.headOk r (fieldAt d 72 6) h = true → fieldAt h 13 1 = 0 →
    fieldAt h 28 4 = 0 → u.hubRead p ((va + 64) % 2 ^ 64) (4 * r.ncol) = (.ok m, v) →
    (∀ w ∈ map, bits w 24 8 = 0 ∧ bits w 0 24 ≤ r.sweepExt) →
    ∃ t, exec (.flaunch false q ws) s = .next t ∧
      if 16 ≤ ((s.part p).launches.filter fun l => l.2.frontier.isSome).length then
        CmdWaits v t (.frontierRoom r none va ⟨h, map, []⟩) (.flaunch false q ws)
      else FrontierEntered v t p q.toNat r none va ⟨h, map, []⟩ (ws.length + 1)) ∧
  (∀ (q : B32) ws (s : State),
    let d := (ws.take 16).flatMap fun w : B64 => toBytes 8 w.toNat
    let r := LaunchRec.of d
    let p := s.cq.1
    let x := s.part p
    let id := (x.count.toNat + 1) % 2 ^ 32
    LaunchRec.bytesOk d = true → r.ndep = 0 → r.res = 0 → r.hasFlex = false → r.event = 0 → r.stamp.toNat = Config.devid →
    r.prio ≤ (s.queue p q.toNat).prio → (∃ c ∈ s.coresOf p, r.weight ≤ bits (s.core c).budget.toNat 0 8) →
    ∃ u t, exec (.launchCommand false q ws) s = .next t ∧ CmdDone u t (ws.length + 1) ∧ u = { s with parts := u.parts } ∧
      (∀ k, k ≠ p → u.part k = s.part k) ∧
      u.part p = { x with cpts := max x.cpts x.cseen, cseen := 0, count := x.count + 1, launches := (u.part p).launches } ∧
      (∀ k, k ≠ id → Tab.find (u.part p).launches k = Tab.find x.launches k) ∧
      Tab.find (u.part p).launches id = some
        { queue := q.toNat, lr := r, seq := x.count.toNat + 1, prio := (s.queue p q.toNat).prio, eff := (s.queue p q.toNat).prio
          eventBig := (s.hubSync p).bigPage p 0, cpts := max x.cpts x.cseen }) ∧
  (∀ (q : B32) ws (s : State), LaunchRec.bytesOk ((ws.take 16).flatMap fun w : B64 => toBytes 8 w.toNat) = false →
    ∃ t, exec (.launchCommand false q ws) s = .next t ∧ CmdStopped (s.hubSync s.cq.1) t 1 .record) ∧
  (∀ (s : State) p q (r : LaunchRec), r.stamp.toNat ≠ Config.devid → s.acceptCheck p q r = some .stamp) ∧
  (∀ (s : State) p q (r : LaunchRec), r.stamp.toNat = Config.devid → (s.queue p q).prio < r.prio →
    s.acceptCheck p q r = some .prio) ∧
  ∀ (s : State) p q (r : LaunchRec), r.stamp.toNat = Config.devid → r.prio ≤ (s.queue p q).prio → s.coresOf p ≠ [] →
    (∀ c ∈ s.coresOf p, bits (s.core c).budget.toNat 0 8 < r.weight) → s.acceptCheck p q r = some .energy

/-- R39, R240, R268, R275 to R277, R282 to R284, R286, R299, R307, R319, R321, R353: what a write of a register does. None
does anything but for its answer before boot is complete or in the viral state. A TAIL that is no multiple of 8 or beyond
the queue's size is ignored, as is a QRES that would bring a field's sum above 224; RUN := 1 clears FAULT and QFAULT; an
answer wakes the sleeper of an outstanding batch; CTX.RESET empties the queues, kills the blocks and drops what was saved;
a doorbell run is due on the lowest logical core of the partition; TLB_INV drops the translations and copies that match; a
register that holds what is written is read back so, its reserved bits 0, and misaligned writes do nothing. -/
def Obligations.RegisterWrites : Prop :=
  (∀ i (s : State), isHostRequest i → s.hostOpen = false →
    exec i s = .next (if s.viral = true ∧ isMemRequest i = true then s else turnedAway s)) ∧
  (∀ p q (v : B32) (s : State), s.hostOpen = true → ∃ t, exec (.qtailWrite p q v) s = .next t ∧
    let x := s.queue p (q % 16)
    if v.toNat % 8 = 0 ∧ (v - x.head).toNat ≤ 4096 * 2 ^ (if x.sz ≤ 8 then x.sz else 0) then
      QueueIs (readBy s t p) t p (q % 16) { x with tail := v, ahead := (t.queue p (q % 16)).ahead, fixed := (t.queue p (q % 16)).fixed }
    else t = s) ∧
  (∀ p q (s : State), s.hostOpen = true → ∃ t, exec (.queueResume p q) s = .next t ∧
    QueueIs s t p (q % 16) { s.queue p (q % 16) with
      run := true, fault := false, qfault := 0, ahead := [], fixed := [] }) ∧
  (∀ p q (v : B64) (s : State), s.hostOpen = true → ∃ t, exec (.qresWrite p q v) s = .next t ∧
    if ∀ i < 3, otherShares s p (q % 16) i + v.toNat / 2 ^ (8 * i) % 256 ≤ 224 then
      QueueIs s t p (q % 16) { s.queue p (q % 16) with res := v &&& 0xFFFFFF }
    else t = s) ∧
  -- FQ_ANSWER (R268, R282)
  (∀ p (v : B64) (s : State), s.hostOpen = true → Tab.find (s.part p).batches (v.toNat % 2 ^ 16) = none →
    exec (.fqAnswerWrite p v) s = .next s) ∧
  (∀ p (v : B64) pages b i k w (s : State), s.hostOpen = true → s.issue.on = false →
    Tab.find (s.part p).batches (v.toNat % 2 ^ 16) = some ⟨pages, [.wave b i]⟩ → s.blk? b = some k → s.wave? b i = some w →
    w.mode = .asleep (v.toNat % 2 ^ 16) → w.gear = .fast → ∃ t, exec (.fqAnswerWrite p v) s = .next t ∧
      t = { s with parts := t.parts, cores := t.cores, blocks := t.blocks } ∧ Tab.find (t.part p).batches (v.toNat % 2 ^ 16) = none ∧
      s.hostts ≤ t.pts k.core k.part ∧ s.pts k.core k.part ≤ t.pts k.core k.part ∧
      t.wave? b i = some (if v.getLsbD 16 then { w with mode := .run, gear := .slow 0 w.cutLanes pages }
        else { w with mode := .run, first := none, cutLanes := none })) ∧
  -- CTX.RESET (R275)
  (∀ p (s : State), s.hostOpen = true → ∃ t, exec (.contextReset p) s = .next t ∧ t.mem = s.mem ∧
    (t.part p).stopped = false ∧ (t.part p).saved = [] ∧ (t.part p).chunks = [] ∧
    (t.part p).queues = (s.part p).queues.map (fun q : Nat × Queue => (q.1, { q.2 with
      head := q.2.tail, fault := false, qfault := 0, frames := [], skip := 0, loop := none, wait := none, pend := none,
      ahead := [], fixed := [] })) ∧
    (∀ l ∈ (t.part p).launches, l.2.killed = true ∧ l.2.nextGang = l.2.lr.gangs) ∧
    (∀ b k, s.blk? b = some k → k.part = p → t.blk? b = none ∨ ∃ x, t.blk? b = some x ∧ x.killed = true) ∧
    ∀ c, ∀ h ∈ (t.core c).hpend, h.part ≠ p) ∧
  -- MBOX.DOOR (R276)
  (∀ p (s : State), s.hostOpen = true → (s.part p).mbox.getLsbD 0 = true → exec (.doorbell p) s = .next s) ∧
  (∀ p (s : State), s.hostOpen = true → (s.part p).mbox.getLsbD 0 = false → ∃ t, exec (.doorbell p) s = .next t ∧
    t = { s with parts := t.parts, cores := t.cores } ∧ t.part p = { s.part p with mbox := (s.part p).mbox ||| 1 } ∧
    ∀ c, ∃ e, e.length = 64 ∧ (t.core c).hpend = (s.core c).hpend ++
      (if (s.coresOf p).head? = some c then [⟨noBlock, 0, 0, e, 0xFFFE⟩] else [])) ∧
  -- TLB_INV (R240)
  (∀ p (v : B64) (s : State), s.hostOpen = true → ∃ t, exec (.tlbInvGo p v) s = .next t ∧
    (t.part p).tlbInv = (v &&& 0xFFFFFFFFFFFF0004) ||| 1 ∧ (∀ k, ∀ x ∈ (t.cluster k).tlb, x.part = p → tlbHits v.toNat x = false) ∧
    ∀ c, ∀ x ∈ (t.core c).lines, ∀ a pa cls w r d, x.2.st = .copy p a pa cls w r d → lineHits v.toNat a = false) ∧
  (∀ p (s : State), ∃ t, exec (.tlbInvComplete p) s = .next t ∧
    if (s.part p).tlbInv.getLsbD 0 = true ∧ s.tlbBusy p (s.part p).tlbInv.toNat = false then
      t.part p = { s.part p with tlbInv := (s.part p).tlbInv &&& ~~~1#64 }
    else t = s) ∧
  -- CORE_BUDGET, CLA and CLM (R39, R321)
  (∀ c (v : B32) (s : State), s.hostOpen = true → ∃ t, exec (.coreBudgetWrite c v) s = .next t ∧
    if c < 144 then t = { s with cores := t.cores, parts := t.parts } ∧ t.core c = { s.core c with budget := v &&& 0xFF } ∧
      (∀ d, d ≠ c → t.core d = s.core d) ∧ RetriesAll s t
    else t = s) ∧
  (∀ k (mask : Bool) (v : B64) (s : State), s.hostOpen = true → 36 ≤ k → exec (.clusterAssignWrite k mask v) s = .next s) ∧
  (∀ k (mask : Bool) (v : B64) (s : State), s.hostOpen = true → k < 36 → s.blocksOn k = [] →
    ∃ t, exec (.clusterAssignWrite k mask v) s = .next t ∧ t = { s with clusters := t.clusters, parts := t.parts } ∧
      t.cluster k = (if mask then { s.cluster k with clm := v } else { s.cluster k with cla := v &&& 0xFFFFFFFF000000BF }) ∧
      (∀ j, j ≠ k → t.cluster j = s.cluster j) ∧ RetriesAll s t) ∧
  -- PREEMPT (R307): with no room reserved yet, the blocks of the launch stand asked
  (∀ p (v : B64) (s : State), s.hostOpen = true → v.getLsbD 0 = false → ∃ t, exec (.preemptGo p v) s = .next t ∧
    OnlyPart s t p { s.part p with preempt := v &&& 0xFFFFFFFFFFFF0000 }) ∧
  (∀ p (v : B64) b k (s : State), s.hostOpen = true → v.getLsbD 0 = true → s.blocks = [(b, k)] → k.part = p → k.handler = false →
    k.launch.toNat = v.toNat / 2 ^ 32 → k.primary = true → k.killed = false → k.pre = none → k.ask = none →
    (∀ n, 0 < n → s.freeChunks p n = none) → ∃ t, exec (.preemptGo p v) s = .next t ∧
      t = { s with parts := t.parts, blocks := t.blocks } ∧
      t.part p = { s.part p with preempt := v &&& 0xFFFFFFFFFFFF0000, busy := [b] } ∧
      t.blk? b = some { k with ask := some (.launch, s.nclk + (v.toNat / 2 ^ 16 % 2 ^ 16 * 1024 + 2) / 3) }) ∧
  -- writes by CXL.io (R299, R319)
  (∀ f b o n (v : B64) (s : State), s.hostOpen = true → (n ≠ 4 ∧ n ≠ 8) ∨ o % n ≠ 0 ∨ 64 ≤ f →
    exec (.registerWrite f b o n v) s = .next s) ∧
  (∀ r ∈ plainRegs, ∀ p (v : B64) (s : State), s.hostOpen = true → p < 64 →
    ∃ t, exec (.registerWrite 0 2 (0x10000 * p + r.1) 8 v) s = .next t ∧
      t = { s with parts := t.parts } ∧ (∀ q, q ≠ p → t.part q = s.part q) ∧
      t.readReg 0 2 (0x10000 * p + r.1) 8 = some (v &&& r.2.1).toNat ∧ t.readReg p 0 r.1 8 = some (v &&& r.2.1).toNat) ∧
  (∀ r ∈ plainRegs, ∀ p (v : B64) (s : State), s.hostOpen = true → 0 < p → p < 64 →
    ∃ t, exec (.registerWrite p 0 r.1 8 v) s = .next t ∧
      if r.2.2 = true then t = s else t.readReg p 0 r.1 8 = some (v &&& r.2.1).toNat) ∧
  ∀ (v : B64) (s : State), s.hostOpen = true →
    ∃ t, exec (.registerWrite 0 4 0x43000 8 v) s = .next t ∧ t = { s with devnum := v.setWidth 8 }

/-- R34, R36, R40, R290, R291, R292: the launch engine deals the next gang of the launch whose turn it is, a launch of the
greatest priority and of its queue's launches the earliest, to the first cluster that admits it, else to the first where
descheduled waves can make room; rank j goes to the j-th lowest admitting core, and its waves start as R292 says; where
there is no room the launch waits. -/
def Obligations.GangsAreDealt : Prop :=
  (∀ p id (s : State), s.dealNext p ≠ some id → exec (.gangDeal p id) s = .next s) ∧
  (∀ p id (s : State), s.dealNext p = some id → ∃ l, (id, l) ∈ (s.part p).launches ∧ s.mayDeal p id l = true ∧
    ∀ x ∈ (s.part p).launches, s.mayDeal p x.1 x.2 = true →
      x.2.prio ≤ l.prio ∧ (x.2.prio = l.prio → x.2.queue = l.queue → l.seq ≤ x.2.seq)) ∧
  (∀ p id l g first n k cs (s : State), s.dealNext p = some id → Tab.find (s.part p).launches id = some l →
    s.nextGang p id l = some (g, first, n) → l.lr.plevel ≠ 2 → l.lr.w ≠ 0 →
    s.placeFor p n (State.need l.lr) false (s.tryOrder l.lastCluster) = some (k, cs, []) →
    ∃ t, exec (.gangDeal p id) s = .next t ∧ GangOn s t p id l g first cs ∧ Dealt s t p id k) ∧
  (∀ p id l g first n k cs (s : State), s.dealNext p = some id → Tab.find (s.part p).launches id = some l →
    s.nextGang p id l = some (g, first, n) → l.lr.plevel ≠ 2 → l.lr.w ≠ 0 →
    s.placeFor p n (State.need l.lr) false (s.tryOrder l.lastCluster) = none →
    s.roomFor p n l.eff (State.need l.lr) false (s.tryOrder l.lastCluster) = some (k, cs, []) →
    ∃ t, exec (.gangDeal p id) s = .next t ∧
      let u := cs.foldl (fun u c => u.freeFor c (State.need l.lr) l.eff) s
      GangOn u t p id l g first cs ∧ Dealt u t p id k) ∧
  (∀ p id l g first n (s : State), s.dealNext p = some id → Tab.find (s.part p).launches id = some l →
    s.nextGang p id l = some (g, first, n) →
    s.placeFor p n (State.need l.lr) (l.lr.plevel == 2) (s.tryOrder l.lastCluster) = none →
    s.roomFor p n l.eff (State.need l.lr) (l.lr.plevel == 2) (s.tryOrder l.lastCluster) = none →
    ∃ t, exec (.gangDeal p id) s = .next t ∧ t = { s with parts := t.parts } ∧
      Tab.find (t.part p).launches id = some { l with waiting := true }) ∧
  (∀ (s : State) p id (l : Launch), l.frontier = none → l.nextGang < l.lr.gangs →
    s.nextGang p id l = some (l.nextGang, l.nextGang * l.lr.gang, min l.lr.gang (l.lr.points - l.nextGang * l.lr.gang))) ∧
  (∀ (s : State) p n x order k cs, s.placeFor p n x false order = some (k, cs, []) → cs.length = n ∧ k ∈ order ∧
    (∀ c ∈ cs, s.clusterOf c = k ∧ s.admits c x = true) ∧
    ∀ j ∈ order.takeWhile (fun j => j ≠ k), s.gangCores p j n x = none) ∧
  ∀ (s : State) c (x : State.Need), s.admits c x = true →
    (s.blocks.filter fun y => y.2.core == c && !y.2.handler).foldl (fun n y => n + y.2.weight) 0 + x.weight ≤
      bits (s.core c).budget.toNat 0 8 ∧ x.lines ≤ s.freePinnable c ∧ s.usedRegs c + x.regs ≤ 131072

/-- R31, R43, R165, R188, R290, R295, R296, R303, R321: a block ends once its waves, copies and sequencer are done, and
its lines and registers are free, its copies answering until their slots are taken again; a launch completes once nothing
of it is left, adding 1 to COUNT, setting ERR where a block was killed and clearing OWNV, and waking every WAITCH on it; a
FLEX mark falls on the lowest VEC or the highest LOAD wave, and the windows start again; the oldest waiter gets a free
entry of the launch pool, and where the pool has starved its waiters a LAUNCH-STARVED record is written; a shared cluster
goes to the next partition once no other one's block is left on it. -/
def Obligations.EndsAndTurns : Prop :=
  (∀ b (s : State), (∀ k, s.blk? b = some k → s.blockOver b k = false) → exec (.blockEnd b) s = .next s) ∧
  (∀ b k (s : State), s.blk? b = some k → s.blockOver b k = true → k.frontier = false → NoneAsked s →
    ∃ t, exec (.blockEnd b) s = .next t ∧ t.blk? b = none ∧ (∀ c, c ≠ b → t.blk? c = s.blk? c) ∧
      (∀ x ∈ (t.core k.core).lines, ∀ sp ix, x.2.st ≠ .pinned b sp ix) ∧
      (t.core k.core).copies = (s.core k.core).copies ∧
      ∀ l, Tab.find (s.part k.part).launches k.launch.toNat = some l →
        ∃ m, Tab.find (t.part k.part).launches k.launch.toNat = some { l with relts := m, waiting := false } ∧
          l.relts ≤ m ∧ t.pts k.core k.part ≤ m) ∧
  (∀ p id (s : State), (∀ l, Tab.find (s.part p).launches id = some l → s.launchOver p id l = false) →
    exec (.launchComplete p id) s = .next s) ∧
  (∀ p id l (s : State), Tab.find (s.part p).launches id = some l → s.launchOver p id l = true → l.frontier = none →
    ∃ t, exec (.launchComplete p id) s = .next t ∧ Tab.find (t.part p).launches id = none ∧
      (∀ b k, s.blk? b = some k → k.part = p → ∀ i < k.waves.length, ∀ w, s.wave? b i = some w →
        t.wave? b i = some { w with waits := w.waits.map (endedWait id l.killed) }) ∧
      (∀ j, j ≠ id → Tab.find (t.part p).launches j = Tab.find (s.part p).launches j) ∧ l.relts ≤ (t.part p).relts ∧
      match l.eventPa with
      | none => t.mem = s.mem
      | some pa => t.mem = s.mem.write pa (toBytes 8 (s.mem.readNat pa 8 + 1) ++ s.mem.read (pa + 8) 4 ++
          toBytes 1 ((s.mem.readNat (pa + 12) 1 ||| (if l.killed then 1 else 0)) &&& 0xFD))) ∧
  (∀ b toLoad (s : State), (∀ k, s.blk? b = some k → State.flexDue k toLoad = false) → exec (.flexMark b toLoad) s = .next s) ∧
  (∀ b k toLoad (s : State), s.issue.on = false → s.blk? b = some k → State.flexDue k toLoad = true →
    ∃ i w t, exec (.flexMark b toLoad) s = .next t ∧ t = { s with blocks := t.blocks } ∧
      k.waves[i]? = some w ∧ w.flex = true ∧ w.isEnded = false ∧ w.role = (if toLoad then .vec else .load) ∧
      (∀ j v, k.waves[j]? = some v → v.flex = true → v.isEnded = false →
        v.role = (if toLoad then .vec else .load) → if toLoad then i ≤ j else j ≤ i) ∧
      t.blk? b = some { k with waves := k.waves.modify i fun v => { v with mark := true }, low := 0, high := 0 }) ∧
  (∀ p (s : State), s.starved p = false → exec (.launchStarved p) s = .next s) ∧
  (∀ p (s : State), s.starved p = true → s.poolQueue p = [] → ∃ t r, exec (.launchStarved p) s = .next t ∧
    OnlyPart s t p { s.part p with recWait := (s.part p).recWait ++ [⟨r, none, none⟩], fullSince := none } ∧
    r.length = 64 ∧ r.head? = some (BitVec.ofNat 8 FClass.launchStarved.code)) ∧
  (∀ p (s : State), s.poolFull p = true ∨ s.poolQueue p = [] → exec (.poolEntryFreed p) s = .next s) ∧
  (∀ p w (s : State), s.poolFull p = false → State.oldest (s.poolQueue p) = some w →
    exec (.poolEntryFreed p) s = .next (s.settleWaiter p w true)) ∧
  (∀ q w, State.oldest q = some w → ∃ n, (n, w) ∈ q ∧ ∀ x ∈ q, n ≤ x.1) ∧
  (∀ (s : State) p k i l (ok : Bool) img, (s.part p).saved[k]? = some img → ∃ t, t = s.settleWaiter p (.away k i l) ok ∧
    (t.part p).saved[k]? = some { img with
      waiters := img.waiters.filter fun z => z.2.1 != i, verdicts := img.verdicts ++ [(i, ok)] }) ∧
  (∀ k (s : State), s.sliceOver k = false ∨ s.nextSlice k (s.cluster k).cur = none → exec (.sliceExpiry k) s = .next s) ∧
  ∀ k q (s : State), s.sliceOver k = true → s.nextSlice k (s.cluster k).cur = some q → s.strangers k q = [] →
    ∃ t, exec (.sliceExpiry k) s = .next t ∧ t = { s with clusters := t.clusters, parts := t.parts } ∧
      (∀ j, j ≠ k → t.cluster j = s.cluster j) ∧ t.cluster k = { s.cluster k with
        cur := some q, until_ := s.nclk + max 1 ((s.cluster k).cla.toNat / 2 ^ 32) * Config.nclkPerUs }

/-- R27, R194, R201, R202, R205, R223, R254, R296, R326, R328: a word that waits returns when what it waits for is there,
writes its scalar and its predicate, and its fibres go on after it; a GWAIT, EVWAIT or WAITCH acquires at the logical time of
its gate, event or child. None returns before. -/
def Obligations.WaitsReturn : Prop :=
  (∀ b i (s : State), (s.openWaits b i).find? bwaitOver = none → exec (.bwaitWake b i) s = .next s) ∧
  (∀ b i x ea q pd v (s : State), (s.openWaits b i).find? bwaitOver = some x → x.kind = .bwait ea q pd → x.woken = some v →
    ∃ t, exec (.bwaitWake b i) s = .next t ∧ Returned s t b i x none (some (pd, v))) ∧
  (∀ b i (s : State), (s.openWaits b i).find? (nbwaitOver s b i) = none → exec (.nbwaitWake b i) s = .next s) ∧
  (∀ b i x k w (s : State), (s.openWaits b i).find? (nbwaitOver s b i) = some x → x.kind = .nbwait k → s.wave? b i = some w →
    ∃ t, exec (.nbwaitWake b i) s = .next t ∧ Returned s t b i x none none ∧
      (t.wave? b i).map (·.wp) = some (w.wp ^^^ (1#16 <<< k))) ∧
  (∀ b i (s : State), (s.openWaits b i).find? (rtakeOver s b) = none → exec (.rtakeWake b i) s = .next s) ∧
  (∀ b i x k d key err (s : State), (s.openWaits b i).find? (rtakeOver s b) = some x → x.kind = .rtake k d →
    s.headFull b k = some (key, err) → k < (s.blk b).rings.length → (∃ c, s.blk? b = some c) →
    ∃ t, exec (.rtakeWake b i) s = .next t ∧
      Returned s t b i x (some (d, BitVec.ofNat 64 (slotAddr (s.ring b k) (s.blk b).pool key + if err then 2 ^ 63 else 0))) none ∧
      t.ring b k = { s.ring b k with st := (s.ring b k).st.insert key .taken, queue := (s.ring b k).queue.drop 1 }) ∧
  (∀ b i (s : State), (s.openWaits b i).find? (racqOver s b) = none → exec (.racqWake b i) s = .next s) ∧
  (∀ b i x k d key (s : State), (s.openWaits b i).find? (racqOver s b) = some x → x.kind = .racq k d →
    s.acqSlot b k = some key → k < (s.blk b).rings.length → (∃ c, s.blk? b = some c) →
    ∃ t, exec (.racqWake b i) s = .next t ∧
      Returned s t b i x (some (d, BitVec.ofNat 64 (slotAddr (s.ring b k) (s.blk b).pool key))) none ∧
      Tab.find (t.ring b k).st key = some .held ∧ (t.ring b k).queue = (s.ring b k).queue ++ [key]) ∧
  (∀ b i (s : State), s.waitbOver b i = none → exec (.waitbWake b i) s = .next s) ∧
  (∀ b i x (s : State), s.waitbOver b i = some x →
    ∃ t, exec (.waitbWake b i) s = .next t ∧ Returned s t b i x none none) ∧
  (∀ b i (s : State), (s.openWaits b i).find? (gwaitOver s) = none → exec (.gwaitWake b i) s = .next s) ∧
  (∀ b i x g pd v (s : State), NoTwin s b → (s.openWaits b i).find? (gwaitOver s) = some x → x.woken = some v →
    ((∃ n, x.kind = .gwait g n pd) ∨ x.kind = .gqueued g pd) →
    ∃ t, exec (.gwaitWake b i) s = .next t ∧ Returned s t b i x none (some (pd, v)) ∧
      (v = true → (s.gate g).ts ≤ t.pts (s.blk b).core (s.blk b).part)) ∧
  (∀ b i (s : State), (s.openWaits b i).find? (evwaitOver s) = none → exec (.evwaitWake b i) s = .next s) ∧
  (∀ b i x ea pa big n pd (s : State), NoTwin s b → (s.openWaits b i).find? (evwaitOver s) = some x → x.kind = .evwait ea pa big n pd →
    ∃ t, exec (.evwaitWake b i) s = .next t ∧ Returned s t b i x none (some (pd, !(s.mem.readNat (pa + 12) 1).testBit 0)) ∧
      (s.leaseOf pa).1 ≤ t.pts (s.blk b).core (s.blk b).part) ∧
  (∀ b i (s : State), (s.openWaits b i).find? waitchOver = none → exec (.waitchWake b i) s = .next s) ∧
  (∀ b i x id pd v (s : State), NoTwin s b → (s.openWaits b i).find? waitchOver = some x → x.kind = .waitch id pd →
    x.woken = some v → ∃ t, exec (.waitchWake b i) s = .next t ∧ Returned s t b i x none (some (pd, v)) ∧
      (s.part (s.blk b).part).relts ≤ t.pts (s.blk b).core (s.blk b).part) ∧
  (∀ b k (s : State), s.blk? b = some k → ∃ t, exec (.mwaitWake b) s = .next t ∧
    match k.seqr.st with
    | .waiting nb => if k.seqr.woken = true ∨ (k.nb.getD nb {}).phase ≠ k.seqr.sp.getLsbD nb then
        t = s.onBlk b fun k => { k with seqr := { k.seqr with
          st := .running, woken := false, sp := k.seqr.sp ^^^ (1#16 <<< nb), wpos := k.seqr.wpos + 1 } }
      else t = s
    | _ => t = s)

/-- R34, R307 to R314: at the end of the grace the waves of a pending block that have not stopped are rolled back to their
checkpoints and stop as FORCED, unless the context is STOPPED, the sequencer FAULTED or a wave stopped for the handler; a
block whose waves have all stopped is closed (no copy of it starts any more), and once its running copies are done its
image is written to the chunks reserved for it and it leaves its core; a gang is restored where it is admitted, with the
registers of its images; a descheduled wave resumes, or stands stopped where its block has been stopped meanwhile, with
the registers of its phase record. -/
def Obligations.SavesAndRestores : Prop :=
  (∀ b k (s : State), s.blk? b = some k → (s.stopHeld b = true ↔ (s.part k.part).stopped = true ∨ k.seqr.st = .faulted ∨
    ∃ i < k.waves.length, ∃ w, s.wave? b i = some w ∧ w.mode = .stopped .handler)) ∧
  (∀ b (s : State), (∀ k p, s.blk? b = some k → k.pre = some p → s.nclk < p.deadline ∨ s.stopHeld b = true) →
    exec (.graceExpiry b) s = .next s) ∧
  (∀ b k p i w (s : State), s.blk? b = some k → k.pre = some p → p.deadline ≤ s.nclk → s.stopHeld b = false →
    i < k.waves.length → s.wave? b i = some w →
    ∃ t x, exec (.graceExpiry b) s = .next t ∧ t.wave? b i = some x ∧
      (w.isLoose = true → (∀ c, w.mode ≠ .desched c) →
        x.mode = .stopped (.preempt 3) ∧ x.held = w.heldIn ∧ x.shadows = [] ∧ x.arch.v = w.entry.v ∧ x.arch.sc = w.entry.sc ∧
          x.arch.flags = w.entry.flags ∧ x.arch.lat = [] ∧
          x.arch.fib = w.entry.fib.mapIdx fun l f => { f with
            wait := 0, run := 0
            blocked := if w.waits.any (fun y => State.WaitKind.stands y.kind && y.eff.contains l) then f.blocked else none }) ∧
      ((w.isLoose = false ∨ ∃ c, w.mode = .desched c) → x = { w with waits := x.waits })) ∧
  (∀ b (s : State), s.allStopped b = false → exec (.blockSave b) s = .next s) ∧
  (∀ b k p (s : State), s.blk? b = some k → k.twin = none → s.allStopped b = true → k.pre = some p → p.closed = false →
    ∃ t x, exec (.blockSave b) s = .next t ∧ t.blk? b = some x ∧ x.pre = some { p with closed := true } ∧
      ∀ c ∈ (t.core k.core).copies, c.2.blk = b → c.2.st ≠ .queued) ∧
  (∀ b k p (s : State), s.blk? b = some k → k.twin = none → s.allStopped b = true → k.pre = some p → p.closed = true →
    s.copiesRun b = true → exec (.blockSave b) s = .next s) ∧
  (∀ b k p (s : State), s.blk? b = some k → k.twin = none → s.allStopped b = true → k.pre = some p → p.closed = true →
    s.copiesRun b = false → p.why ≠ .savec → p.why ≠ .rebase →
    (∀ l ∈ (s.part k.part).launches, ∀ f, l.2.frontier = some f → f.saving = false) →
    ∃ u t x, u = s.settleStores b ∧ exec (.blockSave b) s = .next t ∧ t.blk? b = none ∧
      t.mem = u.mem.write (s.chunkPa k.part p.chunk) (u.blockImage b) ∧ (t.part k.part).saved = (s.part k.part).saved ++ [x] ∧
      x.blk = b ∧ x.launch = k.launch ∧ x.lin = k.lin ∧ x.gang = k.gang ∧ x.rank = k.rank ∧ x.chunk = p.chunk ∧
      x.chunks = p.chunks ∧ x.addr = s.chunkPa k.part p.chunk ∧ x.why = p.why) ∧
  (∀ p i (s : State), (s.part p).saved[i]? = none → exec (.blockRestore p i) s = .next s) ∧
  (∀ p i x l (s : State), (s.part p).saved[i]? = some x → Tab.find (s.part p).launches x.launch.toNat = some l →
    s.seating p x l = none → exec (.blockRestore p i) s = .next s) ∧
  (∀ p i x l d core (s : State), (s.part p).saved[i]? = some x → Tab.find (s.part p).launches x.launch.toNat = some l →
    s.seating p x l = some ⟨[(x, d, core)], []⟩ → NoneAsked s → fieldAt d 22 2 = 0 →
    ∃ t k, exec (.blockRestore p i) s = .next t ∧ x ∉ (t.part p).saved ∧ t.blk? s.nextBlk = some k ∧ k.part = p ∧
      k.launch = BitVec.ofNat 32 x.launch.toNat ∧ k.lin = x.lin ∧ k.core = core ∧ k.waves.length = fieldAt d 10 1 % 16 + 1 ∧
      ∀ j w, k.waves[j]? = some w →
        let img := d.drop ((State.waveOffsets d k.waves.length 640).getD j 0)
        if fieldAt img 3 1 = 4 then w.mode = .ended
        else w.mode = .run ∧ w.arch = { archOf img with fseq := x.fseqs.getD j 0 } ∧ w.entry = w.arch) ∧
  -- what a wave image holds is what it gives back (R312, R314)
  (∀ (k : Block) (w : Wave) r i (y : Wave), w.isEnded = false → stopKind w < 4 →
    let x := waveOf r i (waveImage k w) y
    x.mode = y.mode ∧ x.entry = x.arch ∧ (∀ j < 64, Tab.get 0 x.arch.sc j = Tab.get 0 w.arch.sc j) ∧
      x.arch.flags = w.arch.flags ∧ x.wp = w.wp ∧
      ∀ l < 32, (w.arch.fibre l).pc.sl < 4 → (w.arch.fibre l).wb < 2 ^ 16 → x.arch.fibre l =
        { st := (w.arch.fibre l).st, pc := (w.arch.fibre l).pc, pred := (w.arch.fibre l).pred ||| 1, wb := (w.arch.fibre l).wb }) ∧
  (∀ b i (s : State), (∀ x, s.nextDesched (s.blk b).core = some x → x.1 ≠ b ∨ x.2.1 ≠ i) →
    exec (.waveReschedule b i) s = .next s) ∧
  ∀ b i n k w (s : State), s.nextDesched (s.blk b).core = some (b, i, n, k, w) → s.wave? b i = some w → NoneAsked s →
    ∃ t, exec (.waveReschedule b i) s = .next t ∧
      let a := { archOf (s.mem.read (s.chunkPa k.part n) (1088 + 128 * k.w)) with fseq := w.arch.fseq }
      t.wave? b i = some { w with
        mode := (match w.stopAs with
          | some y => .stopped y
          | none => .run)
        stopAs := none, arch := a, entry := a }

/-- R153, R154, R156, R157, R264, R266, R269, R270, R276, R279, R368, R370: the events of a running wave. An implicit cut
commits the region: after 4,096 packets, where hold space, shadows or renaming is low (P0 and P1), where a P2 wave holds
12 KiB. At the end of a scout the wave rolls back and runs again at full speed, sleeps on a fault batch, or goes into the
slow gear. The slow gear ends where a cut would be executed, with a VANISHED record where a fault had been met and does
not recur; 2^20 of its steps kill the block with a NO-CONVERGE record. Of waves that all wait for shadow sectors the
youngest rolls back. -/
def Obligations.CutsAndGears : Prop :=
  (∀ b i k v (s : State), LoneWave s b i k v → v.gear = .fast → v.mode = .run → 4096 ≤ v.pkts → v.bound = true →
    ∃ t, exec (.packetCountCut b i) s = .next t ∧ CutTaken s t b i k v) ∧
  (∀ b i (s : State), (∀ v, s.wave? b i = some v → v.gear ≠ .fast ∨ v.mode ≠ .run ∨ v.pkts < 4096 ∨ v.bound = false) →
    exec (.packetCountCut b i) s = .next s) ∧
  (∀ b i k v (s : State), LoneWave s b i k v → inScout v = false → v.mode = .run → k.plevel ≠ 2 → v.bound = true →
    ∃ t, exec (.lowResourceCut b i) s = .next t ∧ CutTaken s t b i k v) ∧
  (∀ b i (s : State), (∀ v, s.wave? b i = some v → inScout v = true ∨ v.mode ≠ .run ∨ v.bound = false ∨ (s.blk b).plevel = 2) →
    exec (.lowResourceCut b i) s = .next s) ∧
  (∀ b i k v (s : State), LoneWave s b i k v → inScout v = false → v.mode = .run → k.plevel = 2 → v.bound = true →
    12288 ≤ v.held.foldl (fun n h => n + h.data.length) 0 → ∃ t, exec (.holdQuotaCut b i) s = .next t ∧ CutTaken s t b i k v) ∧
  (∀ b i (s : State), (∀ v, s.wave? b i = some v → inScout v = true ∨ v.mode ≠ .run ∨ v.bound = false ∨ (s.blk b).plevel ≠ 2 ∨
      v.held.foldl (fun n h => n + h.data.length) 0 < 12288) → exec (.holdQuotaCut b i) s = .next s) ∧
  -- SCOUT_END (R264)
  (∀ b i (s : State), (∀ v, s.wave? b i = some v → inScout v = false) → exec (.scoutEnd b i) s = .next s) ∧
  (∀ b i k v (s : State), LoneWave s b i k v → inScout v = true → ∃ t x, exec (.scoutEnd b i) s = .next t ∧
    t.wave? b i = some x ∧ RolledBack v x ∧ t.mem = s.mem ∧
    match v.first with
    | none => x.gear = .fast ∧ x.mode = v.mode
    | some f =>
      if f.cls = .notPresent then x.gear = .fast ∧ x.mode = .asleep (s.part k.part).batchNo ∧
        Tab.find (t.part k.part).batches (s.part k.part).batchNo ≠ none ∧
        (t.part k.part).recWait.length = (s.part k.part).recWait.length + 1
      else x.gear = .slow 0 v.cutLanes [] ∧ x.mode = v.mode) ∧
  -- SLOW_GEAR_STEP (R269, R270)
  (∀ b i (s : State), (∀ v, s.wave? b i = some v → (∀ n c f, v.gear ≠ .slow n c f) ∨ v.mode ≠ .run) →
    exec (.slowGearStep b i) s = .next s) ∧
  (∀ b i k v n ls f (s : State), LoneWave s b i k v → v.gear = .slow n (some ls) f → v.mode = .run →
    (∀ l ∈ ls, (v.arch.fibre l).st ≠ .live) → ∃ t x, exec (.slowGearStep b i) s = .next t ∧ t.wave? b i = some x ∧
      x.gear = .fast ∧ x.first = none ∧ x.cutLanes = none ∧ x.held = v.held ∧
      x.arch = { v.arch with vanished := v.arch.vanished || v.first.isSome } ∧ x.mode = .run ∧ t.mem = s.mem ∧
      (t.core k.core).vanishCnt = (s.core k.core).vanishCnt + (if v.first.isSome then 1 else 0) ∧
      (t.part k.part).recWait.length = (s.part k.part).recWait.length + (if v.first.isSome then 1 else 0)) ∧
  (∀ b i k v n f lo l (s : State), LoneWave s b i k v → v.gear = .slow n none f → v.mode = .run →
    starved v.arch (s.readySlots b v) = none → lowestPc v.arch (s.readySlots b v) = some lo →
    (s.readySlots b v).find? (fun l => (v.arch.fibre l).pc == lo) = some l →
    (∀ g ∈ s.peekGroup b lo, (g.raw.map Instr.oneStep).getD false = false) → (v.arch.fibre l).pc = lo →
    exec (.slowGearStep b i) s = .next (
      if isCutGroup k.pre.isSome (State.bundleOf k b i v lo [l] (s.peekGroup b lo)) (s.peekGroup b lo) = true then s.endGear b i lo
      else s.openAt b i lo [l])) ∧
  (∀ b i k v pc (s : State), LoneWave s b i k v →
    let t := s.endGear b i pc
    let n := if v.first.isSome then 1 else 0
    Committed s t b i k v ∧ (∃ x, t.wave? b i = some x ∧ x.gear = .fast ∧ x.first = none ∧ x.cutDone = some pc ∧ x.held = [] ∧
      x.shadows = [] ∧ x.pkts = 0 ∧ x.mode = v.mode ∧
      x.arch = { v.arch with flags := orFlags v.arch.flags v.engFl, vanished := v.arch.vanished || v.first.isSome }) ∧
    (t.core k.core).vanishCnt = (s.core k.core).vanishCnt + n ∧
    ((∀ h ∈ v.held, h.cls ≠ .loc) → (t.part k.part).recWait.length = (s.part k.part).recWait.length + n)) ∧
  (∀ b i k v n ls f m r (s : State), LoneWave s b i k v → v.gear = .slow n (some ls) f → v.mode = .run →
    ls.filter (fun l => (v.arch.fibre l).st == .live) = m :: r →
    (∀ g ∈ s.peekGroup b (v.arch.fibre m).pc, (g.raw.map Instr.oneStep).getD false = false) →
    exec (.slowGearStep b i) s = .next (s.openAt b i (v.arch.fibre m).pc [m])) ∧
  (∀ b i k v pc live packet u (s : State), s.blk? b = some k → s.wave? b i = some v → inScout v = false →
    s.fetchPacket b true pc.ix = (.ok packet, u) →
    let ws := groupOf none (groupRaw (packet.drop pc.sl) pc.sl)
    let cut := isCutGroup k.pre.isSome (State.bundleOf k b i v pc live ws) ws
    (cut = false ∨ Wave.isSlow v = true ∨ v.cutDone = some pc) →
    let t := s.openAt b i pc live
    -- an M-pipe word waits for an entry of the operand log (R266)
    (cut = false → ws.any (GWord.isMem k.w) = true → u.oplogRoom b i v = false →
      (checkGroup k.w k.handler ws (State.bundleOf k b i v pc live ws)).bad = false →
      t = u.onWave b i fun v => { v with hold := some .oplog }) ∧
    ((ws.any (GWord.isMem k.w) = false ∨ u.oplogRoom b i v = true) → t.issue.on = true ∧ t.issue.blk = b ∧ t.issue.wv = i ∧ t.issue.pc = pc ∧ t.issue.live = live ∧ t.issue.old = v.arch ∧
      t.issue.cut = cut ∧ t.issue.cur = { v with arch := { v.arch with lat := t.issue.cur.arch.lat } } ∧ (cut = false → t.issue.cur = v) ∧
      (cut = true → ∀ l ∈ t.issue.lanes, ∀ n < 4, Tab.find t.issue.cur.arch.lat (4 * l + n) = none) ∧ t.blocks = u.blocks ∧
      t.mem = u.mem)) ∧
  -- NO_CONVERGE (R270)
  (∀ b i (s : State), (∀ v, s.wave? b i = some v → ∀ n c f, v.gear = .slow n c f → n < 2 ^ 20) →
    exec (.noConverge b i) s = .next s) ∧
  (∀ b i k v n c f (s : State), LoneWave s b i k v → v.gear = .slow n c f → 2 ^ 20 ≤ n → ∃ t r x, exec (.noConverge b i) s = .next t ∧
    (t.part k.part).recWait = (s.part k.part).recWait ++ [⟨r, none, some b⟩] ∧
    r.head? = some (BitVec.ofNat 8 FClass.noConverge.code) ∧ t.wave? b i = some x ∧ x.held = v.heldIn ∧
    x.mode = (match v.mode with
      | .run | .asleep _ => .stopped .record
      | m => m) ∧
    (t.blk? b).map (·.doomed) = some true) ∧
  -- SHADOW_DEADLOCK_ROLLBACK (R368)
  (∀ c (s : State), (∃ x ∈ s.shadowHolders c, ∀ n, Wave.shadowWait x.2.2.2 = some n → s.shadowRoom c n x.2.2.2 = true) ∨
    s.shadowHolders c = [] → exec (.shadowDeadlockRollback c) s = .next s) ∧
  (∀ c b i k v (s : State), LoneWave s b i k v →
    (∀ x ∈ s.shadowHolders c, ∃ n, Wave.shadowWait x.2.2.2 = some n ∧ s.shadowRoom c n x.2.2.2 = false) →
    youngest (s.shadowHolders c) = some (b, k, i, v) → ∃ t x, exec (.shadowDeadlockRollback c) s = .next t ∧
      t.wave? b i = some x ∧ RolledBack v x ∧ x.gear = .slow 0 v.cutLanes [] ∧ x.first = none) ∧
  ∀ l b k i v, youngest l = some (b, k, i, v) → (b, k, i, v) ∈ l ∧ ∀ x ∈ l, x.2.2.2.age ≤ v.age

/-- R267, R271, R273, R274, R276: the first record that waits is written at FQ_TAIL once EN = 1 and the queue is not FULL,
with its SEQ; TAIL moves past its entries, an interrupt of vector 0 goes out, a handler run becomes due for the wave that
stopped, a block that the record kills is killed. A handler run is one wave of one LIVE fibre in wave slot 63, at packet 0
of the code that HANDLER names, with s0 the record's index and the record in the save registers; a doorbell's request of
no command of the table is answered with STATUS 1. -/
def Obligations.FaultQueueAndHandler : Prop :=
  (∀ p (s : State), (s.part p).recWait = [] ∨ (s.part p).fqEn = false ∨ (s.part p).fqFull = true →
    exec (.faultRecordWrite p) s = .next s) ∧
  (∀ p r rest (s : State), (s.part p).recWait = r :: rest → (s.part p).fqEn = true → (s.part p).fqFull = false →
    r.data.length % 64 = 0 → r.data.length / 64 ≤ (s.part p).fqSize → ∃ t, exec (.faultRecordWrite p) s = .next t ∧
      let x := s.part p
      let base := x.fqBase.toNat / 2 ^ 12 % 2 ^ 40 * 2 ^ 12
      let d := sequenced s p r.data
      (∀ j < r.data.length, t.mem.readByte (base + 64 * ((x.fqTail.toNat + j / 64) % x.fqSize) + j % 64) = d.getD j 0) ∧
      (∀ a, (a < base ∨ base + 64 * x.fqSize ≤ a) → t.mem.readByte a = s.mem.readByte a) ∧
      (t.part p).fqTail = x.fqTail + BitVec.ofNat 32 (r.data.length / 64) ∧ (t.part p).recSeq = (x.recSeq + 1) % 65536 ∧
      t.msi = s.msi ++ [(p, 0)] ∧
      (r.kills = none → (∃ l, (t.part p).recWait = rest ++ l ∧ ((∀ k, (s.sector k).bad = false) → l = [])) ∧ t.blocks = s.blocks ∧ ∀ c, (t.core c).hpend = (s.core c).hpend ++
        (match r.handler with
         | some (k, h) => if c = k then [{ h with index := x.fqTail.toNat, entry := d.take 64 }] else []
         | none => [])) ∧
      ∀ b k, r.kills = some b → s.blk? b = some k → ∃ y, t.blk? b = some y ∧ y.killed = true ∧
        (s.issue.on = false → k.killed = false → ∀ w ∈ y.waves, w.mode = .ended)) ∧
  (∀ (x : Part), x.fqSize = 2 ^ (if 6 ≤ x.fqLog2 ∧ x.fqLog2 ≤ 15 then x.fqLog2 else 6) ∧
    (x.fqFull = true ↔ x.fqSize - 6 < (x.fqTail - x.fqHead).toNat)) ∧
  (∀ c (s : State), s.nextHandler c = none → exec (.handlerRunStart c) s = .next s) ∧
  (∀ c (s : State), (s.core c).hrun ≠ none → s.nextHandler c = none) ∧
  ∀ c h (s : State), s.nextHandler c = some h → ∃ t k w, exec (.handlerRunStart c) s = .next t ∧
    h ∈ (s.core c).hpend ∧ (s.part h.part).stopped = false ∧
    (∃ v, t = { v with cores := t.cores, blocks := t.blocks, nextBlk := s.nextBlk + 1, nextAge := s.nextAge + 1 } ∧
      let cmd := (s.mem.readByte ((s.part h.part).mbox.toNat / 2 ^ 12 % 2 ^ 40 * 2 ^ 12 + 4)).toNat
      if h.code = 0xFFFE ∧ ¬(1 ≤ cmd ∧ cmd ≤ 10) then Replied s v h.part 1 [] else v = s) ∧
    (t.core c).hrun = some (s.nextBlk, h) ∧ (t.core c).hpend = (s.core c).hpend.erase h ∧
    (∀ i < 8, Tab.get 0 (t.core c).hsave i = BitVec.ofNat 64 (ofBytes ((h.entry.drop (8 * i)).take 8))) ∧
    t.blk? s.nextBlk = some k ∧ k.handler = true ∧ k.part = h.part ∧ k.core = c ∧ k.waves = [w] ∧
    k.codeBase = (s.part h.part).handler.toNat / 64 * 64 ∧ k.w = 8 * ((s.part h.part).handler.toNat % 8 + 1) ∧ w.slot = 63 ∧
    (∀ j, Tab.get 0 w.arch.sc j = if j = 0 then BitVec.ofNat 64 h.index else 0) ∧
    w.arch.fib = { st := .live } :: List.replicate 31 {} ∧ w.entry = w.arch ∧ w.arch.v = []

/-- R276: the monitor's commands. HALT asks every running wave of the launch (0: of all) to stop at its next cut; RESUME and
STEP let a stopped wave go on; READREG and WRITEREG access a stopped wave's registers; READMEM and WRITEMEM at most 2,016
bytes; SETBKPT puts a BKPT in place of a packet's first word and CLRBKPT puts the word back; QUERY gives CTX, FQ_TAIL and
the stopped waves. Each replies with STATUS 0, 1 for a bad length, 2 for a fault of the access, or 3 for a wave that is not
stopped. -/
def Obligations.MailboxCommands : Prop :=
  (∀ p (n : B64) (s : State), ∃ t, exec (.mboxHalt p n) s = .next t ∧ (∃ u, u.mem = s.mem ∧ u.parts = s.parts ∧ Replied u t p 0 []) ∧
    ∀ b k i w, s.issue.on = false → s.blk? b = some k → (∀ x ∈ s.blocks, x.1 = b → x.2 = k) → k.waves[i]? = some w → t.wave? b i =
      if k.part = p ∧ k.handler = false ∧ (n = 0 ∨ k.launch.toNat = n.toNat) ∧ w.isLoose = true then some { w with stopReq := true }
      else some w) ∧
  (∀ p c n step (s : State),
    let i : Instr := if step then .mboxStep p c n else .mboxResume p c n
    (s.mboxWave p c n = none → ∃ t, exec i s = .next t ∧ Replied s t p 3 []) ∧
    ∀ b j v, s.mboxWave p c n = some (b, j) → s.wave? b j = some v →
      Restarts s b j step v ∧ ∃ t, exec i s = .next t ∧ Replied (settled s b j step v) t p 0 []) ∧
  (∀ p c n sel r l (s : State), (s.mboxWave p c n = none → ∃ t, exec (.mboxReadreg p c n sel r l) s = .next t ∧ Replied s t p 3 []) ∧
    ∀ b j v, s.mboxWave p c n = some (b, j) → s.wave? b j = some v → r < 128 → l < 32 →
      ∃ t, exec (.mboxReadreg p c n sel r l) s = .next t ∧ Replied s t p 0 (toBytes 8 (match sel with
        | 0x20 => (Tab.get 0 v.arch.sc (r % 64)).toNat
        | 0x21 => if r < (s.blk b).w then (Tab.get 0 v.arch.v ((v.arch.fibre l).wb + r)).toNat else 0
        | 0x22 => (v.arch.fibre l).pred.toNat ||| 1
        | 0x23 => tpcWord (v.arch.fibre l)
        | _ => s.mboxRead c b j sel r l))) ∧
  (∀ p c n sel r l (d : B64) (s : State),
    (s.mboxWave p c n = none → ∃ t, exec (.mboxWritereg p c n sel r l d) s = .next t ∧ Replied s t p 3 []) ∧
    ∀ b j v, s.mboxWave p c n = some (b, j) → s.wave? b j = some v → r < 128 → l < 32 → sel < 0x24 → 0x20 ≤ sel →
      ∃ u t x, exec (.mboxWritereg p c n sel r l d) s = .next t ∧ Replied u t p 0 [] ∧ u.mem = s.mem ∧ u.parts = s.parts ∧
        t.wave? b j = some (if sel = 0x23 then State.trimWaits { v with arch := x } else { v with arch := x }) ∧ match sel with
        | 0x20 => x = { v.arch with sc := x.sc } ∧ ∀ k, Tab.get 0 x.sc k = if k = r % 64 then d else Tab.get 0 v.arch.sc k
        | 0x21 => x = { v.arch with v := x.v } ∧ ∀ k, Tab.get 0 x.v k =
            if r < (s.blk b).w ∧ k = (v.arch.fibre l).wb + r then d.setWidth 32 else Tab.get 0 v.arch.v k
        | 0x22 => x = { v.arch with fib := v.arch.fib.set l { v.arch.fibre l with pred := d.setWidth 16 ||| 1 } }
        | _ => x = { v.arch with fib := v.arch.fib.set l (State.writeTpc d.toNat (v.arch.fibre l)) }) ∧
  (∀ p (va : B64) n (s : State), ∃ t, exec (.mboxReadmem p va n) s = .next t ∧
    if 2016 < n then Replied s t p 1 []
    else match State.monitorRead (s.monitorCore p) p (n / 16 + 2) va.toNat n s with
      | (.ok d, u) => Replied u t p 0 d
      | (.error _, u) => Replied u t p 2 []) ∧
  (∀ p (va : B64) (d : List Byte) (s : State), ∃ t, exec (.mboxWritemem p va d) s = .next t ∧
    if 2016 < d.length then Replied s t p 1 []
    else match State.monitorWrite (s.monitorCore p) p (d.length / 16 + 2) va.toNat d s with
      | (none, u) => Replied u t p 0 []
      | (some _, u) => Replied u t p 2 []) ∧
  (∀ p (va : B64) (s : State), ∃ t, exec (.mboxSetbkpt p va) s = .next t ∧
    match Tab.find (s.part p).bkpts va.toNat with
    | some _ => Replied s t p 0 []
    | none => match s.swapWord p va.toNat 0x7D0C0000 with
      | (none, u) => Replied u t p 2 []
      | (some w, u) => ∃ v, Replied v t p 0 [] ∧ OnlyPart u v p { u.part p with bkpts := (u.part p).bkpts.insert va.toNat w }) ∧
  (∀ p (va : B64) (s : State), ∃ t, exec (.mboxClrbkpt p va) s = .next t ∧
    match Tab.find (s.part p).bkpts va.toNat with
    | none => Replied s t p 0 []
    | some w => match s.swapWord p va.toNat w with
      | (none, u) => Replied u t p 2 []
      | (some _, u) => ∃ v, Replied v t p 0 [] ∧ OnlyPart u v p { u.part p with bkpts := (u.part p).bkpts.erase va.toNat }) ∧
  ∀ p (s : State), ∃ t, exec (.mboxQuery p) s = .next t ∧ Replied s t p 0
    (toBytes 8 ((if (s.part p).stopped then 1 else 0) + if (s.part p).ctxReset then 256 else 0) ++
      toBytes 8 (s.part p).fqTail.toNat ++ ((s.stoppedWaves p).take 238).flatMap fun w => toBytes 4 w.1 ++ toBytes 4 w.2)

/-- R241, R246, R248 to R251, R256 to R258, R340, R343, R350, R351: at a home a committed store of one line is applied at
max(pts, rts + 1), after every earlier store of its core to the same home slice; a request is applied once and answered,
one with a tag of the window is answered with what the first one gave and not applied again; a core may renew or fill a
copy unasked, under a lease that covers its pts, and may fetch on a wrong path, which fills its TLB alone. PTS_TICK adds 1
to a core's pts of each partition resident on it; a rebase stops the blocks of its partition and, once they are quiet,
takes 2^46 from every pts of it. A request without a response is sent again with its tag after 2^16 NCLK; the first
response for a tag counts. A peer's READ, WRITE or ATOM is translated here, served, and answered. -/
def Obligations.HomesAndTime : Prop :=
  (∀ c (s : State), (s.core c).outbox = [] → exec (.homeWrite c) s = .next s) ∧
  (∀ c (s : State), (s.core c).outbox ≠ [] → ∃ t i r, exec (.homeWrite c) s = .next t ∧ (s.core c).outbox[i]? = some r ∧
    (∀ q ∈ (s.core c).outbox.take i, sliceOf q.pa ≠ sliceOf r.pa) ∧
    (t.core c).outbox = (s.core c).outbox.eraseIdx i ∧
    (r.cls ≠ .loc → r.data ≠ [] → r.pa % 1024 + r.data.length ≤ 1024 →
      let ts := max (s.pts c r.part) ((s.leaseOf r.pa).2 + 1)
      t.mem = s.mem.write r.pa r.data ∧ t.leaseOf r.pa = (ts, ts) ∧
        ∀ w, s.wave? r.blk r.wave = some w → t.wave? r.blk r.wave = some { w with pend := max w.pend ts })) ∧
  (∀ c p va pa fetch (s : State), s.lcoreCount ≤ c → exec (.homeRead c ⟨p, fetch⟩ va pa) s = .next s) ∧
  (∀ c p va pa (s : State), c < s.lcoreCount → ∃ t, exec (.homeRead c ⟨p, false⟩ va pa) s = .next t ∧
    match s.translate c p { kind := .load, rd := true, demand := false } va with
    | (.error _, u) => (t.core c).pfDrop = (u.core c).pfDrop + 1 ∧ t.mem = u.mem
    | (.ok r, u) => if r.pa / 1024 = pa / 1024 then
          ∃ y ∈ (t.core c).lines, ∃ cl wts rts d, y.2.st = .copy p (va / 1024 * 1024) (r.pa / 1024 * 1024) cl wts rts d ∧
            (r.cls = .loc ∨ t.pts c p ≤ rts)
        else t = u) ∧
  (∀ c p va pa (s : State), c < s.lcoreCount → ∃ t, exec (.homeRead c ⟨p, true⟩ va pa) s = .next t ∧
    match s.translate c p { Access.fetch with demand := false } va with
    | (.error _, u) => (t.core c).pfDrop = (u.core c).pfDrop + 1 ∧ t.mem = u.mem
    | (.ok _, u) => t = u) ∧
  -- ATOM, RED and ARV (R257, R258, R350)
  (∀ m (s : State),
    let key := State.tagKey m.src.toNat (sliceOf m.addr.toNat)
    let home := homeDie m.addr.toNat
    ∃ t r, exec (.homeAtom m) s = .next t ∧ r.kind = 4 ∧ r.tag = m.tag ∧ r.src = m.src ∧
      (∀ e, (t.end_ e).ready = (s.end_ e).ready ++ match route home (s.srcDie m.src.toNat) with
        | k :: _ => if e = endAt k home then [r] else []
        | [] => []) ∧
      (match (Tab.get {} s.tags key).window.find? (fun w => w.tag == m.tag.toNat) with
        | some w => t = { s with ends := t.ends } ∧ r.data = w.v ∧ r.addr = BitVec.ofNat 64 (w.ts % 2 ^ 48)
        | none =>
          let x := rmwApply m.func.toNat m.size.toNat (s.mem.read m.addr.toNat (rmwSpan m.func.toNat m.size.toNat).1)
            (ofBytes (m.data.take 8)) (ofBytes ((m.data.drop 16).take 8))
          t.mem = s.mem.write m.addr.toNat x.data ∧ r.data = toBytes 16 (x.v % 2 ^ 64) ∧
            (∃ w ∈ (Tab.get {} t.tags key).window, w.tag = m.tag.toNat ∧ w.v = r.data) ∧
            (Tab.get {} t.tags key).window.length ≤ 64) ∧
      ∃ u, exec (.homeAtom m) t = .next u ∧ u.mem = t.mem ∧ u.tags = t.tags) ∧
  -- a peer's request (R340)
  (∀ p m (s : State), ∃ t r, exec (.remoteRequest p m) s = .next t ∧
    (t.end_ (portEnd p)).ready = (s.end_ (portEnd p)).ready ++ [r] ∧ r.kind = 4 ∧ r.tag = m.tag ∧ r.src = m.src ∧
    match s.walkAccess m.part.toNat (if m.kind = 1 then Access.load else if m.kind = 2 then Access.store
        else State.rmwAccess m.func.toNat) m.addr.toNat with
    | (.error f, u) => r.addr = BitVec.ofNat 64 (f.cls.code * 2 ^ 48) ∧ t.mem = u.mem
    | (.ok x, u) => x.pa < 2 ^ 64 →
      let old := (Tab.get {} u.tags (State.tagKey (peerSource p m.src.toNat) (sliceOf x.pa))).window.any
        (fun w => w.tag == m.tag.toNat)
      if m.kind = 1 then t.mem = u.mem ∧ r.data.take 128 = u.mem.read (x.pa / 128 * 128) 128
      else if old = true then t.mem = u.mem
      else if m.kind = 2 then
        t.mem = if m.data.length = 144 then u.mem.write (x.pa / 128 * 128) (m.data.take 128)
          else u.mem.write x.pa (m.data.take (2 ^ m.size.toNat))
      else t.mem = u.mem.write x.pa (rmwApply m.func.toNat m.size.toNat
        (u.mem.read x.pa (rmwSpan m.func.toNat m.size.toNat).1) (ofBytes (m.data.take 8)) (ofBytes ((m.data.drop 16).take 8))).data) ∧
  -- RSP (R258, R342, R351): requests outstanding toward a slice of this device have been answered in the step that made them
  (∀ k m (s : State), (k < 160 ∨ 172 ≤ k ∨
      ∀ x ∈ (Tab.get {} s.tags (State.tagKey m.src.toNat k)).unacked, x.1 ≠ m.tag.toNat) → exec (.rsp ⟨k, m⟩) s = .next s) ∧
  (∀ m p (s : State), p < 12 → (∃ x ∈ (Tab.get {} s.tags (State.tagKey m.src.toNat (portSlice p))).unacked, x.1 = m.tag.toNat) →
    ∃ t, exec (.rsp ⟨portSlice p, m⟩) s = .next t ∧
      (s.remoteCopy m.src.toNat p m.tag.toNat = none → t = { s with tags := t.tags, abacus := t.abacus, ends := t.ends }) ∧
      ((s.unit (portSlice p)).out = [] ∨ s.remoteCopy m.src.toNat p m.tag.toNat ≠ none →
        (Tab.get {} t.tags (State.tagKey m.src.toNat (portSlice p))).unacked =
          (Tab.get {} s.tags (State.tagKey m.src.toNat (portSlice p))).unacked.filter fun x => x.1 != m.tag.toNat) ∧
      ∀ slot c x sd pd w, s.remoteCopy m.src.toNat p m.tag.toNat = some (slot, c) → NoTwin s c.blk → c.flags = 0 →
        Tab.find (s.core m.src.toNat).copies slot = some c → s.remoteWait c.blk c.wave slot = some x →
        x.kind = .ratom slot sd pd → s.wave? c.blk c.wave = some w → rspClass m = 0 →
        (m.poison && bitAt c.ext.toNat 12) = false →
        ∃ a, (t.wave? c.blk c.wave).map (·.arch) = some a ∧
          Back w.arch a x.eff (some (sd, BitVec.ofNat 64 (ofBytes (m.data.take 8)))) (some (pd, true))) ∧
  (∀ src k (tag : B16) (s : State),
    (∀ x ∈ (Tab.get {} s.tags (State.tagKey src k)).unacked, x.1 = tag.toNat → s.nclk < x.2.1 + 2 ^ 16) →
    exec (.requestResend src k tag) s = .next s) ∧
  (∀ src k (tag : B16) at_ m (s : State),
    (Tab.get {} s.tags (State.tagKey src k)).unacked.find? (fun x => x.1 == tag.toNat) = some (tag.toNat, at_, m) →
    at_ + 2 ^ 16 ≤ s.nclk → ∃ t, exec (.requestResend src k tag) s = .next t ∧ t = { s with tags := t.tags, ends := t.ends } ∧
      (t.end_ (portEnd (k - 160))).ready = (s.end_ (portEnd (k - 160))).ready ++ [m] ∧
      (Tab.get {} t.tags (State.tagKey src k)).unacked.find? (fun x => x.1 == tag.toNat) = some (tag.toNat, s.nclk, m)) ∧
  -- REC (R258, R343, R344)
  (∀ u m (s : State),
    let src := if 160 ≤ u ∧ u < 172 then peerSource (u - 160) m.src.toNat else m.src.toNat
    let key := State.tagKey src u
    ((Tab.get {} s.tags key).window.any (fun w => w.tag == m.tag.toNat) = true → exec (.recMerge u m) s = .next s) ∧
    ((Tab.get {} s.tags key).window.any (fun w => w.tag == m.tag.toNat) = false → ∀ x, s.coll? (recNum m) = some x →
      ∃ t, exec (.recMerge u m) s = .next t ∧
        if x.known = false then
          t = { s with colls := t.colls, tags := t.tags } ∧ (∃ w ∈ (Tab.get {} t.tags key).window, w.tag = m.tag.toNat) ∧ t.coll? (recNum m) = some { x with early := x.early ++ [(u, m)] }
        else if recIsElem m = true then
          t = { s with colls := t.colls, tags := t.tags } ∧ (∃ w ∈ (Tab.get {} t.tags key).window, w.tag = m.tag.toNat) ∧
          t.coll? (recNum m) = some { x with
            elems := (recElems x.key.fmt m).foldl (fun (l : Tab CollElem) v => l.insert v.1 v.2) x.elems }
        else t = (s.keepTag key ⟨m.tag.toNat, [], 0, 0⟩).feedAll x ((recSums x.key.fmt m).map fun v => (u, v.1, v.2)))) ∧
  -- a partial sum at a unit that expects `want` contributions: it opens a cell or is merged into the one that is open
  (∀ fmt u want key (c : AbCell) (s : State),
    let a := s.unit u
    let r := s.unitTake fmt u want key c
    let before := Tab.get 0 a.passed key
    (∀ v, v ≠ u → r.2.unit v = s.unit v) ∧ r.2 = { s with abacus := r.2.abacus } ∧
    (r.2.unit u).xfull = a.xfull + (match r.1 with
      | some d => if d.isFull fmt = true then 1 else 0
      | none => 0) ∧
    match Tab.find a.cells key with
    | some d =>
      let d := AbCell.merge fmt d c
      if want ≤ before + d.got then r.1 = some d ∧ Tab.find (r.2.unit u).cells key = none
      else r.1 = none ∧ Tab.find (r.2.unit u).cells key = some d
    | none =>
      if before + c.got < want ∧ a.cells.length < 512 then r.1 = none ∧ Tab.find (r.2.unit u).cells key = some c
      else r.1 = some c ∧ (r.2.unit u).cells = a.cells) ∧
  -- logical time (R251)
  (∀ c (s : State), ∃ t, exec (.ptsTick c) s = .next t ∧
    if (s.core c).tick ≤ (s.core c).cycle then
      (t.core c).tick = (s.core c).tick + 64 ∧ t = { s with cores := t.cores } ∧ (∀ d, d ≠ c → t.core d = s.core d) ∧
        ∀ p, t.pts c p = s.pts c p + if p ∈ s.partsOn c then 1 else 0
    else t = s) ∧
  ∀ p (s : State), ∃ t, exec (.ptsRebase p) s = .next t ∧
    if s.cores.any (fun c => 2 ^ 47 ≤ Tab.get 0 c.2.pts p) = false then t = s
    else if s.toQuiesce p ≠ [] then
      t.mem = s.mem ∧ (∀ c q, t.pts c q = s.pts c q) ∧
        ∀ b ∈ s.toQuiesce p, ∃ k, t.blk? b = some k ∧ k.pre.map (·.why) = some .rebase
    else if s.isQuiet p = false then t = s
    else
      (∀ c, t.pts c p = s.pts c p - 2 ^ 46) ∧ (∀ c q, q ≠ p → t.pts c q = s.pts c q) ∧
        (t.part p).relts = (s.part p).relts - 2 ^ 46 ∧ ∀ q, q ≠ p → (t.part q).relts = (s.part q).relts

/-- R335 to R339: what an end makes of a flit that reaches it, while its link is up; a flit whose CRC fails counts, and the
receiver asks again once; a DATA flit with the expected SEQ is taken and its messages are handed on, a repeated one is
dropped, any other is asked for again; ACK frees the replay buffer; NAK sends every held flit again. What a flit slot sends:
the NAK that is due, a flit that is sent again, a new DATA flit, or IDLE. Messages come out of a flit as they went in.
Retraining: on the third CRC failure within 1 ms; the third failed attempt takes a module down with a fatal error, and a port
down; training brings a port up with its peer's DEVNUM. -/
def Obligations.LinkFlits : Prop :=
  (∀ e d (s : State), (s.link (linkOf e)).st ≠ 0 → 26 ≤ e → ∀ i ∈ [Instr.dataFlit e d, .idleFlit e d, .nakFlit e d],
    exec i s = .next s) ∧
  (∀ e d (s : State), (s.link (linkOf e)).st = 0 → ∀ i ∈ [Instr.dataFlit e d, .idleFlit e d, .nakFlit e d],
    ∃ t, exec i s = .next t ∧ t = { s with ends := t.ends, links := t.links } ∧
      let x := s.end_ e
      let y := t.end_ e
      if flitOk d = false then
        (t.link (linkOf e)).crcErr = (s.link (linkOf e)).crcErr + 1 ∧
          y = (if x.nakOut then x else { x with nakOut := true, nakDue := true })
      else
        let a := flitAck d
        let z : LinkEnd := { x with
          replay := x.replay.filter fun q => !covered a q.1, resend := x.resend.filter fun q => !covered a (flitSeq q) }
        t.links = s.links ∧ y = match flitKind d with
          | 0 => if flitSeq d = x.expect then
                { z with expect := (x.expect + 1) % 4096, nakOut := false, nakDue := false, rcvd := x.rcvd ++ msgsOf 15 (d.drop 8) }
              else if (x.expect + 4096 - flitSeq d) % 4096 ≤ 2048 then z
              else if x.nakOut then z else { z with nakOut := true, nakDue := true }
          | 1 => z
          | 2 => { z with resend := z.replay.map (·.2) }
          | _ => x) ∧
  (∀ e (s : State), (s.link (linkOf e)).st ≠ 0 → exec (.flitSlot e) s = .next s) ∧
  (∀ e (s : State), (s.link (linkOf e)).st = 0 → s.viral = false ∨ isPort (linkOf e) = false →
    ∃ t, exec (.flitSlot e) s = .next t ∧ t = { s with ends := t.ends } ∧ (∀ f, f ≠ e → t.end_ f = s.end_ f) ∧
      let x := s.end_ e
      let a := (x.expect + 4095) % 4096
      let p := packMsgs 248 x.ready
      t.end_ e = if x.nakDue then { x with nakDue := false, wire := x.wire ++ [flitBytes 2 x.next a []] }
        else match x.resend with
          | d :: r => { x with resend := r, wire := x.wire ++ [d] }
          | [] => if p.1 = [] ∨ replayRoom (linkOf e) ≤ x.replay.length then { x with wire := x.wire ++ [flitBytes 1 x.next a []] }
            else { x with
              next := (x.next + 1) % 4096, replay := x.replay ++ [(x.next, flitBytes 0 x.next a p.1)], ready := p.2
              wire := x.wire ++ [flitBytes 0 x.next a p.1] }) ∧
  (∀ e (s : State), (s.link (linkOf e)).st = 0 → s.viral = true → isPort (linkOf e) = true →
    ∃ t, exec (.flitSlot e) s = .next t ∧ (t.end_ e).ready = (s.end_ e).ready ∧ (t.end_ e).resend = (s.end_ e).resend ∧
      ∃ d, (t.end_ e).wire = (s.end_ e).wire ++ [d] ∧ d = flitBytes (if (s.end_ e).nakDue then 2 else 1) (s.end_ e).next
        (((s.end_ e).expect + 4095) % 4096) []) ∧
  (∀ kind seq ack ms, kind < 16 → seq < 4096 → ack < 4096 → (ms.flatMap Msg.bytes).length ≤ 248 →
    flitOk (flitBytes kind seq ack ms) = true ∧ flitKind (flitBytes kind seq ack ms) = kind ∧
      flitSeq (flitBytes kind seq ack ms) = seq ∧ flitAck (flitBytes kind seq ack ms) = ack ∧
      ((∀ m ∈ ms, m.kind ≠ 0 ∧ m.data.length % 16 = 0) → msgsOf 15 ((flitBytes kind seq ack ms).drop 8) = ms)) ∧
  (∀ ms, (packMsgs 248 ms).1 ++ (packMsgs 248 ms).2 = ms ∧ ((packMsgs 248 ms).1.flatMap Msg.bytes).length ≤ 248) ∧
  -- RETRAIN (R338, R339)
  (∀ k (s : State), ∃ t, exec (.retrain k) s = .next t ∧
    if (s.link k).st = 0 ∧ 3 ≤ (s.link k).fails.length then
      t = { s with ends := t.ends, links := t.links } ∧
        t.link k = { s.link k with st := 1, retrains := (s.link k).retrains + 1, fails := [], attempts := 0 } ∧
        ∀ e, t.end_ e = if e ∈ endsOf k then { s.end_ e with wire := [] } else s.end_ e
    else t = s) ∧
  (∀ k lo hi (s : State), (s.link k).st ≠ 1 → exec (.retrainAttemptEnd k lo hi) s = .next s) ∧
  (∀ k lo hi (s : State), (s.link k).st = 1 → (lo && hi) = false → ∃ t, exec (.retrainAttemptEnd k lo hi) s = .next t ∧
    t = { s with ends := t.ends, links := t.links } ∧
    t.link k = { s.link k with st := 0, half := lo || hi, upper := lo, fails := [], attempts := 0 } ∧
    ∀ e, t.end_ e = if e ∈ endsOf k then
      { s.end_ e with resend := (s.end_ e).replay.map (·.2), nakOut := false, nakDue := false, wire := [] } else s.end_ e) ∧
  (∀ k (s : State), (s.link k).st = 1 → ∃ t, exec (.retrainAttemptEnd k true true) s = .next t ∧
    if (s.link k).attempts + 1 < 3 then t = { s with links := t.links } ∧ t.link k = { s.link k with attempts := (s.link k).attempts + 1 }
    else (t.link k).st = 2 ∧ (isPort k = false → t.viral = true ∧
      (s.fatal.toNat % 256 = 0 → t.fatal = BitVec.ofNat 32 (1 + k % 256 * 256)))) ∧
  (∀ p (peer : Byte) (s : State), ∃ t, exec (.linkTraining p peer true) s = .next t ∧
    t = { s with ends := t.ends, links := t.links } ∧ (t.link (portLink p)).st = 0 ∧ (t.link (portLink p)).peer = peer ∧
    t.end_ (portEnd p) = { ready := (s.end_ (portEnd p)).ready }) ∧
  ∀ p (peer : Byte) (s : State), p < 96 → ∃ t, exec (.linkTraining p peer false) s = .next t ∧ (t.link (portLink p)).st = 2 ∧
    ∀ c, (Tab.get {} t.tags (State.tagKey c (portSlice p))).unacked = []

/-- R253, R282, R334, R349: a host read of the memory window gives the bytes with their poison and extends no lease; a host
write is applied at the homes of its lines, and HOSTTS takes its ts; a snoop of a SYS line that the port holds gives the
line, one that stores is applied; IDE keys are kept by stream. Addresses outside give nothing. -/
def Obligations.HostMemory : Prop :=
  (∀ pa n (s : State), s.hostOpen = true → ∃ t, exec (.cxlMemRead pa n) s = .next t ∧
    if pa + n ≤ 2 ^ 40 then
      t.replies = s.replies ++ [{ data := s.mem.read pa n, poison := s.poisoned pa n }] ∧ t.mem = s.mem ∧ t.lease = s.lease ∧ t.cores = s.cores ∧
        t.blocks = s.blocks
    else t = s) ∧
  (∀ pa d (s : State), s.hostOpen = true → ∃ t, exec (.cxlMemWrite pa d) s = .next t ∧
    if pa + d.length ≤ 2 ^ 40 then
      t.mem = s.mem.write pa d ∧ MoreRecords s t ∧ t.cores = s.cores ∧ t.blocks = s.blocks ∧ s.hostts ≤ t.hostts ∧
        ∀ a, pa ≤ a → a < pa + d.length → (s.leaseOf a).2 < (t.leaseOf a).1 ∧ (t.leaseOf a).1 ≤ t.hostts
    else t = s) ∧
  (∀ pa x (s : State), s.hostOpen = true → pa < 2 ^ 40 ∨ 2 ^ 52 ≤ pa → exec (.cxlCacheSnoop pa x) s = .next s) ∧
  (∀ pa (s : State), s.hostOpen = true → 2 ^ 40 ≤ pa → pa < 2 ^ 52 → ∃ t, exec (.cxlCacheSnoop pa none) s = .next t ∧
    if s.portHolds pa = true then
      t.replies = s.replies ++ [{ data := s.mem.read (pa / 1024 * 1024) 1024, poison := s.poisoned (pa / 1024 * 1024) 1024 }] ∧
        t.mem = s.mem
    else t = s) ∧
  (∀ pa d (s : State), s.hostOpen = true → 2 ^ 40 ≤ pa → pa < 2 ^ 52 → ∃ t, exec (.cxlCacheSnoop pa (some d)) s = .next t ∧
    t.mem = s.mem.write pa d ∧ t.cores = s.cores ∧
    ∀ a, pa ≤ a → a < pa + d.length → (s.leaseOf a).2 < (t.leaseOf a).1) ∧
  ∀ k d (s : State), s.hostOpen = true → ∃ t, exec (.ideKeySetup k d) s = .next t ∧ t = { s with sec := t.sec } ∧
    (∀ j, Tab.find t.sec.ide j = if j = k then some d else Tab.find s.sec.ide j) ∧ t.sec = { s.sec with ide := t.sec.ide }

/-- R277, R352 to R360: a cold or warm reset leaves the fuses, memory and what has left the device, and puts the rest at
its reset values (the boot count survives a warm reset); a function-level reset of function 0 is a warm reset, of another
one a reset of its context, wherever the port answers configuration requests, and is asked to retry before; a boot stage
that succeeds is followed by the next, one that fails records its error, and an image is refused for its key, its
signature, or an SVN below the floor; the floor rises only to the running image's SVN; a report holds DEVID, the boot
count, the nonce, the four measurements and the signature; a power window moves each die's step; a die at 115 °C, or a
fatal error, makes the device viral; the sideband reads the management registers in every state. -/
def Obligations.BootPowerAndFatal : Prop :=
  (∀ s : State, exec .coldReset s = .next { State.reset with
    coreEn := s.coreEn, mem := s.mem, meta_ := s.meta_, upsets := s.upsets, msi := s.msi, replies := s.replies, agenda := s.agenda, free := s.free
    sec := { svnFloor := s.sec.svnFloor, keyDigest := s.sec.keyDigest } }) ∧
  (∀ s : State, exec .warmReset s = .next { State.reset with
    coreEn := s.coreEn, mem := s.mem, meta_ := s.meta_, upsets := s.upsets, msi := s.msi, replies := s.replies, agenda := s.agenda, free := s.free
    sec := { svnFloor := s.sec.svnFloor, keyDigest := s.sec.keyDigest, bootCount := s.sec.bootCount } }) ∧
  (∀ n (s : State), s.bootStat.toNat % 16 < 5 ∨ s.bootStat.toNat / 256 % 256 ≠ 0 ∨ 64 ≤ n →
    exec (.functionLevelReset n) s = .next (if n < 64 then { s with replies := s.replies ++
        (if s.viral = true then [{ status := .unsupported }] else if s.bootStat.toNat / 256 % 256 ≠ 0 then [] else [{ status := .retry }]) }
      else s)) ∧
  (∀ s : State, 5 ≤ s.bootStat.toNat % 16 → s.bootStat.toNat / 256 % 256 = 0 →
    exec (.functionLevelReset 0) s = exec .warmReset s ∧
    ∀ n, 0 < n → n < 64 → exec (.functionLevelReset n) s = .next (s.resetContext n)) ∧
  (∀ x (s : State), ∃ t, exec (.bootStage x) s = .next t ∧
    let st := s.bootStat.toNat % 16
    let next (u : State) : Prop := u.bootStat = BitVec.ofNat 32 (st + 1)
    let failed (e : Nat) (u : State) : Prop := u = { s with bootStat := BitVec.ofNat 32 (st + 256 * e) }
    if s.bootStat.toNat / 256 % 256 ≠ 0 ∨ 6 ≤ st then t = s
    else match st with
      | 0 => next t ∧ t.sec.image = x.image
      | 1 =>
        let d := s.sec.image
        let key := (d.drop 16).take 96
        let code := (d.drop 256).take (fieldAt d 4 4)
        if sha384 key ≠ s.sec.keyDigest ∨
            ecdsaVerify key (sha384 (d.take 160 ++ code)) ((d.drop 160).take 48) ((d.drop 208).take 48) = false then failed 1 t
        else if fieldAt d 8 1 < s.sec.svnFloor then failed 2 t
        else next t ∧ t.sec.runSvn = fieldAt d 8 1 ∧ t.sec.fwDigest = sha384 (d.take 256 ++ code)
      | 2 => if x.ok then next t ∧ t.mem = s.mem.filter (fun c => decide (2 ^ 40 ≤ c.1)) ∧
          ∀ k < 2 ^ 33, Tab.get {} t.meta_ k = {}
        else failed 3 t
      | 3 => if x.ok then next t else failed 4 t
      | 4 =>
        let r := lcoreTable s.coreEn
        let entry := fun k => if k < 144 then x.map.getD k 0 &&& 0x83F3 else 0
        t.lcoreCount = x.count % 256 ∧ (∀ k, Tab.get 0 t.lcoreMap k = entry k) ∧
          let holds := x.count % 256 = r.length ∧ ∀ k < 144, entry k = r.getD k 0
          (holds → next t) ∧ (¬holds → t.bootStat = BitVec.ofNat 32 (4 + 256 * 5))
      | _ => if x.ok then next t ∧ t.cxlUp = true ∧ t.sec.bootCount = s.sec.bootCount + 1 else failed 6 t) ∧
  (∀ n (s : State), s.hostOpen = true → ∃ t, exec (.attestationReport n) s = .next t ∧ t.mem = s.mem ∧
    t.replies = s.replies ++ [{ data := t.sec.report }] ∧ t.sec.report.length = 344 ∧
    let d := t.sec.report
    d.take 4 = toBytes 4 Config.devid ∧ (d.drop 4).take 4 = toBytes 4 s.sec.bootCount.toNat ∧
      (∀ i < 48, d.getD (8 + i) 0 = n.getD i 0) ∧
      (d.drop 56).take 48 = toBytesBe 48 Config.romDigest.toNat ∧
      (∀ i < 48, d.getD (104 + i) 0 = s.sec.fwDigest.getD i 0) ∧
      (d.drop 152).take 48 = sha384 (toBytes 8 s.sec.svnFloor ++ (s.coreEn.flatMap fun v => toBytes 8 v.toNat) ++ s.sec.keyDigest) ∧
      (d.drop 200).take 48 = sha384 (((List.range 36).flatMap fun k =>
          toBytes 8 (s.readBar4 (0x41000 + 16 * k)) ++ toBytes 8 (s.readBar4 (0x41008 + 16 * k))) ++
        (List.range 64).flatMap fun p => toBytes 8 (s.readIface p 0x40)) ∧
      let x := Config.ecdsaSign s.sec.identityKey (sha384 (d.take 248))
      d.drop 248 = toBytesBe 48 x.1.toNat ++ toBytesBe 48 x.2.toNat) ∧
  (∀ w temps (s : State), (∀ d < 4, temps.getD d 0 < 115) → ∃ t, exec (.powerWindow w temps) s = .next t ∧
    t = { s with power := t.power } ∧ t.power.watts = w ∧ ∀ d < 4,
      let hot := s.powerLimit < w ∨ 105 < temps.getD d 0
      let cool := 100 * w < 95 * s.powerLimit ∧ temps.getD d 0 < 100
      let n := s.power.steps.getD d 0
      let c := s.power.calm.getD d 0
      (t.power.steps.getD d 0, t.power.calm.getD d 0) =
        if hot then (min 4 (n + 1), 0) else if cool then (if c + 1 < 4 then (n, c + 1) else (n - 1, 0)) else (n, 0)) ∧
  (∀ w temps d (s : State), d < 4 → 115 ≤ temps.getD d 0 → (∀ e < d, temps.getD e 0 < 115) →
    ∃ t, exec (.powerWindow w temps) s = .next t ∧ t.power.cclkOff = true ∧ t.viral = true ∧
      (s.fatal.toNat % 256 = 0 → t.fatal = BitVec.ofNat 32 (5 + 256 * d))) ∧
  (∀ (c u : Byte) (s : State), c = 0 ∨ 5 < c.toNat → exec (.fatalError c u) s = .next s) ∧
  (∀ (c u : Byte) (s : State), c.toNat ∈ [1, 2, 3, 4, 5] → ∃ t, exec (.fatalError c u) s = .next t ∧ t.viral = true ∧
    t.fatal = (if s.fatal.toNat % 256 ≠ 0 then s.fatal else BitVec.ofNat 32 (c.toNat + 256 * u.toNat)) ∧
    (c = 5 → t.power.cclkOff = true) ∧ (c = 2 → u.toNat ∈ t.lost)) ∧
  (∀ o (s : State), exec (.sidebandRead o) s = .next { s with replies := s.replies ++ [{ data := toBytes 8 (s.readMgmt o 8) }] }) ∧
  (∀ s : State, ∃ t, exec .warmReset { s with replies := s.replies ++ [{}] } = .next t ∧
    exec .sidebandReset s = .next t) ∧
  ∀ n (s : State), ∃ t, exec (.svnFloorRaise n) s = .next t ∧ t = { s with sec := { s.sec with svnFloor := t.sec.svnFloor } } ∧
    t.sec.svnFloor = if 2 ≤ s.bootStat.toNat % 16 ∧ n = s.sec.runSvn then max s.sec.svnFloor n else s.sec.svnFloor

/-- Decode and encode agree (R56 to R72, R285), for every instruction at every value of its operands: the decoder reads the
words of a well-formed instruction back as that instruction and leaves the words after it, where an instruction without its
optional EXT is not followed by an EXT word while it is chained (R56); the sequencer's decoder reads the word of a
well-formed stream operation back; the command decoder reads a record back. -/
def Obligations.DecodeOfEncode : Prop :=
  (∀ (i : Instr) (rest : List B32), i.isWord = true → i.wf = true → (i.ext = none → extAfter i.word rest = none) →
    decode (encode i ++ rest) = .ok (i, rest)) ∧
  (∀ i : Instr, isStream i = true → i.wf = true → decodeStream i.streamWord = some i) ∧
  ∀ i : Instr, isCommand i = true → i.wf = true →
    ∃ h ws, i.commandWords = h :: ws ∧ decodeCommand h ws = .ok i

/-- What decodes is a well-formed instruction, and the words it was read from are exactly its words: every reserved bit is
zero (R58, R70, R72). An EXT that stands alone is no instruction (R56), nor is a reserved opcode, function code or stream
code (R68, R69, R72). -/
def Obligations.OnlyEncodingsDecode : Prop :=
  (∀ ws i rest, decode ws = .ok (i, rest) → i.isWord = true ∧ i.wf = true ∧ ws = encode i ++ rest) ∧
  (∀ w i, decodeStream w = some i → isStream i = true ∧ i.wf = true ∧ w = i.streamWord) ∧
  (∀ (w : B32) rest, bits w.toNat 24 7 = 0x7F → decode (w :: rest) = .error .unassigned) ∧
  (∀ (w : B32) rest,
    let f := bits w.toNat 16 7
    (bits w.toNat 24 7 = 0x79 ∧ 0x0C ≤ f) ∨ (bits w.toNat 24 7 = 0x7A ∧ 9 ≤ f) ∨
      (bits w.toNat 24 7 = 0x7B ∧ (f = 0x0F ∨ (0x14 ≤ f ∧ f ≤ 0x17) ∨ f = 0x1A ∨ f = 0x1B ∨ 0x20 ≤ f)) ∨
      (bits w.toNat 24 7 = 0x7D ∧ 0x10 ≤ f) →
    decode (w :: rest) = .error .unassigned) ∧
  ∀ w : B64, 0x0C ≤ bits w.toNat 56 8 → decodeStream w = none

/-- Words that the spec writes out (Section 3's two packets, the listings of the worked programs): each decodes to the
instruction that the spec says it stands for. -/
def Obligations.SpecWordsDecode : Prop :=
  decode [0x00000000] = .ok (.nop ⟨0⟩, []) ∧
  decode [0x82020078, 0x7F123456, 0] = .ok (.movi ⟨0, 2, 0x78, ⟨0, 0x123456⟩⟩, [0]) ∧
  decode [0xBE040102, 0xEF098844, 0x7F000000] = .ok (.fmul ⟨1, 0, 4, 0x01, 0x02, none⟩, [0xEF098844, 0x7F000000]) ∧
  decode [0xEF098844, 0x7F000000] = .ok (.ld ⟨0, 9, 0x88, 2, 0, 4, ⟨0, 0⟩⟩, []) ∧
  decode [0x2A1595F2] = .ok (.sshl ⟨0, 0, 21, 0x95, 0xF2⟩, []) ∧
  decode [0x7D0F0011] = .ok (.roleq ⟨0, 0x00, 0x11⟩, []) ∧
  decode [0x7C10000B] = .ok (.bra ⟨0, 1, 0, 11⟩, []) ∧
  decode [0x7B09F094, 0] = .ok (.rpub ⟨0, 0xF0, 0x94, none⟩, [0]) ∧
  decode [0xFA018488, 0x7F110000] = .ok (.cpyo ⟨0x84, 0x88, ⟨0, 0x110000⟩⟩, []) ∧
  decode [0x79070001] = .ok (.waitb ⟨0, 0, 1⟩, []) ∧
  decode [0x1D5100F2] = .ok (.icmp ⟨0, 5, 1, 0x00, 0xF2⟩, []) ∧
  decode [0xA3048000, 0x7F00000B] = .ok (.lea ⟨1, 0, 4, 0x80, 0x00, some ⟨0, 0x0B⟩⟩, []) ∧
  decode [0xF0080440, 0x7F000000] = .ok (.st ⟨8, 0x04, 2, 0, 0, ⟨0, 0⟩⟩, []) ∧
  decodeStream 0x0204A18002DFD000 = some (.mmac ⟨0, 1, 2, 16, 48, 1, 3, 0, 0x3FA, 0, 0⟩) ∧
  decodeStream 0x0400006430880000 = some (.epi
    { tile := 0, oreg := 0, preg := 0, act := 0, ofmt := 1, clr := 1, mul := 0, bias := 0, m := 16, n8 := 48, sigen := 1
      nb := 1 }) ∧
  decodeStream 0x0900000000000080 = some (.mwait 2) ∧
  decodeStream 0x0900000000000081 = none

/-- A step runs the instructions that are due (R11, R27, R54, R55, R70). An error of the memories that comes up is met
first. What a party outside does next, at the head of the agenda, is its instruction by `exec`; what needs a module that
is not up waits, as does such a move, and what comes after it goes first. A group that an issue opens holds the words from
the PC on, up to the first whose C bit is zero; when they decode and its checks pass, its words run in turn, each by
`exec` of the instruction that its four bytes, with the EXT that follows, decode to, with the group's other words around
it; then the group closes. A sequencer runs the operation that its stream word decodes to, a command processor the command
of its record, by `exec`. Each step ends with the passage of time (R96, R246). -/
def Obligations.StepRunsTheDecodedInstruction : Prop :=
  (∀ x r (s : State), s.upsets = x :: r → step s = .next ({ s with upsets := r }.suffer x).passTime) ∧
  (∀ i r (s u v : State), s.upsets = [] → s.agenda = i :: r → exec i { s with agenda := r } = .next u → runGroup u = .next v →
    v.noWay = false → step s = .next v.passTime) ∧
  (∀ i j r (s u v x y : State), s.upsets = [] → s.agenda = i :: j :: r → exec i { s with agenda := j :: r } = .next u →
    runGroup u = .next v → v.noWay = true → exec j { s with agenda := i :: r } = .next x → runGroup x = .next y → y.noWay = false →
    step s = .next y.passTime) ∧
  (∀ m ms (s u v : State), s.upsets = [] → s.agenda = [] → s.nextMoves = (m :: ms, u) → runMove m u = .next v → v.noWay = false →
    step s = .next v.passTime) ∧
  (∀ m n ms (s u v x : State), s.upsets = [] → s.agenda = [] → s.nextMoves = (m :: n :: ms, u) → runMove m u = .next v →
    v.noWay = true → runMove n u = .next x → x.noWay = false → step s = .next x.passTime) ∧
  (∀ s u : State, s.upsets = [] → s.agenda = [] → s.nextMoves = ([], u) → step s = .next u.passTime) ∧
  (∀ b w (s : State), runMove (.issue b w) s = runGroup (s.openGroup b w)) ∧
  (∀ s : State, s.issue.on = true → s.issue.bad = false →
    let ws := s.peekGroup s.issue.blk s.issue.pc
    let m := ws.filter (GWord.isMem s.iblk.w) ++ ws.filter fun g => !g.isMem s.iblk.w
    runGroup s = andThen (runWords m s) fun t => .next ((heldBack s t).closeGroup ws)) ∧
  -- a group that has to wait has had no effect (R54, R200)
  (∀ s t : State, heldBack s t = if t.issue.held = none then t else { s with
    issue := { s.issue with held := t.issue.held }, nextOrder := t.nextOrder, free := t.free, noWay := t.noWay }) ∧
  (∀ g r (s t : State), runWord g s = .next t → runWords (g :: r) s = runWords r t) ∧
  (∀ g i rest (s t : State), s.issue.on = true → s.issue.held = none → s.issue.faults = [] →
    decode (g.word :: g.extw.toList) = .ok (i, rest) → i.wf = true ∧
      (exec i (s.onIssue fun e => e.start s.iblk.w g) = .next t →
        runWord g s = .next (t.onIssue fun e => e.marked s.iblk.w g))) ∧
  (∀ (s : State) b (pc : Pc) (w : B32) r g, s.peekPacket b pc.ix = some (w :: r) → pc.sl = 0 →
    (s.peekGroup b pc).head? = some g → g.slot = 0 ∧ g.word = w ∧ g.guard = none ∧
      (g.extw = match r with
        | x :: _ => if bits w.toNat 31 1 = 1 ∧ extKind (bits w.toNat 24 7) (bits w.toNat 16 7) ≠ 0 ∧ (Ext.of x).isSome
            then some x else none
        | [] => none)) ∧
  (∀ (s : State) b (ix : B32) ws, s.peekPacket b ix = some ws → ws.length = 3 ∧ ∀ j < 3, ∃ e l q,
    let va := ((s.blk b).codeBase + 12 * ix.toNat + 4 * j) % 2 ^ 64
    s.walk (s.blk b).part va = .ok (e, l, q) ∧
      ws.getD j 0 = BitVec.ofNat 32 (s.mem.readNat (leafTrans va e (l == 2) 0).pa 4)) ∧
  (∀ b i (s t : State), s.openStream b = (some i, t) → runMove (.stream b) s = exec i t) ∧
  ∀ p q i (s t : State), s.openCommand p q = (some i, t) → runMove (.command p q) s = exec i t

/-- The registers that an interface block, the management block and BAR 4 of function 0 show, as they stand after reset
(R2, R15, R39, R234, R240, R267, R274, R276, R283, R307, R308, R321, R322, R331, R338, R339, R340, R345, R349, R353, R358,
R359): each reads its Reset value, a window's LOG2SZ as 16 (R340). The fuses name every core enabled, which is the model's
choice. The device is not viral, no block is resident, and memory lists nothing. -/
def Obligations.ResetValues : Prop :=
  let s := State.reset
  (∀ p, (∀ o ∈ [0x40, 0x48, 0x80, 0x90, 0x98, 0xA0, 0xA8, 0xB0, 0xB8, 0xC8, 0xD0], s.readIface p o = 0) ∧
    s.readIface p 0x88 = 6 ∧ s.readIface p 0xC0 = 0x01000000 ∧ (∀ k < 32, s.readIface p (0x200 + 8 * k) = if k % 2 = 1 then 16 * 2 ^ 32 else 0) ∧
    ∀ q < 16, ∀ r < 6, s.readIface p (0x400 + 64 * q + 8 * r) = 0) ∧
  s.readMgmt 0 4 = 0x07402000 ∧ (∀ d < 4, s.readMgmt (0x100 + 8 * d) 8 = 2 ^ 36 - 1) ∧ s.readMgmt 0x120 4 = 0 ∧
  (∀ n < 144, s.readMgmt (0x200 + 4 * n) 4 = 0 ∧ s.readMgmt (0x600 + 4 * n) 4 = 0x30) ∧
  (∀ k < 12, s.readMgmt (0x900 + 8 * k) 8 = 0) ∧ (∀ k < 13, s.readMgmt (0xA00 + 8 * k) 8 = 0) ∧
  s.readMgmt 0x1000 4 = 0 ∧ s.readMgmt 0x1008 4 = 0 ∧ s.readMgmt 0x1010 4 = 0x640 ∧ s.readMgmt 0x1018 8 = 0 ∧
  s.readMgmt 0x1020 8 = 0 ∧
  (∀ g < 4096, ∀ k < 8, s.readBar4 (64 * g + 8 * k) = 0) ∧ s.readBar4 0x40000 = 0 ∧ s.readBar4 0x40008 = 0 ∧
  (∀ k < 36, s.readBar4 (0x41000 + 16 * k) = 0x3E800000000 ∧ s.readBar4 (0x41008 + 16 * k) = 0) ∧
  (∀ g < 512, s.readBar4 (0x42000 + 8 * g) = 0) ∧ s.readBar4 0x43000 = 0 ∧
  s.viral = false ∧ s.blocks = [] ∧ s.mem = [] ∧ s.bootStat = 0

/-- What every step keeps, from every state with a canonical memory: memory stays canonical (so that equal memories are equal
data), the enable fuses and the key digest in the fuses never change (R15, R354), and the fused SVN floor never falls
(R354, R355). -/
def Obligations.EveryStepKeepsMemoryAndFuses : Prop :=
  ∀ s t : State, Memory.wf s.mem = true → step s = .next t →
    Memory.wf t.mem = true ∧ t.coreEn = s.coreEn ∧ t.sec.keyDigest = s.sec.keyDigest ∧ s.sec.svnFloor ≤ t.sec.svnFloor

/-- The machine after reset meets what `EveryStepKeepsMemoryAndFuses` assumes, and has the fuses that it keeps. -/
def Obligations.ResetIsCanonical : Prop :=
  Memory.wf State.reset.mem = true ∧ State.reset.memOk = true ∧ State.reset.coreEn = List.replicate 4 0xFFFFFFFFF ∧
    State.reset.sec.keyDigest = Config.fusedKeyDigest ∧ State.reset.sec.svnFloor = 0
end

