-- ==== Sys2Proof/Laws/Tab.lean ====
section
/-!
SUPPORT. What reading a sparse table gives after a change, whatever the table, and that each change keeps the canonical
form.
-/

namespace Sys2Proof.Machine

section Reads

variable {α : Type}

/-- A read after an insertion. -/
theorem Tab.get_insert (d : α) (t : Tab α) (k j : Nat) (x : α) :
    Tab.get d (Tab.insert t k x) j = if j = k then x else Tab.get d t j := by
  induction t with
  | nil => simp [Tab.insert, Tab.get, eq_comm]
  | cons p r ih =>
    obtain ⟨i, v⟩ := p
    simp only [Tab.insert]
    split
    · subst i; simp only [Tab.get]; (repeat' split) <;> first | rfl | omega
    · split
      · simp only [Tab.get]; (repeat' split) <;> first | rfl | omega
      · by_cases h : i = j
        · subst i; simp [Tab.get]; intro h'; contradiction
        · simp [Tab.get, h, ih]

/-- A read after an erasure. -/
theorem Tab.get_erase (d : α) (t : Tab α) (k j : Nat) :
    Tab.get d (Tab.erase t k) j = if j = k then d else Tab.get d t j := by
  induction t with
  | nil => simp [Tab.erase, Tab.get]
  | cons p r ih =>
    obtain ⟨i, v⟩ := p
    simp only [Tab.erase]
    split
    · subst i; rw [ih]; simp only [Tab.get]; (repeat' split) <;> first | rfl | omega
    · by_cases h : i = j
      · subst i; simp [Tab.get]; intro h'; contradiction
      · simp [Tab.get, h, ih]

/-- A read after a write. -/
theorem Tab.get_set [DecidableEq α] (d : α) (t : Tab α) (k j : Nat) (x : α) :
    Tab.get d (Tab.set d t k x) j = if j = k then x else Tab.get d t j := by
  unfold Tab.set
  split
  · subst x; exact Tab.get_erase ..
  · exact Tab.get_insert ..

/-- A lookup after an insertion. -/
theorem Tab.find_insert (t : Tab α) (k j : Nat) (x : α) :
    Tab.find (Tab.insert t k x) j = if j = k then some x else Tab.find t j := by
  induction t with
  | nil => simp [Tab.insert, Tab.find, eq_comm]
  | cons p r ih =>
    obtain ⟨i, v⟩ := p
    simp only [Tab.insert]
    split
    · subst i; simp only [Tab.find]; (repeat' split) <;> first | rfl | omega
    · split
      · simp only [Tab.find]; (repeat' split) <;> first | rfl | omega
      · by_cases h : i = j
        · subst i; simp [Tab.find]; intro h'; contradiction
        · simp [Tab.find, h, ih]

/-- A lookup after an erasure. -/
theorem Tab.find_erase (t : Tab α) (k j : Nat) :
    Tab.find (Tab.erase t k) j = if j = k then none else Tab.find t j := by
  induction t with
  | nil => simp [Tab.erase, Tab.find]
  | cons p r ih =>
    obtain ⟨i, v⟩ := p
    simp only [Tab.erase]
    split
    · subst i; rw [ih]; simp only [Tab.find]; (repeat' split) <;> first | rfl | omega
    · by_cases h : i = j
      · subst i; simp [Tab.find]; intro h'; contradiction
      · simp [Tab.find, h, ih]

/-- A lookup after a change of one entry. -/
theorem Tab.find_modify (f : α → α) (t : Tab α) (k j : Nat) :
    Tab.find (Tab.modify f t k) j = if j = k then (Tab.find t j).map f else Tab.find t j := by
  induction t with
  | nil => simp [Tab.modify, Tab.find]
  | cons p r ih =>
    obtain ⟨i, v⟩ := p
    simp only [Tab.modify]
    split
    · subst i; by_cases h : k = j
      · simp [Tab.find, h]
      · simp [Tab.find, h, Ne.symm h]
    · by_cases h : i = j
      · subst i; simp [Tab.find]; intro h'; contradiction
      · simp [Tab.find, h, ih]

/-- A read is the lookup, or the default. -/
theorem Tab.get_eq_find (d : α) (t : Tab α) (k : Nat) : Tab.get d t k = (Tab.find t k).getD d := by
  induction t with
  | nil => rfl
  | cons p r ih =>
    obtain ⟨i, v⟩ := p
    simp only [Tab.get, Tab.find]
    split <;> simp [ih]

end Reads

section Canonical

variable {α : Type}

/-- A table sorted from a number is sorted from every smaller one. -/
theorem Tab.sortedFrom_mono {t : Tab α} {lo hi : Nat} (h : lo ≤ hi) (hs : Tab.sortedFrom hi t = true) :
    Tab.sortedFrom lo t = true := by
  cases t with
  | nil => rfl
  | cons p r =>
    obtain ⟨i, v⟩ := p
    simp only [Tab.sortedFrom, Bool.and_eq_true, decide_eq_true_eq] at hs ⊢
    exact ⟨by omega, hs.2⟩

/-- An insertion keeps the order. -/
theorem Tab.sortedFrom_insert {t : Tab α} {lo k : Nat} {x : α} (hk : lo ≤ k) (hs : Tab.sortedFrom lo t = true) :
    Tab.sortedFrom lo (Tab.insert t k x) = true := by
  induction t generalizing lo with
  | nil => simp [Tab.insert, Tab.sortedFrom, hk]
  | cons p r ih =>
    obtain ⟨i, v⟩ := p
    simp only [Tab.sortedFrom, Bool.and_eq_true, decide_eq_true_eq] at hs
    simp only [Tab.insert]
    split
    · subst i; simp [Tab.sortedFrom, hs.1, hs.2]
    · split
      · simp only [Tab.sortedFrom, Bool.and_eq_true, decide_eq_true_eq]
        exact ⟨hk, by omega, hs.2⟩
      · simp only [Tab.sortedFrom, Bool.and_eq_true, decide_eq_true_eq]
        exact ⟨hs.1, ih (by omega) hs.2⟩

/-- An erasure keeps the order. -/
theorem Tab.sortedFrom_erase {t : Tab α} {lo k : Nat} (hs : Tab.sortedFrom lo t = true) :
    Tab.sortedFrom lo (Tab.erase t k) = true := by
  induction t generalizing lo with
  | nil => rfl
  | cons p r ih =>
    obtain ⟨i, v⟩ := p
    simp only [Tab.sortedFrom, Bool.and_eq_true, decide_eq_true_eq] at hs
    simp only [Tab.erase]
    split
    · exact ih (Tab.sortedFrom_mono (by omega) hs.2)
    · simp [Tab.sortedFrom, hs.1, ih hs.2]

/-- An inserted entry or one that was there. -/
theorem Tab.all_insert {q : Nat × α → Bool} {t : Tab α} {k : Nat} {x : α} (hx : q (k, x) = true) (ht : t.all q = true) :
    (Tab.insert t k x).all q = true := by
  induction t with
  | nil => simp [Tab.insert, hx]
  | cons p r ih =>
    obtain ⟨i, v⟩ := p
    simp only [List.all_cons, Bool.and_eq_true] at ht
    simp only [Tab.insert]
    split
    · simp [hx, ht.2]
    · split <;> simp [hx, ht.1, ht.2, ih]

/-- What every entry has, the entries left by an erasure have. -/
theorem Tab.all_erase {q : Nat × α → Bool} {t : Tab α} {k : Nat} (ht : t.all q = true) : (Tab.erase t k).all q = true := by
  induction t with
  | nil => rfl
  | cons p r ih =>
    obtain ⟨i, v⟩ := p
    simp only [List.all_cons, Bool.and_eq_true] at ht
    simp only [Tab.erase]
    split <;> simp [ht.1, ih ht.2]

/-- A write keeps the canonical form. -/
theorem Tab.wf_set [DecidableEq α] {d : α} {t : Tab α} (k : Nat) (x : α) (h : Tab.wf d t = true) :
    Tab.wf d (Tab.set d t k x) = true := by
  simp only [Tab.wf, Bool.and_eq_true] at h ⊢
  unfold Tab.set
  split
  · exact ⟨Tab.sortedFrom_erase h.1, Tab.all_erase h.2⟩
  · rename_i hx
    exact ⟨Tab.sortedFrom_insert (Nat.zero_le k) h.1, Tab.all_insert (by simpa using hx) h.2⟩

end Canonical

end Sys2Proof.Machine
end

