-- ==== Sys2Proof/Laws/Memory.lean ====
section
/-!
SUPPORT. The laws of memory: a read after a write, that a write leaves every other byte alone, and that every memory
operation keeps the canonical form.
-/

namespace Sys2Proof.Machine

/-- Writing a byte keeps the canonical form. -/
theorem Memory.wf_writeByte {m : Memory} (a : Nat) (b : Byte) (h : Memory.wf m = true) :
    Memory.wf (Memory.writeByte m a b) = true :=
  Tab.wf_set a b h

/-- Writing bytes keeps the canonical form. -/
theorem Memory.wf_write {m : Memory} (a : Nat) (bs : List Byte) (h : Memory.wf m = true) :
    Memory.wf (Memory.write m a bs) = true := by
  induction bs generalizing m a with
  | nil => exact h
  | cons b bs ih => exact ih _ (Memory.wf_writeByte a b h)

/-- Writing a number keeps the canonical form. -/
theorem Memory.wf_writeNat {m : Memory} (a n x : Nat) (h : Memory.wf m = true) :
    Memory.wf (Memory.writeNat m a n x) = true :=
  Memory.wf_write a _ h

/-- A byte read after a byte written. -/
theorem Memory.readByte_writeByte (m : Memory) (a c : Nat) (b : Byte) :
    Memory.readByte (Memory.writeByte m a b) c = if c = a then b else Memory.readByte m c :=
  Tab.get_set Memory.blank m a c b

/-- A byte outside the bytes written reads as before. -/
theorem Memory.readByte_write_outside (m : Memory) (a c : Nat) (bs : List Byte) (h : c < a ∨ a + bs.length ≤ c) :
    Memory.readByte (Memory.write m a bs) c = Memory.readByte m c := by
  induction bs generalizing m a with
  | nil => rfl
  | cons b bs ih =>
    simp only [List.length_cons] at h
    rw [Memory.write, ih _ _ (by omega), Memory.readByte_writeByte, if_neg (by omega)]

/-- A byte inside the bytes written reads as written. -/
theorem Memory.readByte_write_inside (m : Memory) (a i : Nat) (bs : List Byte) (h : i < bs.length) :
    Memory.readByte (Memory.write m a bs) (a + i) = bs.getD i 0 := by
  induction bs generalizing m a i with
  | nil => simp at h
  | cons b bs ih =>
    cases i with
    | zero =>
      rw [Memory.write, Memory.readByte_write_outside _ _ _ _ (by omega), Nat.add_zero, Memory.readByte_writeByte]
      simp
    | succ i =>
      have := ih (Memory.writeByte m a b) (a + 1) i (by simpa using h)
      rw [Memory.write, show a + (i + 1) = a + 1 + i by omega, this]
      simp

/-- How many bytes a read gives. -/
theorem Memory.length_read (m : Memory) (a n : Nat) : (Memory.read m a n).length = n := by
  induction n generalizing a with
  | zero => rfl
  | succ n ih => simp [Memory.read, ih]

/-- The bytes of a read are those of memory. -/
theorem Memory.getElem_read (m : Memory) (a n i : Nat) (h : i < (Memory.read m a n).length) :
    (Memory.read m a n)[i] = Memory.readByte m (a + i) := by
  induction n generalizing a i with
  | zero => simp [Memory.read] at h
  | succ n ih =>
    cases i with
    | zero => rfl
    | succ i => simp only [Memory.read, List.getElem_cons_succ]; rw [ih]; congr 1; omega

/-- A read of the bytes written gives them. -/
theorem Memory.read_write (m : Memory) (a : Nat) (bs : List Byte) :
    Memory.read (Memory.write m a bs) a bs.length = bs := by
  apply List.ext_getElem
  · exact Memory.length_read ..
  · intro i h₁ h₂
    rw [Memory.getElem_read, Memory.readByte_write_inside _ _ _ _ h₂]
    simp [h₂]

/-- A read that overlaps none of the bytes written is as before. -/
theorem Memory.read_write_outside (m : Memory) (a c n : Nat) (bs : List Byte) (h : c + n ≤ a ∨ a + bs.length ≤ c) :
    Memory.read (Memory.write m a bs) c n = Memory.read m c n := by
  apply List.ext_getElem
  · rw [Memory.length_read, Memory.length_read]
  · intro i h₁ h₂
    rw [Memory.getElem_read, Memory.getElem_read]
    rw [Memory.length_read] at h₁
    exact Memory.readByte_write_outside _ _ _ _ (by omega)

end Sys2Proof.Machine
end

