-- ==== Sys2Proof/Laws/Regs.lean ====
section
/-!
SUPPORT. What the result operations of a word do to the registers, predicates, latches and flags of the wave that issues, and
that they do nothing else.
-/

namespace Sys2Proof.Machine

/-! ### One register, one latch, one predicate -/

/-- A vector register after a write of one (R22). -/
theorem Arch.v_writeV (a : Arch) (l k x p : Nat) :
    Tab.get 0 (a.writeV l k x).v p = if p = (a.fibre l).wb + k then BitVec.ofNat 32 x else Tab.get 0 a.v p :=
  Tab.get_set ..

/-- Nothing but the vector registers changes when one is written. -/
theorem Arch.writeV_eq (a : Arch) (l k x : Nat) : a.writeV l k x = { a with v := (a.writeV l k x).v } := rfl

/-- Nothing but the vector registers changes when several are written. -/
theorem Arch.writeVn_eq (a : Arch) (l k n x : Nat) : a.writeVn l k n x = { a with v := (a.writeVn l k n x).v } := by
  induction n generalizing a k x with
  | zero => rfl
  | succ n ih => rw [Arch.writeVn, ih]; rfl

/-- A vector register after a write of `n` from v(k): the low word goes to the lower register (R75). -/
theorem Arch.v_writeVn (a : Arch) (l k n x p : Nat) :
    Tab.get 0 (a.writeVn l k n x).v p =
      if (a.fibre l).wb + k ≤ p ∧ p < (a.fibre l).wb + k + n then BitVec.ofNat 32 (x >>> (32 * (p - ((a.fibre l).wb + k))))
      else Tab.get 0 a.v p := by
  induction n generalizing a k x with
  | zero => rw [Arch.writeVn, if_neg (by omega)]
  | succ n ih =>
    rw [Arch.writeVn, ih, Arch.v_writeV]
    have hw : ((a.writeV l k (x % 2 ^ 32)).fibre l).wb = (a.fibre l).wb := rfl
    rw [hw]
    by_cases h : p = (a.fibre l).wb + k
    · subst h
      rw [if_neg (by omega), if_pos rfl, if_pos (by omega)]
      apply BitVec.eq_of_toNat_eq
      simp
    · rw [if_neg h]
      by_cases h2 : (a.fibre l).wb + (k + 1) ≤ p ∧ p < (a.fibre l).wb + (k + 1) + n
      · rw [if_pos h2, if_pos (by omega)]
        congr 1
        rw [← Nat.shiftRight_eq_div_pow, ← Nat.shiftRight_add]
        congr 1
        omega
      · rw [if_neg h2, if_neg (by omega)]

/-- A latch entry after a write of one (R64). -/
theorem Arch.lat_writeL (a : Arch) (l k x q : Nat) :
    Tab.find (a.writeL l k x).lat q = if q = 4 * l + k then some ⟨BitVec.ofNat 64 x, 0⟩ else Tab.find a.lat q :=
  Tab.find_insert ..

/-- A latch entry after its valid bit is cleared (R64). -/
theorem Arch.lat_clearL (a : Arch) (l k q : Nat) :
    Tab.find (a.clearL l k).lat q = if q = 4 * l + k then none else Tab.find a.lat q :=
  Tab.find_erase ..

/-- A scalar after a write of one (R75). -/
theorem Arch.sc_writeS (a : Arch) (k x q : Nat) :
    Tab.get 0 (a.writeS k x).sc q = if q = k then BitVec.ofNat 64 x else Tab.get 0 a.sc q :=
  Tab.get_set ..

/-- The predicate word with one predicate written; p0 stays (R22). -/
def predSet (w : B16) (k : Nat) (x : Bool) : B16 :=
  if k = 0 then w else if x then w ||| 1#16 <<< k else w &&& ~~~(1#16 <<< k)

/-- A predicate write changes the fibre's predicate word only (R22). -/
theorem Arch.writeP_eq (a : Arch) (l k : Nat) (x : Bool) :
    a.writeP l k x = { a with fib := a.fib.modify l fun f => { f with pred := predSet f.pred k x } } := by
  have hmod : ∀ (L : List Fibre) (i : Nat) (g : Fibre → Fibre), L.modify i g = L.set i (g (L.getD i {})) := by
    intro L
    induction L with
    | nil => intro i g; cases i <;> rfl
    | cons y ys ih =>
      intro i g
      cases i with
      | zero => rfl
      | succ i => simpa using ih i g
  unfold Arch.writeP
  split
  · subst k
    rw [hmod, predSet, if_pos rfl]
    cases a
    congr 1
    simp only [List.getD_eq_getElem?_getD]
    by_cases h : l < List.length (α := Fibre) ‹_›
    · simp only [List.getElem?_eq_getElem h, Option.getD_some]
      exact (List.set_getElem_self h).symm
    · rw [List.set_eq_of_length_le (by omega)]
  · rename_i hk
    rw [hmod]
    cases x <;> simp [Arch.setFibre, Arch.fibre, predSet, hk]

/-- A bit of the predicate word after one predicate is written: p0 keeps its value (R22). -/
theorem getLsbD_predSet (w : B16) (k j : Nat) (x : Bool) (hj : j < 16) :
    (predSet w k x).getLsbD j = if j = k ∧ k ≠ 0 then x else w.getLsbD j := by
  have h1 : (1#16 <<< k).getLsbD j = decide (j = k) := by
    rw [BitVec.getLsbD_shiftLeft, BitVec.getLsbD_one, Bool.eq_iff_iff]
    simp only [Bool.and_eq_true, Bool.not_eq_true', decide_eq_true_eq, decide_eq_false_iff_not]
    omega
  unfold predSet
  split
  · rename_i hk; rw [if_neg (by omega)]
  · rename_i hk
    cases x with
    | true =>
      rw [if_pos rfl, BitVec.getLsbD_or, h1]
      by_cases hjk : j = k <;> simp [hjk, hk]
    | false =>
      rw [if_neg (by simp), BitVec.getLsbD_and, BitVec.getLsbD_not, h1]
      by_cases hjk : j = k <;> simp [hjk, hk, hj]

/-! ### Results of a word -/

namespace Issue

/-- `e'` differs from `e` at most in the vector registers, the latches and the flags of the wave that issues. -/
def sameButVL (e e' : Issue) : Prop :=
  e' = { e with fl := e'.fl, cur := { e.cur with arch := { e.cur.arch with v := e'.cur.arch.v, lat := e'.cur.arch.lat } } }

theorem sameButVL_refl (e : Issue) : sameButVL e e := rfl

theorem sameButVL_trans {e f g : Issue} (h : sameButVL e f) (k : sameButVL f g) : sameButVL e g := by
  unfold sameButVL at *
  rw [k, h]

theorem sameButVL_foldl {α : Type} {f : Issue → α → Issue} (hf : ∀ e x, sameButVL e (f e x)) (l : List α) (e : Issue) :
    sameButVL e (l.foldl f e) := by
  induction l generalizing e with
  | nil => exact sameButVL_refl e
  | cons x l ih => exact sameButVL_trans (hf e x) (ih _)

theorem sameButVL_onArch {e : Issue} {f : Arch → Arch} (h : ∀ a, f a = { a with v := (f a).v, lat := (f a).lat }) :
    sameButVL e (e.onArch f) := by
  unfold sameButVL onArch
  conv => lhs; rw [h]

theorem sameButVL_addFlags (e : Issue) (l fl : Nat) : sameButVL e (e.addFlags l fl) := by
  unfold addFlags; split <;> rfl

/-- What a clearing of latches leaves (R64). -/
theorem foldl_clearL_eq (L : List Nat) (k : Nat) (a : Arch) :
    L.foldl (fun a l => a.clearL l k) a = { a with lat := (L.foldl (fun a l => a.clearL l k) a).lat } := by
  induction L generalizing a with
  | nil => rfl
  | cons x L ih => rw [List.foldl_cons, ih]; rfl

theorem lat_foldl_clearL (L : List Nat) (k : Nat) (a : Arch) (q : Nat) :
    Tab.find (L.foldl (fun a l => a.clearL l k) a).lat q = if ∃ l ∈ L, q = 4 * l + k then none else Tab.find a.lat q := by
  induction L generalizing a with
  | nil => simp
  | cons x L ih =>
    rw [List.foldl_cons, ih, Arch.lat_clearL]
    by_cases h1 : ∃ l ∈ L, q = 4 * l + k
    · rw [if_pos h1, if_pos (by obtain ⟨l, hl, h⟩ := h1; exact ⟨l, List.mem_cons_of_mem _ hl, h⟩)]
    · rw [if_neg h1]
      by_cases h2 : q = 4 * x + k
      · rw [if_pos h2, if_pos ⟨x, List.mem_cons_self .., h2⟩]
      · rw [if_neg h2, if_neg]
        rintro ⟨l, hl, h⟩
        rcases List.mem_cons.1 hl with rfl | hl
        · exact h2 h
        · exact h1 ⟨l, hl, h⟩

theorem sameButVL_clearLatch (e : Issue) (k : Nat) : sameButVL e (e.clearLatch k) := by
  unfold clearLatch
  exact sameButVL_onArch fun a => by rw [foldl_clearL_eq]

theorem sameButVL_putV (e : Issue) (n : Bit) (d k lt l x : Nat) : sameButVL e (e.putV n d k lt l x) := by
  apply sameButVL_onArch
  intro a
  simp only [Arch.writeL]
  split
  · rfl
  · rw [Arch.writeVn_eq]

/-- A result in vector registers changes those, the latches and the flags only (R76, R124). -/
theorem sameButVL_mapV (e : Issue) (n : Bit) (d : BitVec 7) (k lt : Nat) (f : Nat → Res) :
    sameButVL e (e.mapV n d k lt f) :=
  sameButVL_trans (sameButVL_clearLatch e lt)
    (sameButVL_foldl (fun e _ => sameButVL_trans (sameButVL_putV e ..) (sameButVL_addFlags ..)) _ _)

/-- The part of the bundle in which a word takes effect is the same after a change of registers, latches and flags. -/
theorem eff_of_sameButVL {e e' : Issue} (h : sameButVL e e') : e'.eff = e.eff := by
  rw [h]; rfl

theorem live_of_sameButVL {e e' : Issue} (h : sameButVL e e') : e'.live = e.live := by rw [h]

theorem wb_of_sameButVL {e e' : Issue} (h : sameButVL e e') (l : Nat) :
    (e'.cur.arch.fibre l).wb = (e.cur.arch.fibre l).wb := by rw [h]; rfl

/-- Setting flags changes no register. -/
theorem cur_addFlags (e : Issue) (l fl : Nat) : (e.addFlags l fl).cur = e.cur := by
  unfold addFlags; split <;> rfl

/-- The last of some fibres whose `k` registers from v(d) hold physical register `p`. -/
def writer (e : Issue) (d k p : Nat) (L : List Nat) : Option Nat :=
  (L.filter fun l => decide ((e.cur.arch.fibre l).wb + d ≤ p ∧ p < (e.cur.arch.fibre l).wb + d + k)).getLast?

theorem writer_cons (e : Issue) (d k p l : Nat) (L : List Nat) :
    writer e d k p (l :: L) =
      match writer e d k p L with
      | some m => some m
      | none => if (e.cur.arch.fibre l).wb + d ≤ p ∧ p < (e.cur.arch.fibre l).wb + d + k then some l else none := by
  unfold writer
  by_cases h : (e.cur.arch.fibre l).wb + d ≤ p ∧ p < (e.cur.arch.fibre l).wb + d + k
  · rw [List.filter_cons_of_pos (by simpa using h), List.getLast?_cons]
    cases hm : (List.filter _ L).getLast? <;> simp [h]
  · rw [List.filter_cons_of_neg (by simpa using h)]
    cases hm : (List.filter _ L).getLast? <;> simp [h]

theorem writer_of_sameButVL {e e' : Issue} (h : sameButVL e e') (d k p : Nat) (L : List Nat) :
    writer e' d k p L = writer e d k p L := by
  unfold writer
  simp only [wb_of_sameButVL h]

/-- A vector register after the results of a word have been put in some fibres. -/
theorem v_foldl_putV (e : Issue) (n : Bit) (d k lt : Nat) (f : Nat → Res) (L : List Nat) (p : Nat) :
    Tab.get 0 (L.foldl (fun e' l => (e'.putV n d k lt l (f l).v).addFlags l (f l).fl) e).cur.arch.v p =
      if n = 1 then Tab.get 0 e.cur.arch.v p
      else match writer e d k p L with
        | some l => BitVec.ofNat 32 ((f l).v >>> (32 * (p - ((e.cur.arch.fibre l).wb + d))))
        | none => Tab.get 0 e.cur.arch.v p := by
  induction L generalizing e with
  | nil => simp [writer]
  | cons l L ih =>
    have hs : sameButVL e ((e.putV n d k lt l (f l).v).addFlags l (f l).fl) :=
      sameButVL_trans (sameButVL_putV e ..) (sameButVL_addFlags ..)
    rw [List.foldl_cons, ih, writer_of_sameButVL hs, writer_cons]
    have hw := wb_of_sameButVL (sameButVL_putV e n d k lt l (f l).v)
    simp only [cur_addFlags, hw]
    by_cases hn : n = 1
    · simp only [if_pos hn]
      simp only [putV, onArch, Arch.writeL, if_pos hn]
    · simp only [if_neg hn]
      cases writer e d k p L with
      | some m => rfl
      | none =>
        have hv : Tab.get 0 (e.putV n d k lt l (f l).v).cur.arch.v p =
            Tab.get 0 (e.cur.arch.writeVn l d k (f l).v).v p := by
          simp only [putV, onArch, Arch.writeL, if_neg hn]
        simp only [hv, Arch.v_writeVn]
        split <;> rfl

/-- A vector register after a V-pipe or X-pipe word (R76): the value of the last fibre that writes it. -/
theorem v_mapV (e : Issue) (n : Bit) (d : BitVec 7) (k lt : Nat) (f : Nat → Res) (p : Nat) :
    Tab.get 0 (e.mapV n d k lt f).cur.arch.v p =
      if n = 1 then Tab.get 0 e.cur.arch.v p
      else match writer e d.toNat k p e.eff with
        | some l => BitVec.ofNat 32 ((f l).v >>> (32 * (p - ((e.cur.arch.fibre l).wb + d.toNat))))
        | none => Tab.get 0 e.cur.arch.v p := by
  have hc : sameButVL e (e.clearLatch lt) := sameButVL_clearLatch e lt
  have hv : (e.clearLatch lt).cur.arch.v = e.cur.arch.v := by
    unfold clearLatch onArch; simp only; rw [foldl_clearL_eq]
  unfold mapV
  rw [v_foldl_putV, writer_of_sameButVL hc, hv]
  simp only [wb_of_sameButVL hc]

theorem lat_putV (e : Issue) (n : Bit) (d k lt l x q : Nat) :
    Tab.find (e.putV n d k lt l x).cur.arch.lat q =
      if q = 4 * l + lt then some ⟨BitVec.ofNat 64 x, 0⟩ else Tab.find e.cur.arch.lat q := by
  unfold putV onArch
  simp only [Arch.lat_writeL]
  split
  · rfl
  · split
    · rfl
    · rw [Arch.writeVn_eq]

theorem lat_foldl_putV (e : Issue) (n : Bit) (d k lt : Nat) (f : Nat → Res) (L : List Nat) (q : Nat) :
    Tab.find (L.foldl (fun e' l => (e'.putV n d k lt l (f l).v).addFlags l (f l).fl) e).cur.arch.lat q =
      match (L.filter fun l => decide (q = 4 * l + lt)).getLast? with
      | some l => some ⟨BitVec.ofNat 64 (f l).v, 0⟩
      | none => Tab.find e.cur.arch.lat q := by
  induction L generalizing e with
  | nil => rfl
  | cons l L ih =>
    rw [List.foldl_cons, ih]
    simp only [cur_addFlags, lat_putV]
    by_cases h : q = 4 * l + lt
    · rw [List.filter_cons_of_pos (by simpa using h), List.getLast?_cons]
      cases hm : (List.filter _ L).getLast? <;> simp [h]
    · rw [List.filter_cons_of_neg (by simpa using h)]
      cases hm : (List.filter _ L).getLast? <;> simp [h]

/-- A latch entry after a V-pipe or X-pipe word (R64): the result where the word takes effect, invalid in the bundle's other
fibres, and every other entry as it was. -/
theorem lat_mapV (e : Issue) (n : Bit) (d : BitVec 7) (k lt : Nat) (f : Nat → Res) (q : Nat) :
    Tab.find (e.mapV n d k lt f).cur.arch.lat q =
      match (e.eff.filter fun l => decide (q = 4 * l + lt)).getLast? with
      | some l => some ⟨BitVec.ofNat 64 (f l).v, 0⟩
      | none => if ∃ l ∈ e.lanes, q = 4 * l + lt then none else Tab.find e.cur.arch.lat q := by
  unfold mapV
  rw [lat_foldl_putV]
  cases h : (e.eff.filter fun l => decide (q = 4 * l + lt)).getLast? with
  | some l => rfl
  | none =>
    simp only
    unfold clearLatch onArch
    simp only [lat_foldl_clearL]
    have hnone : ∀ l ∈ e.eff, q ≠ 4 * l + lt := by
      intro l hl heq
      have : l ∈ (e.eff.filter fun l => decide (q = 4 * l + lt)) := by simp [hl, heq]
      rw [List.getLast?_eq_none_iff] at h
      rw [h] at this
      cases this
    by_cases hx : ∃ l ∈ e.lanes, q = 4 * l + lt
    · rw [if_pos hx, if_pos]
      obtain ⟨l, hl, hq⟩ := hx
      refine ⟨l, ?_, hq⟩
      simp only [List.mem_filter, hl, true_and, Bool.not_eq_true']
      simp only [List.contains_eq_mem, decide_eq_false_iff_not]
      exact fun hm => hnone l hm hq
    · rw [if_neg hx, if_neg]
      rintro ⟨l, hl, hq⟩
      exact hx ⟨l, (List.mem_filter.1 hl).1, hq⟩

/-- The flags of a word: those of the LIVE fibres in which it takes effect are ORed in (R111). -/
theorem fl_mapV (e : Issue) (n : Bit) (d : BitVec 7) (k lt : Nat) (f : Nat → Res) :
    (e.mapV n d k lt f).fl = e.effLive.foldl (fun m l => m ||| (f l).fl) e.fl := by
  have h : ∀ (L : List Nat) (e' : Issue), e'.live = e.live →
      (L.foldl (fun e' l => (e'.putV n d.toNat k lt l (f l).v).addFlags l (f l).fl) e').fl =
        (L.filter fun l => e.live.contains l).foldl (fun m l => m ||| (f l).fl) e'.fl := by
    intro L
    induction L with
    | nil => intro e' _; rfl
    | cons l L ih =>
      intro e' he
      have hs : sameButVL e' ((e'.putV n d.toNat k lt l (f l).v).addFlags l (f l).fl) :=
        sameButVL_trans (sameButVL_putV e' ..) (sameButVL_addFlags ..)
      rw [List.foldl_cons, ih _ (by rw [live_of_sameButVL hs, he]), List.filter_cons]
      have hfl : ((e'.putV n d.toNat k lt l (f l).v).addFlags l (f l).fl).fl =
          if e.live.contains l then e'.fl ||| (f l).fl else e'.fl := by
        unfold addFlags putV onArch
        simp only [he]
        split <;> rfl
      rw [hfl]
      by_cases hc : e.live.contains l = true
      · rw [if_pos hc, if_pos hc]; rfl
      · rw [if_neg hc, if_neg hc]
  unfold mapV effLive
  exact h _ _ (live_of_sameButVL (sameButVL_clearLatch e lt))

/-- A word that writes a predicate changes the predicate words only: in turn, for each fibre in which it takes effect. -/
theorem mapP_eq (e : Issue) (p : Nat) (f : Nat → Bool) :
    e.mapP p f = { e with cur := { e.cur with arch := { e.cur.arch with
      fib := e.eff.foldl (fun L l => L.modify l fun x => { x with pred := predSet x.pred p (f l) }) e.cur.arch.fib } } } := by
  unfold mapP
  generalize e.eff = L
  induction L generalizing e with
  | nil => rfl
  | cons l L ih => rw [List.foldl_cons, ih]; simp only [onArch, Arch.writeP_eq, List.foldl_cons]

/-! ### Scalar results and latches alone -/

theorem foldl_writeL_eq (L : List Nat) (lt x : Nat) (a : Arch) :
    L.foldl (fun a l => a.writeL l lt x) a = { a with lat := (L.foldl (fun a l => a.writeL l lt x) a).lat } := by
  induction L generalizing a with
  | nil => rfl
  | cons l L ih => rw [List.foldl_cons, ih]; rfl

/-- A latch entry after one value has been written for several fibres. -/
theorem lat_foldl_writeL (L : List Nat) (lt x : Nat) (a : Arch) (q : Nat) :
    Tab.find (L.foldl (fun a l => a.writeL l lt x) a).lat q =
      if ∃ l ∈ L, q = 4 * l + lt then some ⟨BitVec.ofNat 64 x, 0⟩ else Tab.find a.lat q := by
  induction L generalizing a with
  | nil => simp
  | cons l L ih =>
    rw [List.foldl_cons, ih, Arch.lat_writeL]
    by_cases h : ∃ l ∈ L, q = 4 * l + lt
    · rw [if_pos h, if_pos (by obtain ⟨m, hm, h⟩ := h; exact ⟨m, List.mem_cons_of_mem _ hm, h⟩)]
    · rw [if_neg h]
      by_cases h2 : q = 4 * l + lt
      · rw [if_pos h2, if_pos ⟨l, List.mem_cons_self .., h2⟩]
      · rw [if_neg h2, if_neg]
        rintro ⟨m, hm, h3⟩
        rcases List.mem_cons.1 hm with rfl | hm
        · exact h2 h3
        · exact h ⟨m, hm, h3⟩

/-- `e'` differs from `e` at most in the scalars and the latches of the wave that issues. -/
def sameButSL (e e' : Issue) : Prop :=
  e' = { e with cur := { e.cur with arch := { e.cur.arch with sc := e'.cur.arch.sc, lat := e'.cur.arch.lat } } }

theorem clearLatch_eq (e : Issue) (k : Nat) :
    e.clearLatch k =
      { e with cur := { e.cur with arch := { e.cur.arch with lat := (e.clearLatch k).cur.arch.lat } } } := by
  have h := sameButVL_clearLatch e k
  have hv : (e.clearLatch k).cur.arch.v = e.cur.arch.v := by
    unfold clearLatch onArch; simp only; rw [foldl_clearL_eq]
  have hf : (e.clearLatch k).fl = e.fl := rfl
  unfold sameButVL at h
  rw [hv, hf] at h
  exact h

theorem lat_clearLatch (e : Issue) (k q : Nat) :
    Tab.find (e.clearLatch k).cur.arch.lat q =
      if ∃ l ∈ e.lanes, l ∉ e.eff ∧ q = 4 * l + k then none else Tab.find e.cur.arch.lat q := by
  unfold clearLatch onArch
  simp only [lat_foldl_clearL]
  simp only [List.mem_filter, List.contains_eq_mem, Bool.not_eq_true', decide_eq_false_iff_not, and_assoc]

/-- A latch entry after an S-pipe word with a scalar result, or after a latch result (R64, R76). -/
theorem lat_writeAll (e : Issue) (lt x q : Nat) (g : Arch → Arch) (hg : ∀ a, (g a).lat = a.lat) :
    Tab.find (((e.clearLatch lt).onArch fun a => e.eff.foldl (fun a l => a.writeL l lt x) (g a))).cur.arch.lat q =
      if ∃ l ∈ e.eff, q = 4 * l + lt then some ⟨BitVec.ofNat 64 x, 0⟩
      else if ∃ l ∈ e.lanes, q = 4 * l + lt then none else Tab.find e.cur.arch.lat q := by
  have h0 : Tab.find (((e.clearLatch lt).onArch fun a => e.eff.foldl (fun a l => a.writeL l lt x) (g a))).cur.arch.lat q =
      if ∃ l ∈ e.eff, q = 4 * l + lt then some ⟨BitVec.ofNat 64 x, 0⟩ else Tab.find (e.clearLatch lt).cur.arch.lat q := by
    unfold onArch; simp only [lat_foldl_writeL, hg]
  rw [h0]
  split
  · rfl
  · rename_i hne
    rw [lat_clearLatch]
    by_cases h : ∃ l ∈ e.lanes, q = 4 * l + lt
    · rw [if_pos h, if_pos (by obtain ⟨l, hl, hq⟩ := h; exact ⟨l, hl, fun he => hne ⟨l, he, hq⟩, hq⟩)]
    · rw [if_neg h, if_neg (by rintro ⟨l, hl, -, hq⟩; exact h ⟨l, hl, hq⟩)]

/-- An S-pipe word that takes effect nowhere (R67). -/
theorem putS_nil (e : Issue) (n : Bit) (d : BitVec 7) (lt x : Nat) (h : e.eff = []) : e.putS n d lt x = e.clearLatch lt := by
  simp [putS, h]

/-- An S-pipe word that takes effect (R76). -/
theorem putS_cons (e : Issue) (n : Bit) (d : BitVec 7) (lt x : Nat) (h : e.eff ≠ []) :
    e.putS n d lt x = (e.clearLatch lt).onArch fun a =>
      e.eff.foldl (fun a l => a.writeL l lt x) (if n = 1 then a else a.writeS (d.toNat % 64) x) := by
  simp only [putS, List.isEmpty_iff, h, if_false]

/-- A scalar result changes the scalars and the latches only. -/
theorem sameButSL_putS (e : Issue) (n : Bit) (d : BitVec 7) (lt x : Nat) : sameButSL e (e.putS n d lt x) := by
  unfold sameButSL
  by_cases h : e.eff = []
  · rw [putS_nil e n d lt x h, clearLatch_eq]
  · rw [putS_cons e n d lt x h, clearLatch_eq]
    unfold onArch
    simp only
    rw [foldl_writeL_eq]
    split <;> rfl

/-- The scalars after an S-pipe word (R59, R76). -/
theorem sc_putS (e : Issue) (n : Bit) (d : BitVec 7) (lt x k : Nat) :
    Tab.get 0 (e.putS n d lt x).cur.arch.sc k =
      if n ≠ 1 ∧ e.eff ≠ [] ∧ k = d.toNat % 64 then BitVec.ofNat 64 x else Tab.get 0 e.cur.arch.sc k := by
  by_cases h : e.eff = []
  · rw [putS_nil e n d lt x h, clearLatch_eq]; simp [h]
  · rw [putS_cons e n d lt x h, clearLatch_eq]
    unfold onArch
    simp only
    rw [foldl_writeL_eq]
    by_cases hn : n = 1
    · simp [hn]
    · simp only [if_neg hn, Arch.sc_writeS]
      simp only [ne_eq, hn, not_false_eq_true, h, true_and]

/-- The latches after an S-pipe word (R64, R76). -/
theorem lat_putS (e : Issue) (n : Bit) (d : BitVec 7) (lt x q : Nat) :
    Tab.find (e.putS n d lt x).cur.arch.lat q =
      if ∃ l ∈ e.eff, q = 4 * l + lt then some ⟨BitVec.ofNat 64 x, 0⟩
      else if ∃ l ∈ e.lanes, q = 4 * l + lt then none else Tab.find e.cur.arch.lat q := by
  by_cases h : e.eff = []
  · rw [putS_nil e n d lt x h, lat_clearLatch]; simp [h]
  · rw [putS_cons e n d lt x h, lat_writeAll]
    intro a; split <;> rfl

/-- The latches after a latch result (R64). -/
theorem lat_putLatch (e : Issue) (lt x q : Nat) :
    Tab.find (e.putLatch lt x).cur.arch.lat q =
      if ∃ l ∈ e.eff, q = 4 * l + lt then some ⟨BitVec.ofNat 64 x, 0⟩
      else if ∃ l ∈ e.lanes, q = 4 * l + lt then none else Tab.find e.cur.arch.lat q :=
  lat_writeAll e lt x q id fun _ => rfl

/-- A latch result changes the latches only. -/
theorem putLatch_eq (e : Issue) (lt x : Nat) :
    e.putLatch lt x =
      { e with cur := { e.cur with arch := { e.cur.arch with lat := (e.putLatch lt x).cur.arch.lat } } } := by
  unfold putLatch
  rw [clearLatch_eq]
  unfold onArch
  simp only
  rw [foldl_writeL_eq]

end Issue

/-! ### The size of what is read -/

theorem Arch.readV_lt (a : Arch) (l k : Nat) : a.readV l k < 2 ^ 32 := BitVec.isLt _

theorem Arch.readS_lt (a : Arch) (k : Nat) : a.readS k < 2 ^ 64 := BitVec.isLt _

theorem Arch.readVn_lt (a : Arch) (l k n : Nat) : a.readVn l k n < 2 ^ (32 * n) := by
  induction n generalizing k with
  | zero => simp [Arch.readVn]
  | succ n ih =>
    have h1 := Arch.readV_lt a l k
    have h2 := ih (k + 1)
    simp only [Arch.readVn]
    rw [show 32 * (n + 1) = 32 * n + 32 by omega, Nat.pow_add]
    generalize 2 ^ (32 * n) = m at *
    omega

theorem Arch.readL_lt (a : Arch) (l k : Nat) : a.readL l k < 2 ^ 64 := by
  unfold Arch.readL; split
  · exact BitVec.isLt _
  · decide

theorem wrap_lt (w : Nat) (x : Int) : wrap w x < 2 ^ w := by
  unfold wrap
  have h : (0 : Int) < ((2 ^ w : Nat) : Int) := by exact_mod_cast Nat.two_pow_pos w
  have h1 := Int.emod_nonneg x (Int.ne_of_gt h)
  have h2 := Int.emod_lt_of_pos x h
  omega

/-- A 32-bit integer source fits 32 bits. -/
theorem src32_lt (a : Arch) (l : Nat) (b : Byte) : src32 .int a l b < 2 ^ 32 := by
  unfold src32
  simp only
  split
  · exact Arch.readV_lt ..
  · split
    · exact Nat.mod_lt _ (Nat.two_pow_pos _)
    · split
      · exact Nat.mod_lt _ (Nat.two_pow_pos _)
      · split
        · exact Nat.two_pow_pos _
        · exact wrap_lt ..

/-- A 64-bit integer source fits 64 bits. -/
theorem src64_lt (a : Arch) (l : Nat) (b : Byte) : src64 .int a l b < 2 ^ 64 := by
  unfold src64
  simp only
  split
  · exact Arch.readVn_lt _ _ _ 2
  · split
    · exact Arch.readS_lt ..
    · split
      · exact Arch.readL_lt ..
      · split
        · exact Nat.two_pow_pos _
        · exact wrap_lt ..

/-- A scalar source fits 64 bits. -/
theorem ssrc_lt (a : Arch) (l : Nat) (b : Byte) : ssrc a l b < 2 ^ 64 := by
  unfold ssrc
  split
  · exact Nat.lt_of_lt_of_le (Arch.readV_lt ..) (by decide)
  · exact src64_lt ..

end Sys2Proof.Machine
end

