-- ==== Sys2Proof/Laws/Space.lean ====
section
/-!
SUPPORT. The spaces of blocks (R166, R167): what a byte of a space reads as after a line has been changed or bytes have been
written, and that nothing but the local array changes.
-/

namespace Sys2Proof.Machine

/-- The pinned line that satisfies the test of a change is the one changed. -/
theorem Tab.find?_modifyFirst_same {α : Type} (p : α → Bool) (f : α → α) (t : Tab α) (hf : ∀ x, p (f x) = p x) :
    (Tab.modifyFirst p f t).find? (fun x => p x.2) = (t.find? fun x => p x.2).map fun x => (x.1, f x.2) := by
  induction t with
  | nil => rfl
  | cons y r ih =>
    obtain ⟨i, v⟩ := y
    simp only [Tab.modifyFirst]
    by_cases h : p v = true
    · rw [if_pos h]; simp [h, hf]
    · rw [if_neg h]; simp [h, ih]

/-- A line that satisfies another test is as it was. -/
theorem Tab.find?_modifyFirst_other {α : Type} (p q : α → Bool) (f : α → α) (t : Tab α) (hq : ∀ x, q (f x) = q x)
    (h : ∀ x, p x = true → q x = false) :
    (Tab.modifyFirst p f t).find? (fun x => q x.2) = t.find? fun x => q x.2 := by
  induction t with
  | nil => rfl
  | cons y r ih =>
    obtain ⟨i, v⟩ := y
    simp only [Tab.modifyFirst]
    by_cases hp : p v = true
    · rw [if_pos hp]; simp [hq, h v hp]
    · rw [if_neg hp]; simp only [List.find?_cons, ih]

namespace State

/-- A core after a change of one. -/
theorem core_onCore (s : State) (n m : Nat) (f : CoreSt → CoreSt) :
    (s.onCore n f).core m = if m = n then f (s.core n) else s.core m :=
  Tab.get_insert ..

/-- A block after a change of one. -/
theorem blk?_onBlk (s : State) (b c : Nat) (f : Block → Block) :
    (s.onBlk b f).blk? c = if c = b then (s.blk? c).map f else s.blk? c :=
  Tab.find_modify ..

/-- A partition after a change of one. -/
theorem part_onPart (s : State) (p q : Nat) (f : Part → Part) :
    (s.onPart p f).part q = if q = p then f (s.part p) else s.part q :=
  Tab.get_insert ..

/-- A cluster after a change of one. -/
theorem cluster_onCluster (s : State) (k j : Nat) (f : Cluster → Cluster) :
    (s.onCluster k f).cluster j = if j = k then f (s.cluster k) else s.cluster j :=
  Tab.get_insert ..

/-- A gate after a change of one. -/
theorem gate_onGate (s : State) (g h : Nat) (f : Gate → Gate) :
    (s.onGate g f).gate h = if h = g then f (s.gate g) else s.gate h :=
  Tab.get_insert ..

/-- A change of a space line changes the cores only. -/
theorem onSpaceLine_eq (s : State) (b space ix : Nat) (f : Line → Line) :
    s.onSpaceLine b space ix f = { s with cores := (s.onSpaceLine b space ix f).cores } := by
  unfold onSpaceLine; split <;> rfl

/-- Where a line is after a line has been changed that stays at its place (R167). -/
theorem spaceWay_onSpaceLine (s : State) (b space ix : Nat) (f : Line → Line) (hf : ∀ l, (f l).st = l.st) (b' space' ix' : Nat) :
    (s.onSpaceLine b space ix f).spaceWay b' space' ix' =
      if b' = b ∧ space' = space ∧ ix' = ix then (s.spaceWay b space ix).map fun x => (x.1, f x.2)
      else s.spaceWay b' space' ix' := by
  unfold onSpaceLine
  by_cases hn : (s.spaceWay b space ix).isNone = true
  · rw [if_pos hn]
    split
    · rename_i h; obtain ⟨rfl, rfl, rfl⟩ := h
      rw [Option.isNone_iff_eq_none.1 hn]; rfl
    · rfl
  · rw [if_neg hn]
    unfold spaceWay
    have hb : ∀ c, ((s.onCore (s.blk b).core fun c =>
        { c with lines := Tab.modifyFirst (fun l => l.st == .pinned b space ix) f c.lines }).blk c) = s.blk c := fun _ => rfl
    rw [hb, core_onCore]
    by_cases hsame : b' = b ∧ space' = space ∧ ix' = ix
    · obtain ⟨rfl, rfl, rfl⟩ := hsame
      rw [if_pos rfl, if_pos ⟨rfl, rfl, rfl⟩]
      exact Tab.find?_modifyFirst_same (fun l : Line => l.st == .pinned b' space' ix') f _ fun l => by simp only [hf]
    · rw [if_neg hsame]
      split
      · rename_i hc
        rw [hc]
        apply Tab.find?_modifyFirst_other (fun l : Line => l.st == .pinned b space ix) (fun l : Line => l.st == .pinned b' space' ix')
        · intro l; simp only [hf]
        · intro l hl
          rw [beq_iff_eq] at hl
          rw [hl, beq_eq_false_iff_ne]
          intro he
          injection he with h1 h2 h3
          exact hsame ⟨h1.symm, h2.symm, h3.symm⟩
      · rfl

/-- A byte of a space after bytes have been written into one line (R167, R170). -/
theorem spaceByte_spaceWrite (s : State) (b space ea : Nat) (data : List Byte) (hd : ea % 1024 + data.length ≤ 1024)
    (b' space' a : Nat) :
    (s.spaceWrite b space ea data).spaceByte b' space' a =
      if b' = b ∧ space' = space ∧ ea ≤ a ∧ a < ea + data.length ∧ (s.spaceWay b space (ea / 1024)).isSome
      then data.getD (a - ea) 0 else s.spaceByte b' space' a := by
  unfold spaceWrite spaceByte
  rw [spaceWay_onSpaceLine (hf := by intro l; rfl)]
  by_cases h : b' = b ∧ space' = space ∧ a / 1024 = ea / 1024
  · rw [if_pos h]
    obtain ⟨rfl, rfl, hx⟩ := h
    rw [hx]
    cases hw : s.spaceWay b' space' (ea / 1024) with
    | none => simp
    | some x =>
      simp only [Option.map_some]
      by_cases hr : ea ≤ a ∧ a < ea + data.length
      · rw [if_pos (by simp [hr.1, hr.2])]
        have : a % 1024 = ea % 1024 + (a - ea) := by omega
        rw [this]
        exact Memory.readByte_write_inside _ _ _ _ (by omega)
      · rw [if_neg (fun h => hr ⟨h.2.2.1, h.2.2.2.1⟩)]
        exact Memory.readByte_write_outside _ _ _ _ (by omega)
  · rw [if_neg h, if_neg]
    rintro ⟨rfl, rfl, h1, h2, -⟩
    exact h ⟨rfl, rfl, by omega⟩

/-- A write into a space changes the cores only. -/
theorem spaceWrite_eq (s : State) (b space ea : Nat) (data : List Byte) :
    s.spaceWrite b space ea data = { s with cores := (s.spaceWrite b space ea data).cores } :=
  onSpaceLine_eq ..

/-- Where the lines of spaces lie is not changed by a write into one. -/
theorem spaceWay_isSome_spaceWrite (s : State) (b space ea : Nat) (data : List Byte) (b' space' ix : Nat) :
    ((s.spaceWrite b space ea data).spaceWay b' space' ix).isSome = (s.spaceWay b' space' ix).isSome := by
  unfold spaceWrite
  rw [spaceWay_onSpaceLine (hf := by intro l; rfl)]
  split
  · rename_i h; obtain ⟨rfl, rfl, rfl⟩ := h; simp
  · rfl

end State

end Sys2Proof.Machine
end

