-- ==== Sys2Proof/Laws/State.lean ====
section
/-!
SUPPORT. What a change of one core, partition, block, cluster, gate or of the issue leaves: every other field of the state.
-/

namespace Sys2Proof.Machine.State

/-! ### `onCore` -/

@[simp] theorem mem_onCore (s : State) (n : Nat) (f : CoreSt → CoreSt) : (s.onCore n f).mem = s.mem := rfl
@[simp] theorem lease_onCore (s : State) (n : Nat) (f : CoreSt → CoreSt) : (s.onCore n f).lease = s.lease := rfl
@[simp] theorem meta__onCore (s : State) (n : Nat) (f : CoreSt → CoreSt) : (s.onCore n f).meta_ = s.meta_ := rfl
@[simp] theorem blocks_onCore (s : State) (n : Nat) (f : CoreSt → CoreSt) : (s.onCore n f).blocks = s.blocks := rfl
@[simp] theorem parts_onCore (s : State) (n : Nat) (f : CoreSt → CoreSt) : (s.onCore n f).parts = s.parts := rfl
@[simp] theorem clusters_onCore (s : State) (n : Nat) (f : CoreSt → CoreSt) : (s.onCore n f).clusters = s.clusters := rfl
@[simp] theorem gates_onCore (s : State) (n : Nat) (f : CoreSt → CoreSt) : (s.onCore n f).gates = s.gates := rfl
@[simp] theorem gmigPa_onCore (s : State) (n : Nat) (f : CoreSt → CoreSt) : (s.onCore n f).gmigPa = s.gmigPa := rfl
@[simp] theorem gmigCtl_onCore (s : State) (n : Nat) (f : CoreSt → CoreSt) : (s.onCore n f).gmigCtl = s.gmigCtl := rfl
@[simp] theorem gmig_onCore (s : State) (n : Nat) (f : CoreSt → CoreSt) : (s.onCore n f).gmig = s.gmig := rfl
@[simp] theorem devnum_onCore (s : State) (n : Nat) (f : CoreSt → CoreSt) : (s.onCore n f).devnum = s.devnum := rfl
@[simp] theorem cgrp_onCore (s : State) (n : Nat) (f : CoreSt → CoreSt) : (s.onCore n f).cgrp = s.cgrp := rfl
@[simp] theorem coreEn_onCore (s : State) (n : Nat) (f : CoreSt → CoreSt) : (s.onCore n f).coreEn = s.coreEn := rfl
@[simp] theorem lcoreCount_onCore (s : State) (n : Nat) (f : CoreSt → CoreSt) : (s.onCore n f).lcoreCount = s.lcoreCount := rfl
@[simp] theorem lcoreMap_onCore (s : State) (n : Nat) (f : CoreSt → CoreSt) : (s.onCore n f).lcoreMap = s.lcoreMap := rfl
@[simp] theorem links_onCore (s : State) (n : Nat) (f : CoreSt → CoreSt) : (s.onCore n f).links = s.links := rfl
@[simp] theorem ends_onCore (s : State) (n : Nat) (f : CoreSt → CoreSt) : (s.onCore n f).ends = s.ends := rfl
@[simp] theorem abacus_onCore (s : State) (n : Nat) (f : CoreSt → CoreSt) : (s.onCore n f).abacus = s.abacus := rfl
@[simp] theorem colls_onCore (s : State) (n : Nat) (f : CoreSt → CoreSt) : (s.onCore n f).colls = s.colls := rfl
@[simp] theorem collCount_onCore (s : State) (n : Nat) (f : CoreSt → CoreSt) : (s.onCore n f).collCount = s.collCount := rfl
@[simp] theorem tags_onCore (s : State) (n : Nat) (f : CoreSt → CoreSt) : (s.onCore n f).tags = s.tags := rfl
@[simp] theorem msi_onCore (s : State) (n : Nat) (f : CoreSt → CoreSt) : (s.onCore n f).msi = s.msi := rfl
@[simp] theorem replies_onCore (s : State) (n : Nat) (f : CoreSt → CoreSt) : (s.onCore n f).replies = s.replies := rfl
@[simp] theorem hostts_onCore (s : State) (n : Nat) (f : CoreSt → CoreSt) : (s.onCore n f).hostts = s.hostts := rfl
@[simp] theorem e2eCnt_onCore (s : State) (n : Nat) (f : CoreSt → CoreSt) : (s.onCore n f).e2eCnt = s.e2eCnt := rfl
@[simp] theorem bootStat_onCore (s : State) (n : Nat) (f : CoreSt → CoreSt) : (s.onCore n f).bootStat = s.bootStat := rfl
@[simp] theorem fatal_onCore (s : State) (n : Nat) (f : CoreSt → CoreSt) : (s.onCore n f).fatal = s.fatal := rfl
@[simp] theorem viral_onCore (s : State) (n : Nat) (f : CoreSt → CoreSt) : (s.onCore n f).viral = s.viral := rfl
@[simp] theorem noWay_onCore (s : State) (n : Nat) (f : CoreSt → CoreSt) : (s.onCore n f).noWay = s.noWay := rfl
@[simp] theorem lost_onCore (s : State) (n : Nat) (f : CoreSt → CoreSt) : (s.onCore n f).lost = s.lost := rfl
@[simp] theorem cxlUp_onCore (s : State) (n : Nat) (f : CoreSt → CoreSt) : (s.onCore n f).cxlUp = s.cxlUp := rfl
@[simp] theorem power_onCore (s : State) (n : Nat) (f : CoreSt → CoreSt) : (s.onCore n f).power = s.power := rfl
@[simp] theorem sec_onCore (s : State) (n : Nat) (f : CoreSt → CoreSt) : (s.onCore n f).sec = s.sec := rfl
@[simp] theorem nclk_onCore (s : State) (n : Nat) (f : CoreSt → CoreSt) : (s.onCore n f).nclk = s.nclk := rfl
@[simp] theorem nextBlk_onCore (s : State) (n : Nat) (f : CoreSt → CoreSt) : (s.onCore n f).nextBlk = s.nextBlk := rfl
@[simp] theorem nextAge_onCore (s : State) (n : Nat) (f : CoreSt → CoreSt) : (s.onCore n f).nextAge = s.nextAge := rfl
@[simp] theorem nextOrder_onCore (s : State) (n : Nat) (f : CoreSt → CoreSt) : (s.onCore n f).nextOrder = s.nextOrder := rfl
@[simp] theorem cq_onCore (s : State) (n : Nat) (f : CoreSt → CoreSt) : (s.onCore n f).cq = s.cq := rfl
@[simp] theorem sq_onCore (s : State) (n : Nat) (f : CoreSt → CoreSt) : (s.onCore n f).sq = s.sq := rfl
@[simp] theorem issue_onCore (s : State) (n : Nat) (f : CoreSt → CoreSt) : (s.onCore n f).issue = s.issue := rfl
@[simp] theorem free_onCore (s : State) (n : Nat) (f : CoreSt → CoreSt) : (s.onCore n f).free = s.free := rfl
@[simp] theorem agenda_onCore (s : State) (n : Nat) (f : CoreSt → CoreSt) : (s.onCore n f).agenda = s.agenda := rfl
@[simp] theorem upsets_onCore (s : State) (n : Nat) (f : CoreSt → CoreSt) : (s.onCore n f).upsets = s.upsets := rfl
@[simp] theorem round_onCore (s : State) (n : Nat) (f : CoreSt → CoreSt) : (s.onCore n f).round = s.round := rfl
@[simp] theorem roundAge_onCore (s : State) (n : Nat) (f : CoreSt → CoreSt) : (s.onCore n f).roundAge = s.roundAge := rfl

/-! ### `onPart` -/

@[simp] theorem mem_onPart (s : State) (n : Nat) (f : Part → Part) : (s.onPart n f).mem = s.mem := rfl
@[simp] theorem lease_onPart (s : State) (n : Nat) (f : Part → Part) : (s.onPart n f).lease = s.lease := rfl
@[simp] theorem meta__onPart (s : State) (n : Nat) (f : Part → Part) : (s.onPart n f).meta_ = s.meta_ := rfl
@[simp] theorem cores_onPart (s : State) (n : Nat) (f : Part → Part) : (s.onPart n f).cores = s.cores := rfl
@[simp] theorem blocks_onPart (s : State) (n : Nat) (f : Part → Part) : (s.onPart n f).blocks = s.blocks := rfl
@[simp] theorem clusters_onPart (s : State) (n : Nat) (f : Part → Part) : (s.onPart n f).clusters = s.clusters := rfl
@[simp] theorem gates_onPart (s : State) (n : Nat) (f : Part → Part) : (s.onPart n f).gates = s.gates := rfl
@[simp] theorem gmigPa_onPart (s : State) (n : Nat) (f : Part → Part) : (s.onPart n f).gmigPa = s.gmigPa := rfl
@[simp] theorem gmigCtl_onPart (s : State) (n : Nat) (f : Part → Part) : (s.onPart n f).gmigCtl = s.gmigCtl := rfl
@[simp] theorem gmig_onPart (s : State) (n : Nat) (f : Part → Part) : (s.onPart n f).gmig = s.gmig := rfl
@[simp] theorem devnum_onPart (s : State) (n : Nat) (f : Part → Part) : (s.onPart n f).devnum = s.devnum := rfl
@[simp] theorem cgrp_onPart (s : State) (n : Nat) (f : Part → Part) : (s.onPart n f).cgrp = s.cgrp := rfl
@[simp] theorem coreEn_onPart (s : State) (n : Nat) (f : Part → Part) : (s.onPart n f).coreEn = s.coreEn := rfl
@[simp] theorem lcoreCount_onPart (s : State) (n : Nat) (f : Part → Part) : (s.onPart n f).lcoreCount = s.lcoreCount := rfl
@[simp] theorem lcoreMap_onPart (s : State) (n : Nat) (f : Part → Part) : (s.onPart n f).lcoreMap = s.lcoreMap := rfl
@[simp] theorem links_onPart (s : State) (n : Nat) (f : Part → Part) : (s.onPart n f).links = s.links := rfl
@[simp] theorem ends_onPart (s : State) (n : Nat) (f : Part → Part) : (s.onPart n f).ends = s.ends := rfl
@[simp] theorem abacus_onPart (s : State) (n : Nat) (f : Part → Part) : (s.onPart n f).abacus = s.abacus := rfl
@[simp] theorem colls_onPart (s : State) (n : Nat) (f : Part → Part) : (s.onPart n f).colls = s.colls := rfl
@[simp] theorem collCount_onPart (s : State) (n : Nat) (f : Part → Part) : (s.onPart n f).collCount = s.collCount := rfl
@[simp] theorem tags_onPart (s : State) (n : Nat) (f : Part → Part) : (s.onPart n f).tags = s.tags := rfl
@[simp] theorem msi_onPart (s : State) (n : Nat) (f : Part → Part) : (s.onPart n f).msi = s.msi := rfl
@[simp] theorem replies_onPart (s : State) (n : Nat) (f : Part → Part) : (s.onPart n f).replies = s.replies := rfl
@[simp] theorem hostts_onPart (s : State) (n : Nat) (f : Part → Part) : (s.onPart n f).hostts = s.hostts := rfl
@[simp] theorem e2eCnt_onPart (s : State) (n : Nat) (f : Part → Part) : (s.onPart n f).e2eCnt = s.e2eCnt := rfl
@[simp] theorem bootStat_onPart (s : State) (n : Nat) (f : Part → Part) : (s.onPart n f).bootStat = s.bootStat := rfl
@[simp] theorem fatal_onPart (s : State) (n : Nat) (f : Part → Part) : (s.onPart n f).fatal = s.fatal := rfl
@[simp] theorem viral_onPart (s : State) (n : Nat) (f : Part → Part) : (s.onPart n f).viral = s.viral := rfl
@[simp] theorem noWay_onPart (s : State) (n : Nat) (f : Part → Part) : (s.onPart n f).noWay = s.noWay := rfl
@[simp] theorem lost_onPart (s : State) (n : Nat) (f : Part → Part) : (s.onPart n f).lost = s.lost := rfl
@[simp] theorem cxlUp_onPart (s : State) (n : Nat) (f : Part → Part) : (s.onPart n f).cxlUp = s.cxlUp := rfl
@[simp] theorem power_onPart (s : State) (n : Nat) (f : Part → Part) : (s.onPart n f).power = s.power := rfl
@[simp] theorem sec_onPart (s : State) (n : Nat) (f : Part → Part) : (s.onPart n f).sec = s.sec := rfl
@[simp] theorem nclk_onPart (s : State) (n : Nat) (f : Part → Part) : (s.onPart n f).nclk = s.nclk := rfl
@[simp] theorem nextBlk_onPart (s : State) (n : Nat) (f : Part → Part) : (s.onPart n f).nextBlk = s.nextBlk := rfl
@[simp] theorem nextAge_onPart (s : State) (n : Nat) (f : Part → Part) : (s.onPart n f).nextAge = s.nextAge := rfl
@[simp] theorem nextOrder_onPart (s : State) (n : Nat) (f : Part → Part) : (s.onPart n f).nextOrder = s.nextOrder := rfl
@[simp] theorem cq_onPart (s : State) (n : Nat) (f : Part → Part) : (s.onPart n f).cq = s.cq := rfl
@[simp] theorem sq_onPart (s : State) (n : Nat) (f : Part → Part) : (s.onPart n f).sq = s.sq := rfl
@[simp] theorem issue_onPart (s : State) (n : Nat) (f : Part → Part) : (s.onPart n f).issue = s.issue := rfl
@[simp] theorem free_onPart (s : State) (n : Nat) (f : Part → Part) : (s.onPart n f).free = s.free := rfl
@[simp] theorem agenda_onPart (s : State) (n : Nat) (f : Part → Part) : (s.onPart n f).agenda = s.agenda := rfl
@[simp] theorem upsets_onPart (s : State) (n : Nat) (f : Part → Part) : (s.onPart n f).upsets = s.upsets := rfl
@[simp] theorem round_onPart (s : State) (n : Nat) (f : Part → Part) : (s.onPart n f).round = s.round := rfl
@[simp] theorem roundAge_onPart (s : State) (n : Nat) (f : Part → Part) : (s.onPart n f).roundAge = s.roundAge := rfl

/-! ### `onBlk` -/

@[simp] theorem mem_onBlk (s : State) (n : Nat) (f : Block → Block) : (s.onBlk n f).mem = s.mem := rfl
@[simp] theorem lease_onBlk (s : State) (n : Nat) (f : Block → Block) : (s.onBlk n f).lease = s.lease := rfl
@[simp] theorem meta__onBlk (s : State) (n : Nat) (f : Block → Block) : (s.onBlk n f).meta_ = s.meta_ := rfl
@[simp] theorem cores_onBlk (s : State) (n : Nat) (f : Block → Block) : (s.onBlk n f).cores = s.cores := rfl
@[simp] theorem parts_onBlk (s : State) (n : Nat) (f : Block → Block) : (s.onBlk n f).parts = s.parts := rfl
@[simp] theorem clusters_onBlk (s : State) (n : Nat) (f : Block → Block) : (s.onBlk n f).clusters = s.clusters := rfl
@[simp] theorem gates_onBlk (s : State) (n : Nat) (f : Block → Block) : (s.onBlk n f).gates = s.gates := rfl
@[simp] theorem gmigPa_onBlk (s : State) (n : Nat) (f : Block → Block) : (s.onBlk n f).gmigPa = s.gmigPa := rfl
@[simp] theorem gmigCtl_onBlk (s : State) (n : Nat) (f : Block → Block) : (s.onBlk n f).gmigCtl = s.gmigCtl := rfl
@[simp] theorem gmig_onBlk (s : State) (n : Nat) (f : Block → Block) : (s.onBlk n f).gmig = s.gmig := rfl
@[simp] theorem devnum_onBlk (s : State) (n : Nat) (f : Block → Block) : (s.onBlk n f).devnum = s.devnum := rfl
@[simp] theorem cgrp_onBlk (s : State) (n : Nat) (f : Block → Block) : (s.onBlk n f).cgrp = s.cgrp := rfl
@[simp] theorem coreEn_onBlk (s : State) (n : Nat) (f : Block → Block) : (s.onBlk n f).coreEn = s.coreEn := rfl
@[simp] theorem lcoreCount_onBlk (s : State) (n : Nat) (f : Block → Block) : (s.onBlk n f).lcoreCount = s.lcoreCount := rfl
@[simp] theorem lcoreMap_onBlk (s : State) (n : Nat) (f : Block → Block) : (s.onBlk n f).lcoreMap = s.lcoreMap := rfl
@[simp] theorem links_onBlk (s : State) (n : Nat) (f : Block → Block) : (s.onBlk n f).links = s.links := rfl
@[simp] theorem ends_onBlk (s : State) (n : Nat) (f : Block → Block) : (s.onBlk n f).ends = s.ends := rfl
@[simp] theorem abacus_onBlk (s : State) (n : Nat) (f : Block → Block) : (s.onBlk n f).abacus = s.abacus := rfl
@[simp] theorem colls_onBlk (s : State) (n : Nat) (f : Block → Block) : (s.onBlk n f).colls = s.colls := rfl
@[simp] theorem collCount_onBlk (s : State) (n : Nat) (f : Block → Block) : (s.onBlk n f).collCount = s.collCount := rfl
@[simp] theorem tags_onBlk (s : State) (n : Nat) (f : Block → Block) : (s.onBlk n f).tags = s.tags := rfl
@[simp] theorem msi_onBlk (s : State) (n : Nat) (f : Block → Block) : (s.onBlk n f).msi = s.msi := rfl
@[simp] theorem replies_onBlk (s : State) (n : Nat) (f : Block → Block) : (s.onBlk n f).replies = s.replies := rfl
@[simp] theorem hostts_onBlk (s : State) (n : Nat) (f : Block → Block) : (s.onBlk n f).hostts = s.hostts := rfl
@[simp] theorem e2eCnt_onBlk (s : State) (n : Nat) (f : Block → Block) : (s.onBlk n f).e2eCnt = s.e2eCnt := rfl
@[simp] theorem bootStat_onBlk (s : State) (n : Nat) (f : Block → Block) : (s.onBlk n f).bootStat = s.bootStat := rfl
@[simp] theorem fatal_onBlk (s : State) (n : Nat) (f : Block → Block) : (s.onBlk n f).fatal = s.fatal := rfl
@[simp] theorem viral_onBlk (s : State) (n : Nat) (f : Block → Block) : (s.onBlk n f).viral = s.viral := rfl
@[simp] theorem noWay_onBlk (s : State) (n : Nat) (f : Block → Block) : (s.onBlk n f).noWay = s.noWay := rfl
@[simp] theorem lost_onBlk (s : State) (n : Nat) (f : Block → Block) : (s.onBlk n f).lost = s.lost := rfl
@[simp] theorem cxlUp_onBlk (s : State) (n : Nat) (f : Block → Block) : (s.onBlk n f).cxlUp = s.cxlUp := rfl
@[simp] theorem power_onBlk (s : State) (n : Nat) (f : Block → Block) : (s.onBlk n f).power = s.power := rfl
@[simp] theorem sec_onBlk (s : State) (n : Nat) (f : Block → Block) : (s.onBlk n f).sec = s.sec := rfl
@[simp] theorem nclk_onBlk (s : State) (n : Nat) (f : Block → Block) : (s.onBlk n f).nclk = s.nclk := rfl
@[simp] theorem nextBlk_onBlk (s : State) (n : Nat) (f : Block → Block) : (s.onBlk n f).nextBlk = s.nextBlk := rfl
@[simp] theorem nextAge_onBlk (s : State) (n : Nat) (f : Block → Block) : (s.onBlk n f).nextAge = s.nextAge := rfl
@[simp] theorem nextOrder_onBlk (s : State) (n : Nat) (f : Block → Block) : (s.onBlk n f).nextOrder = s.nextOrder := rfl
@[simp] theorem cq_onBlk (s : State) (n : Nat) (f : Block → Block) : (s.onBlk n f).cq = s.cq := rfl
@[simp] theorem sq_onBlk (s : State) (n : Nat) (f : Block → Block) : (s.onBlk n f).sq = s.sq := rfl
@[simp] theorem issue_onBlk (s : State) (n : Nat) (f : Block → Block) : (s.onBlk n f).issue = s.issue := rfl
@[simp] theorem free_onBlk (s : State) (n : Nat) (f : Block → Block) : (s.onBlk n f).free = s.free := rfl
@[simp] theorem agenda_onBlk (s : State) (n : Nat) (f : Block → Block) : (s.onBlk n f).agenda = s.agenda := rfl
@[simp] theorem upsets_onBlk (s : State) (n : Nat) (f : Block → Block) : (s.onBlk n f).upsets = s.upsets := rfl
@[simp] theorem round_onBlk (s : State) (n : Nat) (f : Block → Block) : (s.onBlk n f).round = s.round := rfl
@[simp] theorem roundAge_onBlk (s : State) (n : Nat) (f : Block → Block) : (s.onBlk n f).roundAge = s.roundAge := rfl

/-! ### `onCluster` -/

@[simp] theorem mem_onCluster (s : State) (n : Nat) (f : Cluster → Cluster) : (s.onCluster n f).mem = s.mem := rfl
@[simp] theorem lease_onCluster (s : State) (n : Nat) (f : Cluster → Cluster) : (s.onCluster n f).lease = s.lease := rfl
@[simp] theorem meta__onCluster (s : State) (n : Nat) (f : Cluster → Cluster) : (s.onCluster n f).meta_ = s.meta_ := rfl
@[simp] theorem cores_onCluster (s : State) (n : Nat) (f : Cluster → Cluster) : (s.onCluster n f).cores = s.cores := rfl
@[simp] theorem blocks_onCluster (s : State) (n : Nat) (f : Cluster → Cluster) : (s.onCluster n f).blocks = s.blocks := rfl
@[simp] theorem parts_onCluster (s : State) (n : Nat) (f : Cluster → Cluster) : (s.onCluster n f).parts = s.parts := rfl
@[simp] theorem gates_onCluster (s : State) (n : Nat) (f : Cluster → Cluster) : (s.onCluster n f).gates = s.gates := rfl
@[simp] theorem gmigPa_onCluster (s : State) (n : Nat) (f : Cluster → Cluster) : (s.onCluster n f).gmigPa = s.gmigPa := rfl
@[simp] theorem gmigCtl_onCluster (s : State) (n : Nat) (f : Cluster → Cluster) : (s.onCluster n f).gmigCtl = s.gmigCtl := rfl
@[simp] theorem gmig_onCluster (s : State) (n : Nat) (f : Cluster → Cluster) : (s.onCluster n f).gmig = s.gmig := rfl
@[simp] theorem devnum_onCluster (s : State) (n : Nat) (f : Cluster → Cluster) : (s.onCluster n f).devnum = s.devnum := rfl
@[simp] theorem cgrp_onCluster (s : State) (n : Nat) (f : Cluster → Cluster) : (s.onCluster n f).cgrp = s.cgrp := rfl
@[simp] theorem coreEn_onCluster (s : State) (n : Nat) (f : Cluster → Cluster) : (s.onCluster n f).coreEn = s.coreEn := rfl
@[simp] theorem lcoreCount_onCluster (s : State) (n : Nat) (f : Cluster → Cluster) : (s.onCluster n f).lcoreCount = s.lcoreCount := rfl
@[simp] theorem lcoreMap_onCluster (s : State) (n : Nat) (f : Cluster → Cluster) : (s.onCluster n f).lcoreMap = s.lcoreMap := rfl
@[simp] theorem links_onCluster (s : State) (n : Nat) (f : Cluster → Cluster) : (s.onCluster n f).links = s.links := rfl
@[simp] theorem ends_onCluster (s : State) (n : Nat) (f : Cluster → Cluster) : (s.onCluster n f).ends = s.ends := rfl
@[simp] theorem abacus_onCluster (s : State) (n : Nat) (f : Cluster → Cluster) : (s.onCluster n f).abacus = s.abacus := rfl
@[simp] theorem colls_onCluster (s : State) (n : Nat) (f : Cluster → Cluster) : (s.onCluster n f).colls = s.colls := rfl
@[simp] theorem collCount_onCluster (s : State) (n : Nat) (f : Cluster → Cluster) : (s.onCluster n f).collCount = s.collCount := rfl
@[simp] theorem tags_onCluster (s : State) (n : Nat) (f : Cluster → Cluster) : (s.onCluster n f).tags = s.tags := rfl
@[simp] theorem msi_onCluster (s : State) (n : Nat) (f : Cluster → Cluster) : (s.onCluster n f).msi = s.msi := rfl
@[simp] theorem replies_onCluster (s : State) (n : Nat) (f : Cluster → Cluster) : (s.onCluster n f).replies = s.replies := rfl
@[simp] theorem hostts_onCluster (s : State) (n : Nat) (f : Cluster → Cluster) : (s.onCluster n f).hostts = s.hostts := rfl
@[simp] theorem e2eCnt_onCluster (s : State) (n : Nat) (f : Cluster → Cluster) : (s.onCluster n f).e2eCnt = s.e2eCnt := rfl
@[simp] theorem bootStat_onCluster (s : State) (n : Nat) (f : Cluster → Cluster) : (s.onCluster n f).bootStat = s.bootStat := rfl
@[simp] theorem fatal_onCluster (s : State) (n : Nat) (f : Cluster → Cluster) : (s.onCluster n f).fatal = s.fatal := rfl
@[simp] theorem viral_onCluster (s : State) (n : Nat) (f : Cluster → Cluster) : (s.onCluster n f).viral = s.viral := rfl
@[simp] theorem noWay_onCluster (s : State) (n : Nat) (f : Cluster → Cluster) : (s.onCluster n f).noWay = s.noWay := rfl
@[simp] theorem lost_onCluster (s : State) (n : Nat) (f : Cluster → Cluster) : (s.onCluster n f).lost = s.lost := rfl
@[simp] theorem cxlUp_onCluster (s : State) (n : Nat) (f : Cluster → Cluster) : (s.onCluster n f).cxlUp = s.cxlUp := rfl
@[simp] theorem power_onCluster (s : State) (n : Nat) (f : Cluster → Cluster) : (s.onCluster n f).power = s.power := rfl
@[simp] theorem sec_onCluster (s : State) (n : Nat) (f : Cluster → Cluster) : (s.onCluster n f).sec = s.sec := rfl
@[simp] theorem nclk_onCluster (s : State) (n : Nat) (f : Cluster → Cluster) : (s.onCluster n f).nclk = s.nclk := rfl
@[simp] theorem nextBlk_onCluster (s : State) (n : Nat) (f : Cluster → Cluster) : (s.onCluster n f).nextBlk = s.nextBlk := rfl
@[simp] theorem nextAge_onCluster (s : State) (n : Nat) (f : Cluster → Cluster) : (s.onCluster n f).nextAge = s.nextAge := rfl
@[simp] theorem nextOrder_onCluster (s : State) (n : Nat) (f : Cluster → Cluster) : (s.onCluster n f).nextOrder = s.nextOrder := rfl
@[simp] theorem cq_onCluster (s : State) (n : Nat) (f : Cluster → Cluster) : (s.onCluster n f).cq = s.cq := rfl
@[simp] theorem sq_onCluster (s : State) (n : Nat) (f : Cluster → Cluster) : (s.onCluster n f).sq = s.sq := rfl
@[simp] theorem issue_onCluster (s : State) (n : Nat) (f : Cluster → Cluster) : (s.onCluster n f).issue = s.issue := rfl
@[simp] theorem free_onCluster (s : State) (n : Nat) (f : Cluster → Cluster) : (s.onCluster n f).free = s.free := rfl
@[simp] theorem agenda_onCluster (s : State) (n : Nat) (f : Cluster → Cluster) : (s.onCluster n f).agenda = s.agenda := rfl
@[simp] theorem upsets_onCluster (s : State) (n : Nat) (f : Cluster → Cluster) : (s.onCluster n f).upsets = s.upsets := rfl
@[simp] theorem round_onCluster (s : State) (n : Nat) (f : Cluster → Cluster) : (s.onCluster n f).round = s.round := rfl
@[simp] theorem roundAge_onCluster (s : State) (n : Nat) (f : Cluster → Cluster) : (s.onCluster n f).roundAge = s.roundAge := rfl

/-! ### `onGate` -/

@[simp] theorem mem_onGate (s : State) (n : Nat) (f : Gate → Gate) : (s.onGate n f).mem = s.mem := rfl
@[simp] theorem lease_onGate (s : State) (n : Nat) (f : Gate → Gate) : (s.onGate n f).lease = s.lease := rfl
@[simp] theorem meta__onGate (s : State) (n : Nat) (f : Gate → Gate) : (s.onGate n f).meta_ = s.meta_ := rfl
@[simp] theorem cores_onGate (s : State) (n : Nat) (f : Gate → Gate) : (s.onGate n f).cores = s.cores := rfl
@[simp] theorem blocks_onGate (s : State) (n : Nat) (f : Gate → Gate) : (s.onGate n f).blocks = s.blocks := rfl
@[simp] theorem parts_onGate (s : State) (n : Nat) (f : Gate → Gate) : (s.onGate n f).parts = s.parts := rfl
@[simp] theorem clusters_onGate (s : State) (n : Nat) (f : Gate → Gate) : (s.onGate n f).clusters = s.clusters := rfl
@[simp] theorem gmigPa_onGate (s : State) (n : Nat) (f : Gate → Gate) : (s.onGate n f).gmigPa = s.gmigPa := rfl
@[simp] theorem gmigCtl_onGate (s : State) (n : Nat) (f : Gate → Gate) : (s.onGate n f).gmigCtl = s.gmigCtl := rfl
@[simp] theorem gmig_onGate (s : State) (n : Nat) (f : Gate → Gate) : (s.onGate n f).gmig = s.gmig := rfl
@[simp] theorem devnum_onGate (s : State) (n : Nat) (f : Gate → Gate) : (s.onGate n f).devnum = s.devnum := rfl
@[simp] theorem cgrp_onGate (s : State) (n : Nat) (f : Gate → Gate) : (s.onGate n f).cgrp = s.cgrp := rfl
@[simp] theorem coreEn_onGate (s : State) (n : Nat) (f : Gate → Gate) : (s.onGate n f).coreEn = s.coreEn := rfl
@[simp] theorem lcoreCount_onGate (s : State) (n : Nat) (f : Gate → Gate) : (s.onGate n f).lcoreCount = s.lcoreCount := rfl
@[simp] theorem lcoreMap_onGate (s : State) (n : Nat) (f : Gate → Gate) : (s.onGate n f).lcoreMap = s.lcoreMap := rfl
@[simp] theorem links_onGate (s : State) (n : Nat) (f : Gate → Gate) : (s.onGate n f).links = s.links := rfl
@[simp] theorem ends_onGate (s : State) (n : Nat) (f : Gate → Gate) : (s.onGate n f).ends = s.ends := rfl
@[simp] theorem abacus_onGate (s : State) (n : Nat) (f : Gate → Gate) : (s.onGate n f).abacus = s.abacus := rfl
@[simp] theorem colls_onGate (s : State) (n : Nat) (f : Gate → Gate) : (s.onGate n f).colls = s.colls := rfl
@[simp] theorem collCount_onGate (s : State) (n : Nat) (f : Gate → Gate) : (s.onGate n f).collCount = s.collCount := rfl
@[simp] theorem tags_onGate (s : State) (n : Nat) (f : Gate → Gate) : (s.onGate n f).tags = s.tags := rfl
@[simp] theorem msi_onGate (s : State) (n : Nat) (f : Gate → Gate) : (s.onGate n f).msi = s.msi := rfl
@[simp] theorem replies_onGate (s : State) (n : Nat) (f : Gate → Gate) : (s.onGate n f).replies = s.replies := rfl
@[simp] theorem hostts_onGate (s : State) (n : Nat) (f : Gate → Gate) : (s.onGate n f).hostts = s.hostts := rfl
@[simp] theorem e2eCnt_onGate (s : State) (n : Nat) (f : Gate → Gate) : (s.onGate n f).e2eCnt = s.e2eCnt := rfl
@[simp] theorem bootStat_onGate (s : State) (n : Nat) (f : Gate → Gate) : (s.onGate n f).bootStat = s.bootStat := rfl
@[simp] theorem fatal_onGate (s : State) (n : Nat) (f : Gate → Gate) : (s.onGate n f).fatal = s.fatal := rfl
@[simp] theorem viral_onGate (s : State) (n : Nat) (f : Gate → Gate) : (s.onGate n f).viral = s.viral := rfl
@[simp] theorem noWay_onGate (s : State) (n : Nat) (f : Gate → Gate) : (s.onGate n f).noWay = s.noWay := rfl
@[simp] theorem lost_onGate (s : State) (n : Nat) (f : Gate → Gate) : (s.onGate n f).lost = s.lost := rfl
@[simp] theorem cxlUp_onGate (s : State) (n : Nat) (f : Gate → Gate) : (s.onGate n f).cxlUp = s.cxlUp := rfl
@[simp] theorem power_onGate (s : State) (n : Nat) (f : Gate → Gate) : (s.onGate n f).power = s.power := rfl
@[simp] theorem sec_onGate (s : State) (n : Nat) (f : Gate → Gate) : (s.onGate n f).sec = s.sec := rfl
@[simp] theorem nclk_onGate (s : State) (n : Nat) (f : Gate → Gate) : (s.onGate n f).nclk = s.nclk := rfl
@[simp] theorem nextBlk_onGate (s : State) (n : Nat) (f : Gate → Gate) : (s.onGate n f).nextBlk = s.nextBlk := rfl
@[simp] theorem nextAge_onGate (s : State) (n : Nat) (f : Gate → Gate) : (s.onGate n f).nextAge = s.nextAge := rfl
@[simp] theorem nextOrder_onGate (s : State) (n : Nat) (f : Gate → Gate) : (s.onGate n f).nextOrder = s.nextOrder := rfl
@[simp] theorem cq_onGate (s : State) (n : Nat) (f : Gate → Gate) : (s.onGate n f).cq = s.cq := rfl
@[simp] theorem sq_onGate (s : State) (n : Nat) (f : Gate → Gate) : (s.onGate n f).sq = s.sq := rfl
@[simp] theorem issue_onGate (s : State) (n : Nat) (f : Gate → Gate) : (s.onGate n f).issue = s.issue := rfl
@[simp] theorem free_onGate (s : State) (n : Nat) (f : Gate → Gate) : (s.onGate n f).free = s.free := rfl
@[simp] theorem agenda_onGate (s : State) (n : Nat) (f : Gate → Gate) : (s.onGate n f).agenda = s.agenda := rfl
@[simp] theorem upsets_onGate (s : State) (n : Nat) (f : Gate → Gate) : (s.onGate n f).upsets = s.upsets := rfl
@[simp] theorem round_onGate (s : State) (n : Nat) (f : Gate → Gate) : (s.onGate n f).round = s.round := rfl
@[simp] theorem roundAge_onGate (s : State) (n : Nat) (f : Gate → Gate) : (s.onGate n f).roundAge = s.roundAge := rfl

/-! ### `onIssue` -/

@[simp] theorem mem_onIssue (s : State) (f : Issue → Issue) : (s.onIssue f).mem = s.mem := rfl
@[simp] theorem lease_onIssue (s : State) (f : Issue → Issue) : (s.onIssue f).lease = s.lease := rfl
@[simp] theorem meta__onIssue (s : State) (f : Issue → Issue) : (s.onIssue f).meta_ = s.meta_ := rfl
@[simp] theorem cores_onIssue (s : State) (f : Issue → Issue) : (s.onIssue f).cores = s.cores := rfl
@[simp] theorem blocks_onIssue (s : State) (f : Issue → Issue) : (s.onIssue f).blocks = s.blocks := rfl
@[simp] theorem parts_onIssue (s : State) (f : Issue → Issue) : (s.onIssue f).parts = s.parts := rfl
@[simp] theorem clusters_onIssue (s : State) (f : Issue → Issue) : (s.onIssue f).clusters = s.clusters := rfl
@[simp] theorem gates_onIssue (s : State) (f : Issue → Issue) : (s.onIssue f).gates = s.gates := rfl
@[simp] theorem gmigPa_onIssue (s : State) (f : Issue → Issue) : (s.onIssue f).gmigPa = s.gmigPa := rfl
@[simp] theorem gmigCtl_onIssue (s : State) (f : Issue → Issue) : (s.onIssue f).gmigCtl = s.gmigCtl := rfl
@[simp] theorem gmig_onIssue (s : State) (f : Issue → Issue) : (s.onIssue f).gmig = s.gmig := rfl
@[simp] theorem devnum_onIssue (s : State) (f : Issue → Issue) : (s.onIssue f).devnum = s.devnum := rfl
@[simp] theorem cgrp_onIssue (s : State) (f : Issue → Issue) : (s.onIssue f).cgrp = s.cgrp := rfl
@[simp] theorem coreEn_onIssue (s : State) (f : Issue → Issue) : (s.onIssue f).coreEn = s.coreEn := rfl
@[simp] theorem lcoreCount_onIssue (s : State) (f : Issue → Issue) : (s.onIssue f).lcoreCount = s.lcoreCount := rfl
@[simp] theorem lcoreMap_onIssue (s : State) (f : Issue → Issue) : (s.onIssue f).lcoreMap = s.lcoreMap := rfl
@[simp] theorem links_onIssue (s : State) (f : Issue → Issue) : (s.onIssue f).links = s.links := rfl
@[simp] theorem ends_onIssue (s : State) (f : Issue → Issue) : (s.onIssue f).ends = s.ends := rfl
@[simp] theorem abacus_onIssue (s : State) (f : Issue → Issue) : (s.onIssue f).abacus = s.abacus := rfl
@[simp] theorem colls_onIssue (s : State) (f : Issue → Issue) : (s.onIssue f).colls = s.colls := rfl
@[simp] theorem collCount_onIssue (s : State) (f : Issue → Issue) : (s.onIssue f).collCount = s.collCount := rfl
@[simp] theorem tags_onIssue (s : State) (f : Issue → Issue) : (s.onIssue f).tags = s.tags := rfl
@[simp] theorem msi_onIssue (s : State) (f : Issue → Issue) : (s.onIssue f).msi = s.msi := rfl
@[simp] theorem replies_onIssue (s : State) (f : Issue → Issue) : (s.onIssue f).replies = s.replies := rfl
@[simp] theorem hostts_onIssue (s : State) (f : Issue → Issue) : (s.onIssue f).hostts = s.hostts := rfl
@[simp] theorem e2eCnt_onIssue (s : State) (f : Issue → Issue) : (s.onIssue f).e2eCnt = s.e2eCnt := rfl
@[simp] theorem bootStat_onIssue (s : State) (f : Issue → Issue) : (s.onIssue f).bootStat = s.bootStat := rfl
@[simp] theorem fatal_onIssue (s : State) (f : Issue → Issue) : (s.onIssue f).fatal = s.fatal := rfl
@[simp] theorem viral_onIssue (s : State) (f : Issue → Issue) : (s.onIssue f).viral = s.viral := rfl
@[simp] theorem noWay_onIssue (s : State) (f : Issue → Issue) : (s.onIssue f).noWay = s.noWay := rfl
@[simp] theorem lost_onIssue (s : State) (f : Issue → Issue) : (s.onIssue f).lost = s.lost := rfl
@[simp] theorem cxlUp_onIssue (s : State) (f : Issue → Issue) : (s.onIssue f).cxlUp = s.cxlUp := rfl
@[simp] theorem power_onIssue (s : State) (f : Issue → Issue) : (s.onIssue f).power = s.power := rfl
@[simp] theorem sec_onIssue (s : State) (f : Issue → Issue) : (s.onIssue f).sec = s.sec := rfl
@[simp] theorem nclk_onIssue (s : State) (f : Issue → Issue) : (s.onIssue f).nclk = s.nclk := rfl
@[simp] theorem nextBlk_onIssue (s : State) (f : Issue → Issue) : (s.onIssue f).nextBlk = s.nextBlk := rfl
@[simp] theorem nextAge_onIssue (s : State) (f : Issue → Issue) : (s.onIssue f).nextAge = s.nextAge := rfl
@[simp] theorem nextOrder_onIssue (s : State) (f : Issue → Issue) : (s.onIssue f).nextOrder = s.nextOrder := rfl
@[simp] theorem cq_onIssue (s : State) (f : Issue → Issue) : (s.onIssue f).cq = s.cq := rfl
@[simp] theorem sq_onIssue (s : State) (f : Issue → Issue) : (s.onIssue f).sq = s.sq := rfl
@[simp] theorem free_onIssue (s : State) (f : Issue → Issue) : (s.onIssue f).free = s.free := rfl
@[simp] theorem agenda_onIssue (s : State) (f : Issue → Issue) : (s.onIssue f).agenda = s.agenda := rfl
@[simp] theorem upsets_onIssue (s : State) (f : Issue → Issue) : (s.onIssue f).upsets = s.upsets := rfl
@[simp] theorem round_onIssue (s : State) (f : Issue → Issue) : (s.onIssue f).round = s.round := rfl
@[simp] theorem roundAge_onIssue (s : State) (f : Issue → Issue) : (s.onIssue f).roundAge = s.roundAge := rfl

end Sys2Proof.Machine.State
end

