-- ==== Sys2Proof/Tests/Slice0.lean ====
section
/-!
SUPPORT. The model's own tests: ill-formed instructions, words written out from the spec's encodings, small steps, and for each
statement that has hypotheses a state and operands that meet them. Expected results are the spec's, or counted by hand from
its rules.
-/

namespace Sys2Proof.Tests

set_option Elab.async false

open Sys2Proof.Machine Sys2Proof.Claims

/-! ### Ill-formed instructions -/

/-- N = 1 with D ≠ 0 (R59). -/
theorem test_wf_n : (Instr.iadd ⟨0, 1, 5, 0, 0⟩).wf = false ∧ (Instr.mov ⟨0, 1, 5, 0⟩).wf = false ∧
    (Instr.movi ⟨1, 5, 0, ⟨0, 0⟩⟩).wf = false ∧ (Instr.clock ⟨0, 1, 5⟩).wf = false ∧ (Instr.sel ⟨1, 5, 0, 0, ⟨0, 0⟩⟩).wf = false := by decide
/-- An EXT after a word with C = 0 (R56). -/
theorem test_wf_chain : (Instr.fadd ⟨0, 0, 1, 2, 3, some ⟨0, 0⟩⟩).wf = false ∧ (Instr.lea ⟨0, 0, 1, 2, 3, some ⟨0, 0⟩⟩).wf = false ∧
    (Instr.pre ⟨0, 0, 0, some ⟨0, 0⟩⟩).wf = false ∧ (Instr.gqry ⟨0, 0, 0, some ⟨0, 0⟩⟩).wf = false ∧
    (Instr.rpub ⟨0, 0, 0, some ⟨0, 0⟩⟩).wf = false := by decide
/-- A rounding mode above 4 (R61, R102). -/
theorem test_wf_round : (Instr.fadd ⟨1, 0, 1, 2, 3, some ⟨0, 5⟩⟩).wf = false ∧ (Instr.fma ⟨1, 1, 2, 3, some ⟨0, 5⟩⟩).wf = false ∧
    (Instr.frnd ⟨0, 0, 1, 2, 5⟩).wf = false ∧ (Instr.cvt ⟨1, 0, 1, 2, 0, 0, some ⟨0, 5⟩⟩).wf = false := by decide
/-- A select payload, a shift of LEA, a float compare with COND[3] (R78, R86, R130). -/
theorem test_wf_payload : (Instr.sel ⟨0, 1, 2, 3, ⟨0, 32⟩⟩).wf = false ∧ (Instr.ssel ⟨0, 1, 2, 3, ⟨0, 32⟩⟩).wf = false ∧
    (Instr.lea ⟨1, 0, 1, 2, 3, some ⟨0, 5⟩⟩).wf = false ∧ (Instr.lea ⟨1, 0, 1, 2, 3, some ⟨0, 16⟩⟩).wf = false ∧
    (Instr.fcmp ⟨0, 8, 1, 2, 3⟩).wf = false ∧ (Instr.dcmp ⟨0, 8, 1, 2, 3⟩).wf = false := by decide
/-- SIZE, ORD, SCOPE and FUNC of a load and of a store (R60, R90, R169, R255). -/
theorem test_wf_access : (Instr.ld ⟨0, 1, 4, 5, 0, 0, ⟨0, 0⟩⟩).wf = false ∧ (Instr.ld ⟨0, 1, 4, 2, 2, 0, ⟨0, 0⟩⟩).wf = false ∧
    (Instr.ld ⟨0, 1, 4, 2, 0, 0, ⟨0, 0x200000⟩⟩).wf = false ∧ (Instr.ld ⟨0, 1, 4, 2, 0, 0, ⟨0, 0x10000⟩⟩).wf = false ∧
    (Instr.ld ⟨1, 0, 4, 4, 0, 0, ⟨0, 0⟩⟩).wf = false ∧ (Instr.ld ⟨0, 1, 4, 2, 1, 0, ⟨0, 0xC00000⟩⟩).wf = false ∧
    (Instr.st ⟨1, 4, 5, 0, 0, ⟨0, 0⟩⟩).wf = false ∧ (Instr.st ⟨1, 4, 2, 1, 0, ⟨0, 0⟩⟩).wf = false ∧
    (Instr.sld ⟨0, 1, 4, 4, 0, 0, ⟨0, 0⟩⟩).wf = false ∧ (Instr.sst ⟨1, 4, 4, 0, 0, ⟨0, 0⟩⟩).wf = false ∧
    (Instr.lds ⟨0, 1, 4, 2, 1, 0, ⟨0, 0x400000⟩⟩).wf = false ∧ (Instr.sts ⟨1, 4, 2, 2, 0, ⟨0, 0x400000⟩⟩).wf = false ∧
    (Instr.ldbk ⟨1, 4, 0, ⟨0, 0x200000⟩⟩).wf = false := by decide
/-- Functions and sizes of the atomics (R172, R256). -/
theorem test_wf_atomic : (Instr.atom ⟨0, 1, 4, 1, 0, 0, ⟨0, 0x20000⟩⟩).wf = false ∧ (Instr.atom ⟨1, 0, 4, 2, 0, 0, ⟨0, 0x10000⟩⟩).wf = false ∧
    (Instr.atom ⟨0, 1, 4, 2, 0, 0, ⟨0, 0x130000⟩⟩).wf = false ∧ (Instr.red ⟨1, 4, 2, 0, 0, ⟨0, 0⟩⟩).wf = false ∧
    (Instr.red ⟨1, 4, 2, 1, 0, ⟨0, 0x20000⟩⟩).wf = false ∧ (Instr.atoms ⟨0, 1, 4, 3, 0, 0, ⟨0, 0xA0000⟩⟩).wf = false := by decide
/-- System-register selectors, VOTE, WRED, QPK and CVT codes (R92, R134, R138, R142, R143). -/
theorem test_wf_codes : (Instr.mfs ⟨0, 0, 1, 0x13⟩).wf = false ∧ (Instr.mts ⟨0, 1, 0x24⟩).wf = false ∧
    (Instr.vote ⟨0, 0, 1, 0, 1, 3⟩).wf = false ∧ (Instr.wred ⟨0, 0, 1, 2, 12⟩).wf = false ∧ (Instr.wscan ⟨0, 0, 1, 2, 12⟩).wf = false ∧
    (Instr.qpk4 ⟨0, 1, 2, 3, 0⟩).wf = false ∧ (Instr.cvt ⟨0, 0, 1, 2, 14, 0, none⟩).wf = false ∧ (Instr.cvt ⟨0, 0, 1, 2, 0, 15, none⟩).wf = false := by
  decide
/-- Members of MEMF and CPYF (R58, R179, R193, R194, R241, R260). -/
theorem test_wf_memory_members : (Instr.fence ⟨0, 0, 3⟩).wf = false ∧ (Instr.fence ⟨0, 6, 0⟩).wf = false ∧ (Instr.pref ⟨0, 0, 2⟩).wf = false ∧
    (Instr.drain ⟨0, 1, 0⟩).wf = false ∧ (Instr.seal ⟨0, 0, 4⟩).wf = false ∧ (Instr.waitb ⟨0, 64, 0⟩).wf = false ∧
    (Instr.lalloc ⟨0, 0, ⟨0, 0x30⟩⟩).wf = false ∧ (Instr.lalloc ⟨0, 0, ⟨0, 0x40⟩⟩).wf = false ∧ (Instr.lfree ⟨0, 0, 1⟩).wf = false ∧
    (Instr.cpy ⟨0, 0, ⟨0, 0xC0000⟩⟩).wf = false ∧ (Instr.cpy ⟨0, 0, ⟨0, 0x200000⟩⟩).wf = false ∧ (Instr.cpy ⟨0, 0, ⟨0, 0x100001⟩⟩).wf = false ∧
    (Instr.cpyo ⟨0, 0, ⟨0, 0x40000⟩⟩).wf = false := by decide
/-- Members of SYNF (R199, R202, R204, R216, R325, R341, R346). -/
theorem test_wf_sync_members : (Instr.bwait ⟨0, 0, ⟨0, 0x10⟩⟩).wf = false ∧ (Instr.nbarv ⟨0, 1, 0⟩).wf = false ∧ (Instr.nbwait ⟨0, 0, 16⟩).wf = false ∧
    (Instr.rpub ⟨1, 0, 0, some ⟨0, 1⟩⟩).wf = false ∧ (Instr.mqry ⟨0, 1, 0⟩).wf = false ∧ (Instr.gqry ⟨1, 0, 0, some ⟨0, 3⟩⟩).wf = false ∧
    (Instr.coll ⟨0, 1, ⟨0, 0⟩⟩).wf = false ∧ (Instr.coll ⟨0, 0, ⟨0, 0x400000⟩⟩).wf = false ∧ (Instr.ratom ⟨0, 0, ⟨0, 0x10⟩⟩).wf = false ∧
    (Instr.launch ⟨0, 0, ⟨0, 0x200⟩⟩).wf = false ∧ (Instr.waitch ⟨0, 1, ⟨0, 0⟩⟩).wf = false ∧ (Instr.binv ⟨0, 0, 1⟩).wf = false := by decide
/-- Members of CTLF (R147 to R160). -/
theorem test_wf_control_members : (Instr.exit ⟨0, 1, 0⟩).wf = false ∧ (Instr.cut ⟨0, 0, 1⟩).wf = false ∧ (Instr.pre ⟨1, 0, 0, some ⟨0, 1⟩⟩).wf = false ∧
    (Instr.grd ⟨0, 0, 32⟩).wf = false ∧ (Instr.assert ⟨0, 0, 32⟩).wf = false ∧ (Instr.roleq ⟨0, 0, 4⟩).wf = false ∧
    (Instr.roleq ⟨0, 0, 9⟩).wf = false ∧ (Instr.brx ⟨0, 0, 1⟩).wf = false := by decide
/-- Stream operations and command records (R72, R285). -/
theorem test_wf_streams : (Instr.mma ⟨0, 0, 0, 17, 1, 1, 0, 0, 0, 0, 0⟩).wf = false ∧ (Instr.mma ⟨0, 0, 0, 1, 1, 1, 0, 0, 1, 0, 0⟩).wf = false ∧
    (Instr.mmac ⟨0, 0, 0, 1, 49, 1, 0, 0, 0, 0, 0⟩).wf = false ∧ (Instr.mset 0 2 0).wf = false ∧
    (Instr.epi { tile := 0, oreg := 0, preg := 0, act := 3, ofmt := 0, clr := 0, mul := 0, bias := 0, m := 1, n8 := 1, sigen := 0, nb := 0 }).wf = false ∧
    (Instr.nopc 0).wf = false ∧ (Instr.launchCommand false 16 (List.replicate 16 0)).wf = false ∧ (Instr.launchCommand true 0 []).wf = false ∧
    (Instr.flaunch true 0 [0]).wf = false ∧ (Instr.writec 4 [0]).wf = false ∧ (Instr.predc true 256 0).wf = false ∧ (Instr.loopc 1 256).wf = false ∧
    (Instr.ibcall 4 8).wf = false ∧ (Instr.tsc 8).wf = false := by decide

/-! ### Words from the spec's encodings: one or more of each family -/

/-- Integer and scalar words: [31] C, [30:24] OP, [23] N, [22:16] D, [15:8] A, [7:0] B (R58). -/
theorem test_decode_integer : decodeTableWord 32 0x04050607 = some (.iadd ⟨0, 0, 5, 6, 7⟩) ∧
    decodeTableWord 32 0x05800607 = some (.isub ⟨0, 1, 0, 6, 7⟩) ∧ decodeTableWord 32 0x08050607 = some (.imad ⟨0, 5, 6, 7⟩) ∧
    decodeTableWord 32 0x08850607 = none ∧ decodeTableWord 32 0x0D050600 = some (.iabs ⟨0, 0, 5, 6⟩) ∧ decodeTableWord 32 0x0D050601 = none ∧
    decodeTableWord 32 0x24038182 = some (.sadd ⟨0, 0, 3, 0x81, 0x82⟩) := by decide
/-- Predicate and system words (R91, R92). -/
theorem test_decode_predicates : decodeTableWord 32 0x34010213 = some (.pand ⟨0, 1, 0, 2, 1, 3⟩) ∧
    decodeTableWord 32 0x38011200 = some (.pmov ⟨0, 1, 1, 2⟩) ∧ decodeTableWord 32 0x34110213 = none ∧ decodeTableWord 32 0x3B010000 = some (.clock ⟨0, 0, 1⟩) := by decide
/-- Floating words (R58, R61). -/
theorem test_decode_float : decodeTableWord 32 0x3C050607 = some (.fadd ⟨0, 0, 5, 6, 7, none⟩) ∧
    decodeTableWord 32 0x44210304 = some (.fcmp ⟨0, 2, 1, 3, 4⟩) ∧ decodeTableWord 32 0x59010212 = some (.cvt ⟨0, 0, 1, 2, 1, 2, none⟩) ∧
    decodeTableWord 32 0x45010200 = some (.fclass ⟨0, 0, 1, 2⟩) := by decide
/-- Quad, lane and quantiser words. -/
theorem test_decode_lane : decodeTableWord 32 0x69010203 = some (.shfl ⟨0, 0, 1, 2, 3⟩) ∧ decodeTableWord 32 0x63010200 = some (.qswx ⟨0, 0, 1, 2⟩) ∧
    decodeTableWord 32 0x6D010203 = some (.wred ⟨0, 0, 1, 2, 3⟩) := by decide
/-- Memory words: [7:5] SIZE, [4:3] ORD, [2:0] OFF (R60); a required EXT that is missing is no instruction (R56). -/
theorem test_decode_memory : decodeTableWord 32 0xEF020460 = some (.ld ⟨0, 2, 4, 3, 0, 0, ⟨0, 0⟩⟩) ∧
    decodeTableWord 32 0xF0080440 = some (.st ⟨8, 4, 2, 0, 0, ⟨0, 0⟩⟩) ∧ decodeTableWord 32 0x6F020460 = none := by decide
/-- Members: [30:24] OP, [22:16] FN, [15:8] A, [7:0] B (R58, R69). -/
theorem test_decode_members : decodeTableWord 32 0x79060003 = some (.seal ⟨0, 0, 3⟩) ∧ decodeTableWord 32 0xFA008488 = some (.cpy ⟨0x84, 0x88, ⟨0, 0⟩⟩) ∧
    decodeTableWord 32 0x7B060002 = some (.nbarv ⟨0, 0, 2⟩) ∧ decodeTableWord 32 0x7D070000 = some (.cut ⟨0, 0, 0⟩) ∧
    decodeTableWord 32 0x7D0C0000 = some (.bkpt ⟨0, 0, 0⟩) ∧ decodeTableWord 32 0x7D100000 = none := by decide
/-- Branches: [23:20] PRED, [19] SENSE, [18:0] offset (R58). -/
theorem test_decode_branch : decodeTableWord 32 0x7C180001 = some (.bra ⟨0, 1, 1, 1⟩) ∧ decodeTableWord 32 0x7E07FFFF = some (.call ⟨0, 0, 0, 0x7FFFF⟩) := by
  decide
/-- Stream words (R71). -/
theorem test_decode_stream : decodeStream 0x0611900000000010 = some (.madd 1 1 36 16) ∧ decodeStream 0x0622000000001200 = some (.madd 2 2 0 0x1200) ∧
    decodeStream 0x0104A18002C00000 = some (.mma ⟨0, 1, 2, 16, 48, 1, 3, 0, 0, 0, 0⟩) ∧ decodeStream 0x0B00000000000000 = some .mhalt ∧
    decodeStream 0x0C00000000000000 = none := by decide
/-- A record reads as the instruction, or stops with the cause. -/
def reads (x : Except CmdCause Instr) (i : Instr) : Bool := match x with
  | .ok j => decide (j = i)
  | .error _ => false
/-- A record stops with the cause. -/
def stops (x : Except CmdCause Instr) (c : CmdCause) : Bool := match x with
  | .ok _ => false
  | .error d => decide (d = c)
/-- Command records (R285, R286): OP, FLAGS, LEN, ARG. -/
theorem test_decode_command : reads (decodeCommand 0x0000000000030006 [0x1000, 5]) (.evwaitc 0x1000 5) ∧
    reads (decodeCommand 0x0000000700020108 [0x1000]) (.predc true 7 0x1000) ∧ reads (decodeCommand 0x0000000000020008 [0x1000]) (.predc false 0 0x1000) ∧
    stops (decodeCommand 0x000000000002000D [0]) .opcode ∧ stops (decodeCommand 0x0000000000040006 [0x1000, 5, 0]) .length := by decide

/-! ### Small states -/

/-- Four pages of page table, and a leaf that maps 0x50000 to itself: present, readable, writable, executable, class .dev. -/
def tables : Memory :=
  [(0x10000, 0x20003), (0x20000, 0x30003), (0x30000, 0x40003), (0x40028, 0x500FF)].foldl
    (fun m x => m.write x.1 (toBytes 8 x.2)) []
/-- A block of one wave with the registers given, W = 128, sixteen barriers, eight rings and four tiles. -/
def blk1 (a : Arch) : Block :=
  { w := 128, nb := List.replicate 16 {}, rings := List.replicate 8 {}, tiles := List.replicate 4 {}, seqr := { use := true },
    waves := [{ arch := a, entry := a, batches := List.replicate 4 {} }] }
/-- A booted device with that block on logical core 0, line 0 of each space pinned. -/
def booted (a : Arch) (f : Block → Block) : State :=
  { State.reset with
    mem := tables, lcoreCount := 1, lcoreMap := [(0, 0x8000)], bootStat := 6, cxlUp := true
    parts := [(0, { tableRoot := 0x10001 })], blocks := [(0, f (blk1 a))], nextBlk := 1
    cores := [(0, { lines := [(0, { st := .pinned 0 0 0 }), (1, { st := .pinned 0 1 0 }), (2, { st := .pinned 0 2 0 })] })] }
/-- The same with an issue of the wave for the LIVE slots given. -/
def issuing (a : Arch) (ls : List Nat) (f : Block → Block) : State :=
  { booted a f with issue := { lanes := ls, live := ls, old := a, cur := (f (blk1 a)).waves.headD {}, on := true } }
/-- Registers of a wave whose first slots are LIVE, each with a window of 128 registers: one list of registers a slot. -/
def arch1 (v : List (List B32)) (sc : List B64) : Arch :=
  { v := v.zipIdx.foldl (fun t x => x.1.zipIdx.foldl (fun t y => Tab.set 0 t (128 * x.2 + y.2) y.1) t) []
    sc := sc.zipIdx.foldl (fun t x => Tab.set 0 t x.2 x.1) []
    fib := (List.range 32).map fun l => if l < v.length then { st := .live, wb := 128 * l } else {} }
/-- One LIVE fibre with registers from v0 and scalars from s0. -/
def one (v : List B32) (sc : List B64) : State := issuing (arch1 [v] sc) [0] id
/-- Some LIVE fibres, v0 of each. -/
def many (v : List B32) : State := issuing (arch1 (v.map fun x => [x]) []) (List.range v.length) id

/-- The state after an instruction. -/
def after (i : Instr) (s : State) : State := match exec i s with
  | .next t => t
  | _ => State.reset
/-- A vector register of the issuing wave. -/
def vr (s : State) (p : Nat) : Nat := (Tab.get 0 s.issue.cur.arch.v p).toNat
/-- A scalar register of the issuing wave. -/
def sr (s : State) (k : Nat) : Nat := (Tab.get 0 s.issue.cur.arch.sc k).toNat
/-- v0 after a word on v1, v2 and an old v0. -/
def r2 (i : FmtA → Instr) (a b : B32) : Nat := vr (after (i ⟨0, 0, 0, 1, 2⟩) (one [0, a, b] [])) 0
/-- v0 after a word that reads it. -/
def r3 (i : FmtD → Instr) (a b d : B32) : Nat := vr (after (i ⟨0, 0, 1, 2⟩) (one [d, a, b] [])) 0
/-- v0 after a word of one source. -/
def r1 (i : FmtA1 → Instr) (a : B32) : Nat := vr (after (i ⟨0, 0, 0, 1⟩) (one [0, a] [])) 0
/-- Value and flags of a word on v1 and v2. -/
def r2f (i : Instr) (a b d : B32) : Nat × Nat := let t := after i (one [d, a, b] []); (vr t 0, t.issue.fl)
/-- s0 after a scalar word on s1 and s2. -/
def rs (i : FmtA → Instr) (a b : B64) : Nat := sr (after (i ⟨0, 0, 0, 0x81, 0x82⟩) (one [] [0, a, b])) 0

/-! ### Integer, scalar and predicate words (R78 to R91) -/

theorem test_add_sub_wrap : r2 .iadd 0xFFFFFFFF 1 = 0 ∧ r2 .isub 0 1 = 0xFFFFFFFF ∧ r2 .imul 0x10001 0x10001 = 0x20001 := by decide +kernel
theorem test_imulh : r2 .imulh 0x80000000 0x80000000 = 0x40000000 ∧ r2 .imulh 0xFFFFFFFF 1 = 0xFFFFFFFF := by decide +kernel
theorem test_min_max : r2 .imin 0x80000000 1 = 0x80000000 ∧ r2 .imax 0x80000000 1 = 1 ∧ r2 .nmin 0x80000000 1 = 1 ∧
    r2 .nmax 0x80000000 1 = 0x80000000 := by decide +kernel
theorem test_logic : r2 .and 0xC 0xA = 8 ∧ r2 .or 0xC 0xA = 0xE ∧ r2 .xor 0xC 0xA = 6 ∧ r2 .andn 0xC 0xA = 4 := by decide +kernel
theorem test_shifts : r2 .shl 1 32 = 0 ∧ r2 .shr 0x80000000 31 = 1 ∧ r2 .sar 0x80000000 40 = 0xFFFFFFFF ∧ r2 .rot 0x80000001 33 = 3 := by
  decide +kernel
/-- POS 4, LEN 8, SX; a field that runs over bit 31 is cut (R83). -/
theorem test_bitfields : r2 .bfx 0xF80 0x10804 = 0xFFFFFFF8 ∧ r2 .bfx 0xF80 0x804 = 0xF8 ∧ r2 .bfx 0xF0000000 0x81C = 0xF ∧
    r3 .bfi 0xAB 0x804 0xFFFFFFFF = 0xFFFFFABF := by decide +kernel
theorem test_one_source : r1 .iabs 0x80000000 = 0x80000000 ∧ r1 .ineg 1 = 0xFFFFFFFF ∧ r1 .not 0 = 0xFFFFFFFF ∧ r1 .popc 0xF0F = 8 ∧
    r1 .clz 0 = 32 ∧ r1 .brev 1 = 0x80000000 ∧ r1 .mov 5 = 5 := by decide +kernel
/-- R135's own example, and IMAD. -/
theorem test_multiply_add : r3 .dot4 0x80808080 0x80808080 0x7FFFFFFF = 0x8000FFFF ∧ r3 .imad 3 5 7 = 22 ∧
    r3 .dot4n 0xFF 0xFF 0 = 0xFE01 ∧ r3 .dot8 0xF 0xF 0 = 1 ∧ r3 .dot84l 0xFF 0xF 0 = 1 ∧ r3 .dot84h 0xFF 0xF0000 0 = 1 := by decide +kernel
/-- Register pairs, low word first (R75, R85, R86). -/
theorem test_pairs : (let t := after (.iadd64 ⟨0, 0, 0, 2, 0xF1⟩) (one [0, 0, 0xFFFFFFFF, 0] []); (vr t 0, vr t 1) = (0, 1)) ∧
    (let t := after (.shl64 ⟨0, 0, 0, 2, 0xF4⟩) (one [0, 0, 0xF0000000, 0] []); (vr t 0, vr t 1) = (0, 0xF)) ∧
    (let t := after (.lea ⟨1, 0, 0, 0x80, 2, some ⟨0, 2⟩⟩) (one [0, 0, 0xFFFFFFFF] [0x100000000]); (vr t 0, vr t 1) = (0xFFFFFFFC, 0)) := by
  decide +kernel
/-- N = 1 writes the latch alone (R59, R64). -/
theorem test_latch_only : (let t := after (.iadd ⟨0, 1, 0, 1, 2⟩) (one [9, 1, 2] []);
    (vr t 0, Tab.find t.issue.cur.arch.lat 0) = (9, some ⟨3, 0⟩)) := by decide +kernel
theorem test_scalars : rs .sadd (-1) 1 = 0 ∧ rs .ssub 0 1 = 2 ^ 64 - 1 ∧ rs .sshl 1 64 = 0 ∧ rs .smin (-1) 1 = 2 ^ 64 - 1 ∧
    rs .smul (2 ^ 63) 2 = 0 ∧ sr (after (.smovi ⟨0, 0, 0xFF, ⟨0, 0xFFFFFF⟩⟩) (one [] [])) 0 = 2 ^ 64 - 1 := by decide +kernel
/-- MOVI's immediate is the payload over FN (R78); SEL takes A where the predicate has the sense. -/
theorem test_moves : vr (after (.movi ⟨0, 0, 0x78, ⟨0, 0x123456⟩⟩) (one [] [])) 0 = 0x12345678 ∧
    vr (after (.sel ⟨0, 0, 1, 2, ⟨0, 0⟩⟩) (one [0, 7, 8] [])) 0 = 7 ∧ vr (after (.sel ⟨0, 0, 1, 2, ⟨0, 1⟩⟩) (one [0, 7, 8] [])) 0 = 8 := by
  decide +kernel
/-- The predicates of slot 0 after a word. -/
def pr (i : Instr) (s : State) : Nat := ((after i s).issue.cur.arch.fibre 0).pred.toNat
theorem test_compares : pr (.icmp ⟨0, 2, 1, 1, 2⟩) (one [0, 0x80000000, 1] []) = 3 ∧ pr (.ncmp ⟨0, 2, 1, 1, 2⟩) (one [0, 0x80000000, 1] []) = 1 ∧
    pr (.scmp ⟨0, 2, 1, 0x80, 0x81⟩) (one [] [-1, 1]) = 3 ∧ pr (.icmp ⟨0, 0, 0, 1, 2⟩) (one [0, 1, 2] []) = 1 := by decide +kernel
theorem test_predicates : pr (.pand ⟨0, 2, 0, 0, 1, 1⟩) (one [] []) = 5 ∧ pr (.pxor ⟨0, 2, 0, 0, 0, 0⟩) (one [] []) = 1 ∧
    pr (.pnot ⟨0, 3, 0, 1⟩) (one [] []) = 9 ∧ pr (.pmov ⟨0, 0, 1, 0⟩) (one [] []) = 1 := by decide +kernel

/-! ### Floating and lane words (R124 to R143) -/

/-- Sums and products of R125's table: overflow in .rne, an exact zero sum under .rm, ±0 × ±Inf, NaN. -/
theorem test_float : r2f (.fadd ⟨0, 0, 0, 1, 2, none⟩) 0x3F800000 0x3F800000 0 = (0x40000000, 0) ∧
    r2f (.fmul ⟨0, 0, 0, 1, 2, none⟩) 0 0x7F800000 0 = (0x7FC00000, 1) ∧
    (r2f (.fadd ⟨0, 0, 0, 1, 2, none⟩) 0x7F7FFFFF 0x7F7FFFFF 0).1 = 0x7F800000 ∧
    r2f (.fsub ⟨1, 0, 0, 1, 2, some ⟨0, 3⟩⟩) 0x3F800000 0x3F800000 0 = (0x80000000, 0) ∧
    r2f (.fadd ⟨0, 0, 0, 1, 2, none⟩) 0x7F800001 0 0 = (0x7FC00000, 0) := by decide +kernel
/-- FMA rounds once: (1 + 2^−12)² − (1 + 2^−11) = 2^−24. -/
theorem test_fma : r2f (.fma ⟨0, 0, 1, 2, none⟩) 0x3F800800 0x3F800800 0xBF801000 = (0x33800000, 0) := by decide +kernel
/-- R126 to R129: zeros of either sign, the class of −0, −0.4 rounded to −0. -/
theorem test_float_rest : r2 .fmin 0 0x80000000 = 0x80000000 ∧ r2 .fmax 0x7FC00000 5 = 5 ∧ r1 .fabs 0x80000001 = 1 ∧
    r1 .fneg 0x7F800001 = 0x7FC00000 ∧ r1 .fclass 0x80000000 = 8 ∧ r1 .fclass 0x7F800000 = 0x80 ∧
    vr (after (.frnd ⟨0, 0, 0, 1, 0⟩) (one [0, 0xBECCCCCD] [])) 0 = 0x80000000 ∧
    pr (.fcmp ⟨0, 6, 1, 1, 2⟩) (one [0, 0x7FC00000, 0] []) = 3 ∧ pr (.fcmp ⟨0, 0, 1, 1, 2⟩) (one [0, 0, 0x80000000] []) = 3 := by decide +kernel
/-- Exact values of the X pipe (R131). -/
theorem test_functions : r1 .frcp 0x40000000 = 0x3F000000 ∧ r1 .fsqrt 0x40800000 = 0x40000000 ∧ r1 .fexp2 0x40400000 = 0x41000000 ∧
    r1 .flog2 0x41000000 = 0x40400000 ∧ r1 .frsq 0x40800000 = 0x3F000000 ∧ r1 .fcos 0 = 0x3F800000 ∧ r1 .fsin 0 = 0 ∧
    r1 .ftanh 0 = 0 := by decide +kernel
/-- I32 to F32 (R108, R134). -/
theorem test_convert : vr (after (.cvt ⟨0, 0, 0, 1, 6, 0, none⟩) (one [0, 5] [])) 0 = 0x40A00000 := by decide +kernel
/-- R136's and R137's own examples. -/
theorem test_scales : r2 .bscl 0x80000000 0xFEFE = 0xFF800000 ∧ r2 .bscl 0 0x7F7F = 0 ∧ r2 .bscl 4 0x7F7F = 0x40800000 ∧
    r2 .qexp 0x40F33333 4 = 0x7F ∧ r2 .qexp 0 8 = 0 ∧ r2 .qexp 0x3F800000 3 = 255 := by decide +kernel
/-- Slots 0 to 3 with 1.0, 2^−30, −1.0, 2^−30: R143's own table. -/
def four : State := many [0x3F800000, 0x30800000, 0xBF800000, 0x30800000]
theorem test_reduce : (List.range 4).map (fun l => vr (after (.wred ⟨0, 0, 1, 0, 8⟩) four) (128 * l + 1)) = [0, 0, 0, 0] ∧
    (List.range 4).map (fun l => vr (after (.wred ⟨0, 0, 1, 0, 11⟩) four) (128 * l + 1)) = [0x31000000, 0x31000000, 0x31000000, 0x31000000] ∧
    (List.range 4).map (fun l => vr (after (.wscan ⟨0, 0, 1, 0, 8⟩) four) (128 * l + 1)) = [0x3F800000, 0x3F800000, 0, 0x30800000] := by
  decide +kernel
theorem test_scan : (List.range 4).map (fun l => vr (after (.wscan ⟨0, 0, 1, 0, 11⟩) four) (128 * l + 1)) =
    [0x3F800000, 0x3F800000, 0x30800000, 0x31000000] := by decide +kernel
/-- A quad's neighbours, a shuffle across slot parity, a ballot (R139, R141, R142). -/
theorem test_lanes : (List.range 4).map (fun l => vr (after (.qswx ⟨0, 0, 1, 0⟩) (many [1, 2, 3, 4])) (128 * l + 1)) = [2, 1, 4, 3] ∧
    (List.range 4).map (fun l => vr (after (.shflx ⟨0, 0, 1, 0, 0xF1⟩) (many [1, 2, 3, 4])) (128 * l + 1)) = [2, 1, 4, 3] ∧
    (List.range 4).map (fun l => vr (after (.shfl ⟨0, 0, 1, 0, 0xF7⟩) (many [1, 2, 3, 4])) (128 * l + 1)) = [0, 0, 0, 0] ∧
    vr (after (.vote ⟨0, 0, 1, 0, 0, 0⟩) (many [1, 2, 3, 4])) 1 = 15 ∧ vr (after (.vote ⟨0, 0, 1, 1, 0, 1⟩) (many [1, 2])) 1 = 0 := by
  decide +kernel

/-! ### Memory, control and the other families: one step each -/

/-- The same issue with its block changed. -/
def oneIn (v : List B32) (sc : List B64) (f : Block → Block) : State := issuing (arch1 [v] sc) [0] f
/-- A state with its issue changed. -/
def iss (s : State) (f : Issue → Issue) : State := { s with issue := f s.issue }
/-- STS then LDS at byte 16 of space 0, the base a scalar: the low half-word alone is stored (R169). -/
theorem test_local_memory : vr (after (.lds ⟨0, 1, 0x80, 2, 0, 4, ⟨0, 0⟩⟩) (after (.sts ⟨0, 0x80, 1, 0, 0, ⟨0, 1⟩⟩) (one [0x12345678] [0]))) 1 = 0x5678 ∧
    (after (.lds ⟨0, 1, 0x80, 2, 0, 4, ⟨0, 0⟩⟩) (one [] [2])).issue.faults.map FaultInfo.cls = [.alignment] ∧
    (after (.lds ⟨0, 1, 0x80, 2, 0, 0, ⟨0, 0⟩⟩) (one [] [1024])).issue.faults.map FaultInfo.cls = [.space] := by decide +kernel
/-- ATOMS adds and returns the old value (R172, R256). -/
theorem test_local_atomic : (let t := after (.atoms ⟨0, 1, 0x80, 2, 0, 0, ⟨0, 0x20000⟩⟩) (after (.sts ⟨0, 0x80, 2, 0, 0, ⟨0, 0⟩⟩) (one [7] [0]));
    (vr t 1, ofBytes (spaceBytes t 0 0 4))) = (7, 7) := by decide +kernel
/-- A plain ST is held and memory is not changed (R155); a page that is not there faults (R233). -/
theorem test_store : (let t := after (.st ⟨0, 0x80, 2, 0, 0, ⟨0, 0⟩⟩) (one [7] [0x50010]);
      (t.issue.cur.held.map fun h => (h.pa, h.data), t.mem.readNat 0x50010 4)) = ([(0x50010, [7, 0, 0, 0])], 0) ∧
    (after (.st ⟨0, 0x80, 2, 0, 0, ⟨0, 0⟩⟩) (one [7] [0x60000])).issue.faults.map FaultInfo.cls = [.invalid] := by decide +kernel
/-- LD finds the wave's own held store over the home's bytes (R246). -/
theorem test_load : vr (after (.ld ⟨0, 1, 0x80, 2, 0, 0, ⟨0, 0⟩⟩) (after (.st ⟨0, 0x80, 0, 0, 0, ⟨0, 0⟩⟩) (let s := one [7] [0x50010];
    { s with mem := s.mem.write 0x50010 [1, 2, 3, 4] }))) 1 = 0x04030207 := by decide +kernel
/-- ATOM.CAS at the home: the old value comes back and, equal to data, is replaced (R256). -/
theorem test_atomic : (let s := one [0x04030201, 9] [0x50010]; let t := after (.atom ⟨0, 0, 0x80, 2, 0, 0, ⟨0, 0x10000⟩⟩) { s with mem := s.mem.write 0x50010 [1, 2, 3, 4] };
    (vr t 0, t.mem.readNat 0x50010 4)) = (0x04030201, 9) := by decide +kernel
/-- BRA by its signed offset, never taken with p0 and SENSE = 1 (R146); FORK takes the lowest EMPTY slot (R147). -/
theorem test_control : (after (.bra ⟨0, 0, 0, 0x7FFFF⟩) (iss (one [] []) fun e => { e with pc := ⟨5, 0⟩ })).issue.taken = [(0, 4)] ∧
    (after (.bra ⟨0, 0, 1, 1⟩) (one [] [])).issue.taken = [] ∧
    (let t := after (.fork ⟨0, 0xF3, 0x80⟩) (one [] [128]); (t.issue.cur.arch.fibre 1, Tab.find t.issue.cur.arch.lat 3)) =
      ({ st := .live, pc := ⟨3, 0⟩, wb := 128 }, some ⟨1, 0⟩) := by decide +kernel
/-- BINIT counts one arrival, BARV completes the phase (R198, R200). -/
theorem test_barrier : (let t := after (.barv ⟨0, 0x80, 0xF1⟩) (after (.binit ⟨0, 0x80, 0xF1⟩) (one [] [0x40]));
    ((t.tbar 0 0x40).phase, (t.tbar 0 0x40).remain, (t.tbar 0 0x40).expect)) = (true, 1, 1) := by decide +kernel
/-- LALLOC of two lines takes index 1 of space 0; none is left of 1,025 (R174). -/
theorem test_alloc : sr (after (.lalloc ⟨0x80, 0x81, ⟨0, 1⟩⟩) (one [] [2])) 1 = 1024 ∧
    sr (after (.lalloc ⟨0x80, 0x81, ⟨0, 1⟩⟩) (one [] [1025])) 1 = 2 ^ 64 - 1 := by decide +kernel
/-- TRAP with the handler on stops the wave and leaves a record of class TRAP (R159, R271). -/
theorem test_trap : (let s := one [] []; let t := after (.trap ⟨0, 0x12, 0x34⟩) { s with parts := [(0, { handler := 8 })] };
    (t.issue.cur.mode, (t.part 0).recWait.map fun r => (r.data.getD 0 0, r.data.drop 62))) = (.stopped .handler, [(0x14, [0x34, 0x12])]) := by
  decide +kernel
/-- MFS of LAUNCH, POINT.X and WAVE numbers; MTS to FLAGS waits for the group's end (R92, R93). -/
theorem test_system_registers : sr (after (.mfs ⟨0, 0, 1, 0x0B⟩) (oneIn [] [] fun k => { k with launch := 9 })) 1 = 9 ∧
    sr (after (.mfs ⟨0, 0, 1, 0x08⟩) (one [] [])) 1 = 0 ∧ (after (.mts ⟨0, 0xF7, 0x0D⟩) (one [] [])).issue.mts = some 7 := by decide +kernel
/-- A gate: GTRY below and at COUNT (R326). -/
theorem test_gate : (let s := { one [] [0, 5] with gates := [(0, { st := 1, wmask := 1, sig := 1, count := 5 })] };
    (pr (.gtry ⟨0x80, 0x81, ⟨0, 1⟩⟩) s, pr (.gtry ⟨0x80, 0xF6, ⟨0, 1⟩⟩) s, ((after (.gsig ⟨0x80, 0xF3, ⟨0, 1⟩⟩) s).gate 0).count)) = (3, 1, 8) := by
  decide +kernel
/-- A cold reset keeps the fuses and restarts the boot (R352). -/
theorem test_cold_reset : (after .coldReset (one [] [])).bootStat = 0 ∧ (after .coldReset (one [] [])).hostOpen = false := by decide +kernel
/-- Three command records: NOPC, TSC and EVSIGC by way of the partition's tables (R285). -/
theorem test_commands : ((after (.nopc 3) (one [] [])).queue 0 0).head = 24 ∧
    (let t := after (.tsc 0x50000) { one [] [] with nclk := 77 }; (t.mem.readNat 0x50000 8, (t.queue 0 0).head)) = (77, 16) ∧
    ((after (.tsc 0x60000) (one [] [])).queue 0 0).fault = true ∧
    (after (.evsigc false 3 0x50000) (one [] [])).mem.readNat 0x50000 8 = 3 := by decide +kernel
/-- The stream words MADD and MLOOP (R222). -/
theorem test_stream : (let s := oneIn [] [] fun k => { k with seqr := { k.seqr with m := [(1, 2)], st := .running } };
    (((after (.madd 2 1 4 (-1)) s).blk 0).seqr.m, ((after (.mloop 1 (-3)) s).blk 0).seqr.wpos, ((after (.mloop 1 (-3)) s).blk 0).seqr.m)) =
      ([(1, 2), (2, 0xFFFFFFFFFFFFFFF2)], -3, [(1, 1)]) := by decide +kernel
/-- Words that rest on a word the decoder reads: placed where step fetches, the very next step runs it. -/
theorem test_step_runs : (match step (State.reset.withFetchWord 32 0x04050607) with
    | .next t => t.memOk
    | _ => false) = true := by decide +kernel

/-! ### Hypotheses that are met: for each statement that has some, a state and operands of every clause -/

/-- One LIVE fibre and scalars 0, 1, 2. -/
def S : State := one [0, 1, 2] [0, 1, 2]
/-- The same, its word taking effect in no fibre. -/
def S0 : State := iss S fun e => { e with lanes := [], live := [] }
/-- The same as a scout. -/
def Sscout : State := iss S fun e => { e with scout := true }
/-- A handler run in block 1 for wave 0 of block 0, which is stopped for it in wave slot 5; its record has code `c`. -/
def hrun (c : Nat) : State :=
  let k := blk1 (arch1 [[]] [])
  { S with
    blocks := [(0, { k with waves := k.waves.map fun w => { w with mode := .stopped .handler, slot := 5 } }), (1, { k with handler := true })]
    cores := [(0, { hrun := some (1, ⟨0, 0, 0, [], c⟩), tgt := 0x85 })], issue := { S.issue with blk := 1 } }
/-- A plain copy of block 0. -/
def aCopy : Copy := {
  seq := 0, blk := 0, wave := 0, part := 0, det := false, st := .running, pc := {}, wslot := 0, word := 0, fn := 0, cls := 0, bseq := 0
  a := [], b := [], ext := 0 }
/-- A result that is not an error. -/
def isOk {α β : Type} (x : Except α β) : Bool := match x with
  | .ok _ => true
  | .error _ => false

theorem test_witness_SourceFields : (0x7F : Byte).toNat < 0x80 ∧ 0x80 ≤ (0x80 : Byte).toNat ∧ (0xBF : Byte).toNat < 0xC0 ∧
    0xC0 ≤ (0xC3 : Byte).toNat ∧ (0xC3 : Byte).toNat < 0xC4 ∧ Tab.find [(3, (⟨5, 0⟩ : Latch))] (4 * 0 + ((0xC3 : Byte).toNat - 0xC0)) = some ⟨5, 0⟩ ∧
    0xE0 ≤ (0xE0 : Byte).toNat ∧ 0xE0 ≤ (0xFF : Byte).toNat := by decide
theorem test_witness_FloatAlgebra : (f64.read 0x7FF8000000000000).isNan ∧ (f32.read 0xFFFFFFFF).isNan ∧ (f16.read 0x7C01).isNan ∧
    (b16.read 0x7F81).isNan ∧ (e5m2.read 0x7D).isNan ∧ (e4m3.read 0x7F).isNan := by decide +kernel
theorem test_witness_FloatWords : payload none ≤ 4 ∧ payload (some ⟨0, 4⟩) ≤ 4 ∧ (4 : Byte).toNat ≤ 4 := by decide
theorem test_witness_LaneWords : (2 : Byte).toNat ≤ 2 ∧ (11 : Byte).toNat ≤ 11 := by decide
theorem test_witness_SystemRegisters : S.issue.on = true ∧ S.iblk.handler = false ∧ (0x1F : Byte).toNat < 0x20 ∧
    (hrun 0).iblk.handler = true ∧ 0x12 ≤ (0x12 : Byte).toNat ∧ 0x18 ≤ (0x18 : Byte).toNat ∧ S.iblk.primary = true ∧ S.iblk.twin = none ∧
    S0.issue.effLive = [] ∧ S.issue.effLive ≠ [] ∧ (hrun 0).issue.effLive ≠ [] ∧
    (let s := hrun 0; s.iblk.handler = true ∧ tgtOf s / 2 ^ 7 % 2 = 1 ∧ s.stoppedAt s.issue.core s.ipart (tgtOf s % 64) = some (0, 0) ∧
      0 ≠ s.issue.blk ∧ (s.wave? 0 0).isSome = true) ∧
    (let s := { hrun 0 with cores := [(0, { hrun := some (1, ⟨0, 0, 0, [], 0⟩), tgt := 0x86 })] };
      s.iblk.handler = true ∧ s.stoppedAt s.issue.core s.ipart (tgtOf s % 64) = none ∧ s.issue.effLive ≠ []) ∧
    (0x11 : Byte).toNat < 0x12 ∧ (0x20 : Byte).toNat < 0x24 := by decide +kernel
/-- A DET block whose wave 0, which holds the baton, is blocked, and whose wave 1 is ready. -/
def Sdet : State := booted (arch1 [[]] []) fun k => { k with
  det := true, waves := k.waves.flatMap fun w => [{ w with arch := { w.arch with fib := w.arch.fib.map fun x => { x with blocked := some {} } } }, w] }
theorem test_witness_HintsQueriesAndBars_batons : (let s := Sdet; (s.blk? 0).isSome = true ∧ (s.blk 0).det = true ∧ s.comesToWait 0 (s.blk 0).baton = true ∧
      s.readyWaves 0 = [1]) ∧
    (∀ g ∈ [.fast, .scout {}], let s := booted (arch1 [[]] []) fun k => { k with waves := k.waves.map fun w => { w with gear := g } };
      s.issue.on = false ∧ (s.blk? 0).isSome = true ∧ (s.blk 0).det = false ∧ (s.blk 0).pre = none ∧ (match s.wave? 0 0 with
      | some v => decide (v.mode = .run) && decide (v.gear = g) && !(Arch.liveSlots v.arch).isEmpty && !v.single && v.waits.isEmpty
      | none => false) = true) := by decide +kernel
theorem test_witness_HintsQueriesAndBars : S0.issue.effLive = [] ∧ S.issue.effLive ≠ [] ∧ S.iblk.det = false ∧
    (let s := oneIn [] [] fun k => { k with det := true }; s.issue.effLive ≠ [] ∧ s.blk? s.issue.blk = some s.iblk ∧ s.iblk.det = true) := by
  decide +kernel
theorem test_witness_ExceptionsStopTheWave :
    (∀ l ∈ S.issue.effLive, S.issue.old.readP l ((0 : Byte).toNat % 16) ≠ (0 : Byte).getLsbD 4) ∧
    (S.issue.on = true ∧ S.blk? S.issue.blk = some S.iblk ∧ S.issue.wv < S.iblk.waves.length) ∧ S.iblk.handler = false ∧
    S.issue.effLive.filter (fun l => S.issue.old.readP l ((0x10 : Byte).toNat % 16) == (0x10 : Byte).getLsbD 4) = [0] ∧
    S0.issue.effLive = [] ∧ S.issue.effLive ≠ [] ∧ (S.part S.iblk.part).handler.getLsbD 3 = false ∧ S.iblk.twin = none ∧
    (let s := { S with parts := [(0, { handler := 8 })] }; (s.part s.iblk.part).handler.getLsbD 3 = true ∧ s.blk? s.issue.blk = some s.iblk) := by
  decide +kernel
theorem test_witness_HaltStopsOrEndsTheRun : S.iblk.handler = false ∧ S.issue.effLive ≠ [] ∧ S.blk? S.issue.blk = some S.iblk ∧
    S.issue.wv < S.iblk.waves.length ∧ 0 < S.iblk.waves.length ∧ S.wave? S.issue.blk 0 = some S.issue.cur ∧ S.issue.on = true ∧
    (let s := hrun 0xFFFE; s.issue.on = true ∧ s.blk? s.issue.blk = some s.iblk ∧ s.issue.wv < s.iblk.waves.length ∧ s.iblk.handler = true ∧
      s.issue.effLive ≠ [] ∧ (s.core s.issue.core).hrun = some (s.issue.blk, ⟨0, 0, 0, [], 0xFFFE⟩) ∧ ((s.wave? s.issue.blk 0).map Wave.held) = some []) := by decide +kernel
theorem test_witness_ReturnFromHandler_settled : let u := restarted (hrun 0) 0 0 (((hrun 0).part 0).handler.getLsbD 4)
    u.barTest 0 = u := by rfl
theorem test_witness_ReturnFromHandler_plain : let s := hrun 0
    ((s.wave? 0 0).map fun x => (x.held, (Arch.liveSlots x.arch).isEmpty)) = some ([], false) ∧
      ((s.wave? s.issue.blk 0).map Wave.held) = some [] := by decide +kernel
theorem test_witness_ReturnFromHandler : let s := hrun 0
    s.issue.on = true ∧ s.blk? s.issue.blk = some s.iblk ∧ s.issue.wv < s.iblk.waves.length ∧ s.iblk.handler = true ∧
      s.issue.effLive ≠ [] ∧ 0 ≠ s.issue.blk ∧ s.stoppedAt s.issue.core s.iblk.part ((s.core s.issue.core).tgt.toNat % 64) = some (0, 0) ∧
      (s.wave? 0 0).isSome = true ∧ (s.core s.issue.core).hrun = some (s.issue.blk, ⟨0, 0, 0, [], 0⟩) ∧ (0 : Nat) ≠ 0xFFFE := by
  decide +kernel

/-- An LDS or STS at s0, of 2^z bytes, in order `o`. -/
def fm (z : BitVec 3) (o : BitVec 2) : FmtM := ⟨0, 1, 0x80, z, o, 0, ⟨0, 0x200000⟩⟩
/-- The same of a store. -/
def fms (z : BitVec 3) (o : BitVec 2) : FmtMs := ⟨0, 0x80, z, o, 0, ⟨0, 0x200000⟩⟩
/-- s0 is the last 16-byte unit of line 0, or a byte that no line holds. -/
def Sat (a : B64) : State := one [1, 2, 3, 4] [a]
theorem test_witness_LocalLoadWords : (fm 4 0).s.toNat ≤ 4 ∧ (fm 4 3).o = 3 ∧ (fm 4 1).o = 1 ∧ (Sat 0x3F0).issue.eff ≠ [] ∧
    ((fm 4 3).x.p.extractLsb' 21 3).toNat ≤ 5 ∧
    (∀ x ∈ [0, 1], ∀ o ∈ [1, 3], let s := Sat 0x3F0; let f := fm 4 o
      let u := if f.o = 3 then s.release (f.x.p.extractLsb' 21 3).toNat else s
      let bad := fun v l => spaceFault v x (addr s f.g f.x f.e f.s.toNat l) (2 ^ f.s.toNat) true
      ∀ l ∈ s.issue.eff, bad s l = none ∧ bad u l = none) ∧
    (let s := Sat 0x400; let f := fm 4 1
      ∃ l ∈ s.issue.effLive, spaceFault s 0 (addr s f.g f.x f.e f.s.toNat l) (2 ^ f.s.toNat) true ≠ none) := by decide +kernel
theorem test_witness_LocalStoreWords : (fms 4 0).s.toNat ≤ 4 ∧ (Sat 0x3F0).issue.scout = false ∧
    (Sat 0x3F0).shadowsUsed (Sat 0x3F0).issue.core + (Sat 0x3F0).issue.effLive.length ≤ 512 ∧ Sscout.issue.scout = true ∧
    (∀ x ∈ [0, 1], ∀ o ∈ [0, 2, 3], let s := Sat 0x3F0; let f := fms 4 o; let u := s.release (f.x.p.extractLsb' 21 3).toNat
      ∀ l ∈ s.issue.effLive, spaceFault s x (addr s f.g f.x f.e f.s.toNat l) (2 ^ f.s.toNat) false = none ∧
        spaceFault u x (addr s f.g f.x f.e f.s.toNat l) (2 ^ f.s.toNat) false = none) ∧
    (∀ x ∈ [0, 1], let s := Sat 0x400; let f := fms 4 0
      ∃ l ∈ s.issue.effLive, spaceFault s x (addr s f.g f.x f.e f.s.toNat l) (2 ^ f.s.toNat) false ≠ none) ∧
    (let s := Sat 0x3F1; let f := fm 3 0
      ∃ l ∈ s.issue.effLive, spaceFault s 0 (addr s f.g f.x f.e f.s.toNat l) (2 ^ f.s.toNat) (f.n == 0) ≠ none) := by decide +kernel
theorem test_witness_LocalAtomics : ∀ o ∈ [0, 1, 2, 3], let s := Sat 0x3F8; let f := fm 3 o
    let u := if f.o = 2 ∨ f.o = 3 then s.release (f.x.p.extractLsb' 21 3).toNat else s
    let bad := fun v l => spaceFault v 0 (addr s f.g f.x f.e f.s.toNat l) (2 ^ f.s.toNat) (f.n == 0)
    f.s.toNat ≤ 3 ∧ s.issue.scout = false ∧ ∀ l ∈ s.issue.effLive, bad s l = none ∧ bad u l = none := by decide +kernel
/-- A block that is to be saved. -/
def Spre : State := issuing (arch1 [] [0]) [0] fun k => { k with pre := some { why := .launch } }
/-- LALLOC of 0, 1 and 1,023 lines where line 0 is taken; 1,024 do not fit. -/
theorem test_witness_LocalAllocation : S0.issue.actor = none ∧ S.issue.actor ≠ none ∧ S.iblk.pre = none ∧
    (Spre.issue.actor ≠ none ∧ Spre.iblk.pre ≠ none) ∧ S.issue.core = S.iblk.core ∧ (∀ set < 64, (State.pinnedWays (S.core S.issue.core) set).length ≤ 14) ∧
    (let n := (ns S 0x80).toNat % 2 ^ 32; n = 0) ∧
    (let n := (ns S 0x81).toNat % 2 ^ 32; n ≠ 0 ∧ n ≤ S.freePinnable S.issue.core ∧ (1 + n ≤ 1024 ∧ ∀ j < n, (S.spaceWay S.issue.blk 0 (1 + j)).isSome = false) ∧
      ∀ j < 1, ¬(j + n ≤ 1024 ∧ ∀ i < n, (S.spaceWay S.issue.blk 0 (j + i)).isSome = false)) ∧
    (let s := one [] [1024]; let n := (ns s 0x80).toNat % 2 ^ 32; n ≠ 0 ∧ s.freePinnable s.issue.core < n) ∧
    (let s := one [] [0x10000]; let r := ns s 0x80; let n := (r.extractLsb' 16 11).toNat
      ((r.extractLsb' 30 2).toNat < 3 ∧ 0 < n ∧ n ≤ 1024 ∧ r.extractLsb' 10 6 = 0 ∧ r.extractLsb' 27 3 = 0) ∧ s.linesBusy s.issue.blk 0 0 1 (s.core s.issue.core).starts = false) ∧
    ¬(0 < ((ns S 0x80).extractLsb' 16 11).toNat) ∧
    (let s := { one [] [0x10000] with cores := [(0, { copies := [(0, aCopy)], starts := 1 })] }; s.linesBusy s.issue.blk 0 0 1 (s.core s.issue.core).starts = true) ∧
    2 < (ns (one [] [3]) 0x80).toNat % 2 ^ 32 ∧ (ns S 0x82).toNat % 2 ^ 32 ≤ 2 := by decide +kernel
/-- The last bytes of a line, with no copy in L1, and with one whose lease ends at pts. -/
def Scopy : State := { S with cores := [(0, { lines := [(0, { st := .copy 0 0x50000 0x50000 .dev 0 7 [] })], pts := [(0, 7)] })] }
theorem test_witness_LoadFindsLatestBytes_own : State.covers 0x503FC 4 (ownStores S 0 0 0) = false ∧ (S.core 0).outbox = [] ∧
    (∀ c ∈ (S.beforeRead 0 0 0x503FC 0x503FC .dev).cores, ∀ x ∈ c.2.lines, x.2.isPinned = true) ∧
    (let s := iss S fun e => { e with cur := { e.cur with held := [{ va := 0x503FC, pa := 0x503FC, cls := .dev, data := [1, 2, 3, 4] }] } };
      State.covers 0x503FC 4 (ownStores s 0 0 0) = true) := by decide +kernel
theorem test_witness_LoadFindsLatestBytes : 0x503FC % 1024 + 4 ≤ 1024 ∧ (∀ c ∈ S.cores, ∀ x ∈ c.2.lines, x.2.isPinned = true) ∧ Cls.dev ≠ .loc ∧
    Scopy.l1Find 0 0 0x503FC = some (0, { st := .copy 0 0x50000 (State.lineOf 0x503FC) .dev 0 7 [] }) ∧ Scopy.pts 0 0 ≤ 7 := by decide +kernel
/-- A P2 wave whose reservation is full of its own committed bytes, and a page of class LOCAL. -/
def Snoroom : State := let s := oneIn [1, 2, 3, 4] [0x503F0] fun k => { k with plevel := 2 }
  { s with cores := [(0, { lines := (s.core 0).lines, outbox := [⟨0, 0x50000, 0x50000, .dev, List.replicate 16384 0, 0, 0, true, []⟩] })] }
def Slocal : State := { Sat 0x503F0 with mem := tables.write 0x40028 (toBytes 8 0x5007F) }
theorem test_witness_GlobalStoreWords_room : (let s := Sat 0x503F0; let r := storeChecks s (fms 4 0) (stored s 0 4) s.issue.effLive
      r.1.map (·.1) = [0] ∧ r.2.2.hasRoom s.issue.core s.issue.blk s.issue.wv s.issue.cur (2 ^ (fms 4 0).s.toNat * r.1.length) = true) ∧
    (let s := Snoroom; let r := storeChecks s (fms 4 0) (stored s 0 4) s.issue.effLive
      r.1.map (·.1) = [0] ∧ r.2.1 = [] ∧ r.2.2.hasRoom s.issue.core s.issue.blk s.issue.wv s.issue.cur (2 ^ (fms 4 0).s.toNat * r.1.length) = false) ∧
    (∀ o ∈ [2, 3], let s := Slocal; let r := storeChecks s (fms 4 o) (stored s 0 4) s.issue.effLive
      s.issue.on = true ∧ s.iblk.primary = true ∧ s.issue.scout = false ∧ r.2.1 = [] ∧ r.1.map (fun y => (y.1, y.2.cls)) = [(0, .loc)]) ∧
    ((Slocal.localNow ⟨0, 0x503F0, 0x503F0, .loc, [5], 0, 0, false, []⟩ 0).l1Find 0 0 0x503F0).isSome = true ∧
    (∀ o ∈ [2, 3], let s := Sat 0x503F0; (((storeChecks s (fms 4 o) (stored s 0 4) s.issue.effLive).2.2.release 1).core 0).outbox = []) ∧
    (let s := { Slocal with cores := [(0, { lines := [(0, { st := .copy 0 0x50000 0x50000 .loc 0 0 [], data := [(0x3F0, 5)] })] })] };
      (match s.l1Find 0 0 0x503F0 with
      | some (_, l) => Memory.read l.data (0x503F0 % 1024) 1 == [5]
      | none => false) = true) := by decide +kernel
/-- s0 = 0x50010 is mapped, 0x60000 is not. -/
theorem test_witness_GlobalStoreWords : ∀ o ∈ [0, 2, 3], (fms 4 o).s.toNat ≤ 4 ∧ Sscout.issue.scout = true ∧
    (let s := Sat 0x60000; s.issue.scout = false ∧ (storeChecks s (fms 4 o) (stored s 0 4) s.issue.effLive).2.1 ≠ []) ∧
    (let s := Sat 0x503F0; let r := storeChecks s (fms 4 o) (stored s 0 4) s.issue.effLive
      s.issue.scout = false ∧ s.issue.on = true ∧ s.iblk.primary = true ∧ r.2.1 = [] ∧ r.1 ≠ [] ∧ ∀ y ∈ r.1, y.2.cls ≠ .loc) := by decide +kernel
theorem test_witness_AtomicValues : (3 : Nat) ≤ 3 ∧ 31 < 32 ∧ 2 ^ 52 - 8 < 2 ^ 52 ∧ 2 ^ 64 - 1 < 2 ^ 64 ∧ 2 ^ 47 - 1 < 2 ^ 47 ∧
    (S.leaseOf 0x50010).2 < 2 ^ 47 ∧ 2 ^ 12 - 1 < 2 ^ 12 ∧
    (∀ w ∈ ((S.tags.get {} (State.tagKey 1 (sliceOf 0x50010))).window), w.tag ≠ (S.tags.get {} (State.tagKey 1 (sliceOf 0x50010))).next % 65536) := by
  decide +kernel
theorem test_witness_AtomicValues_homes : ∀ k, (Tab.get (0, 0) ((S.cross (S.coreDie 1) (homeDie 0x50010)).catchUp 1 0x50010).lease k).2 < 2 ^ 47 := by
  have h : ((S.cross (S.coreDie 1) (homeDie 0x50010)).catchUp 1 0x50010).lease = [] := by decide +kernel
  intro k; rw [h]; show (0 : Nat) < 2 ^ 47; decide
theorem test_witness_AtomicValues_leases : ∀ k, (Tab.get (0, 0) S.lease k).2 < 2 ^ 47 := by intro k; show (0 : Nat) < 2 ^ 47; decide
theorem test_witness_GlobalAtomics : ∀ o ∈ [0, 1, 2, 3], (fm 3 o).s.toNat ≤ 3 ∧ (let s := Sat 0x503F8
    s.issue.on = true ∧ s.iblk.primary = true ∧ s.iblk.twin = none ∧ (rmwChecks s 0x80 (fm 3 o).x 0 0 3 o true).2.1 = [] ∧
    (let r := s.reach (State.rmwAccess 2) 4 0 0x503F8 0x503F8 0; isOk r.1 = true ∧ r.2.poisoned 0x503F8 4 = false) ∧ s.issue.actor = some 0) ∧
    (rmwChecks (Sat 0x60000) 0x80 (fm 3 o).x 0 0 3 o true).2.1 ≠ [] ∧ (rmwChecks (Sat 0x60000) 0x80 (fm 3 o).x 0 0 3 o false).2.1 ≠ [] := by
  decide +kernel
theorem test_witness_FencesAndCacheWords : S0.issue.actor = none ∧ S.issue.actor ≠ none ∧ S.issue.on = true ∧ 2 ≤ 2 ∧ 5 ≤ 5 ∧
    S.issue.eff = [0] ∧ isOk (S.translate S.issue.core S.ipart { Access.load with demand := false } 0).1 = false ∧
    (let s := { Scopy with cores := [(0, { lines := [(0, { st := .copy 0 0x50000 0x50000 .loc 0 7 [0] })] })] }
     ∃ x ∈ (s.core 0).lines, x.2.st = .copy s.ipart 0x50000 0x50000 .loc 0 7 [0]) := by decide +kernel
/-- A page of E3 blocks (FMT 2) at 0x50000: block 5023 is the last. -/
def Sblk : State := { one [] [0x5139F] with mem := tables.write 0x40028 (toBytes 8 0x504FF) }
theorem test_witness_GlobalLoadWords : (fm 4 0).s.toNat ≤ 4 ∧ S.issue.scout = false ∧ (Sat 0x503F0).issue.eff ≠ [] ∧
    (∀ o ∈ [1, 3], let s := Sat 0x503F0; let f := fm 4 o; let c := State.checkEach (State.laneCheck f) s.issue.eff s
      let u := if f.o = 3 then c.2.release (scopeOf f.x) else c.2
      c.1.all (fun x => match x.2 with
        | .ok y => decide (y.cls ≠ .loc)
        | .error _ => false) = true ∧
      (State.eachLane (State.afterCheck (State.laneLoad f) c.1) s.issue.eff u).1.all (fun x => match x.2 with
        | .ok _ _ loc => !loc
        | .bad _ => false) = true) ∧
    (let s := Sat 0x60000; let c := State.checkEach (State.laneCheck (fm 4 1)) s.issue.eff s; c.2.checkFaults c.1 ≠ []) ∧
    (Sat 0x503F8).issue.actor = some 0 ∧ (match (loadOne (fm 3 0) (Sat 0x503F8) 0).1 with
      | .ok _ _ _ => true
      | .bad _ => false) = true ∧ (match (loadOne (fm 3 0) (Sat 0x60000) 0).1 with
      | .ok _ _ _ => false
      | .bad _ => true) = true := by decide +kernel
theorem test_witness_GlobalLoadWords_block : let s := Sblk; let f : FmtLk := ⟨0, 0x80, 0, ⟨0, 0⟩⟩; let a := addr s f.g f.x f.e 0 0
    let r := s.reach { Access.load with fmt := [2, 3] } 1 0 a (baseOf s f.g 0).toNat 0
    s.issue.scout = false ∧ a % 65536 = 5023 ∧ 5023 < 5024 ∧ (match r.1 with
      | .ok t => decide (t.fmt = 2) && (let u := r.2; let page := a / 65536 * 65536
          let ws := u.loadWords (page + 12 * (a % 65536)) (t.pa - a % 65536 + 12 * (a % 65536)) t.cls t.fmt 3
          let q := ws.2.2.2.loadBytes s.issue.core s.ipart s.issue.blk s.issue.wv (page + 5024 * 12 + a % 65536) (t.pa - a % 65536 + 5024 * 12 + a % 65536) t.cls 1 t.fmt
          !ws.2.2.1 && !q.1.poison)
      | .error _ => false) = true := by decide +kernel

theorem test_witness_TransactionBarrierPhases : 0x3F0 % 16 = 0 ∧ S.spaceHas 0 0 0x3F0 = true ∧
    inRangeT { pending := 2 ^ 32 - 1, remain := 2 ^ 16 - 1, expect := 2 ^ 16 - 1, rsv := 2 ^ 60 - 1 } ∧
    (let t := S.tbar 0 0x40; t.remain = 0 ∧ ((BitVec.ofNat 32 t.pending).slt 1) = true) ∧
    (let t := (S.setTbar 0 0x40 { remain := 1, expect := 1 }).tbar 0 0x40; ¬(t.remain = 0)) := by unfold inRangeT; decide +kernel
/-- s0 names a barrier at 0x3F0, initialised with one arrival; or no barrier; or one in no pinned line; or a bad address. -/
def Sbar (a n : B64) (t : TBar) : State := (one [] [a, n]).setTbar 0 0x3F0 t
/-- s0 names that barrier, on which the wave waits in another of its fibres. -/
def Sbarw : State := (issuing (arch1 [[1, 2, 3, 4]] [0x3F0, 1]) [0] fun k => { k with waves := k.waves.map fun w => { w with
  waits := [⟨.bwait 0x3F0 false 1, [1], 0, none⟩] } }).setTbar 0 0x3F0 { remain := 1, expect := 1 }
theorem test_witness_TransactionBarriers : S0.issue.actor = none ∧
    (let s := Sbar 0x3F8 1 {}; s.issue.actor = some 0 ∧ (ns s 0x80).toNat % 16 ≠ 0) ∧
    (let s := Sbar 0x400 1 {}; (ns s 0x80).toNat % 16 = 0 ∧ s.spaceHas s.issue.blk 0 (ns s 0x80).toNat = false) ∧
    (let s := Sbar 0x3F0 0xFFFF {}; let u := s.release 1; let n := (ns s 0x81).toNat % 2 ^ 32
      s.spaceHas s.issue.blk 0 0x3F0 = true ∧ (s.tbar 0 0x3F0).expect = 0 ∧ u.barWaited 0 0x3F0 = false ∧ u.copyNames 0 0x3F0 = false ∧
      (s.tbar 0 0x3F0).pending = 0 ∧ 1 ≤ n ∧ n < 2 ^ 16) ∧
    (let s := Sbar 0x3F0 1 { remain := 1, expect := 1 }; let t := s.tbar 0 0x3F0; (ns s 0x80).toNat = 0x3F0 ∧ t.expect ≠ 0 ∧ t.rsv = 0 ∧
      t.phase = (ns s 0x80).getLsbD 0 ∧ t.inv = false ∧ t.phase ≠ (ns s 0x81).getLsbD 0 ∧
      s.issue.on = true ∧ s.blk? s.issue.blk = some s.iblk ∧ s.issue.wv < s.iblk.waves.length ∧ (s.release 1).spaceHas 0 0 0x3F0 = true) ∧
    (let s := Sbar 0x3F0 0 { remain := 1, expect := 1, inv := true }; (s.tbar 0 0x3F0).inv = true ∧ (s.tbar 0 0x3F0).expect ≠ 0) := by decide +kernel
/-- What BINIT and BARV refuse. -/
theorem test_witness_TransactionBarriers_refused :
    (let s := Sbar 0x3F0 0 { remain := 1, expect := 1 }; s.issue.actor = some 0 ∧ (ns s 0x81).toNat % 2 ^ 32 = 0) ∧
    (let s := Sbar 0x3F0 0x10000 { remain := 1, expect := 1 }; 2 ^ 16 ≤ (ns s 0x81).toNat % 2 ^ 32) ∧
    (Sbar 0x3F0 1 { pending := 1 }).issue.actor = some 0 ∧ ((Sbar 0x3F0 1 { pending := 1 }).tbar 0 0x3F0).pending ≠ 0 ∧
    (let s := Sbarw; (s.release 1).barWaited 0 0x3F0 = true) := by decide +kernel
/-- STS of 8 bytes at that barrier. -/
theorem test_witness_TransactionBarriers_stores : let s := Sbarw; let f := fms 3 0
    s.issue.on = true ∧ s.blk? s.issue.blk = some s.iblk ∧ s.issue.wv < s.iblk.waves.length ∧ s.issue.scout = false ∧
    s.shadowRoom s.issue.core s.issue.effLive.length s.issue.cur = true ∧ s.issue.effLive = [0] ∧ addr s f.g f.x f.e f.s.toNat 0 / 16 = 0x3F0 / 16 ∧
    spaceFault s 0 (addr s f.g f.x f.e f.s.toNat 0) (2 ^ f.s.toNat) false = none ∧
    ((s.wave? 0 0).map fun w => w.waits.map (·.kind)) = some [.bwait 0x3F0 false 1] := by decide +kernel
/-- Barrier 15 expects `n` arrivals, one of which is left. -/
def Snb (n : Nat) (p : Bool) : State := oneIn [] [] fun k => { k with nb := List.replicate 15 {} ++ [⟨n, 1, p⟩] }
theorem test_witness_NumberedBarriers : S0.issue.actor = none ∧ S.issue.actor = some 0 ∧ (S.iblk.nb.getD ((15 : Byte).toNat % 16) {}).expect = 0 ∧
    (let s := Snb 2 false; let x := s.iblk.nb.getD ((15 : Byte).toNat % 16) {}; x.expect ≠ 0 ∧ x.remain ≤ 1 ∧ s.issue.on = true ∧
      x.phase = s.issue.cur.wp.getLsbD 15) ∧
    (let s := Snb 2 true; let x := s.iblk.nb.getD 15 {}; x.phase ≠ s.issue.cur.wp.getLsbD 15) ∧
    (let s := oneIn [] [] fun k => { k with nb := [⟨2, 2, false⟩] }; 1 < (s.iblk.nb.getD 0 {}).remain) := by decide +kernel
/-- Ring 7 has two home slots of one sector and may take one of a pool of one slot; `st` and `q` are its slots and its queue. -/
def Srg (b : B64) (st : Tab SlotSt) (q : List Nat) : State := oneIn [] [7, b] fun k => { k with
  rings := List.replicate 7 {} ++ [{ base := 0, size := 1, slots := 2, lend := 1, st := st, queue := q }], pool := ⟨256, 1, 1⟩ }
/-- Nothing of the block waits on a ring. -/
def noneAhead (s : State) : Bool := !(s.release 1).racqAhead 0 7 none && !(s.release 1).rtakeAhead 0 7 none
theorem test_witness_RingWords :
    (∀ a ∈ [0x80, 0x81], let s := oneIn [] [8, 0] id; s.issue.actor = some 0 ∧
      (7 < (ns s a).toNat % 2 ^ 32 ∨ (s.ring s.issue.blk ((ns s a).toNat % 2 ^ 32)).slots = 0)) ∧
    (let s := Srg 0 [] []; s.issue.actor = some 0 ∧ (ns s 0x80).toNat % 2 ^ 32 ≤ 7 ∧ (s.ring 0 7).slots ≠ 0 ∧ noneAhead s ∧
      Tab.find (s.ring 0 7).st (s.ring 0 7).acq = none ∧ (s.ring 0 7).acq < 64 ∧ (s.release 1).headFull 0 7 = none) ∧
    (let s := Srg 0 [(0, .held)] [0]; noneAhead s ∧ Tab.find (s.ring 0 7).st (s.ring 0 7).acq ≠ none ∧ (s.ring 0 7).lent < (s.ring 0 7).lend ∧
      0 < s.iblk.pool.count ∧ (∀ q ∈ s.iblk.rings, Tab.find q.st (64 + 0) = none) ∧
      slotKey (s.ring 0 7) s.iblk.pool (ns s 0x81).toNat = some 0 ∧ Tab.find (s.ring 0 7).st 0 = some .held) ∧
    (let s := Srg 0 [(0, .held), (64, .held)] [0, 64]; (s.release 1).acqSlot 0 7 = none) ∧
    (let s := Srg 0 [(0, .full true)] [0]; noneAhead s ∧ (s.ring 0 7).queue = [0] ∧ Tab.find (s.ring 0 7).st 0 = some (.full true)) ∧
    (let s := Srg 0 [(0, .taken)] []; slotKey (s.ring 0 7) s.iblk.pool (ns s 0x81).toNat = some 0 ∧ Tab.find (s.ring 0 7).st 0 = some .taken) ∧
    (let s := Srg 1 [(0, .taken)] []; slotKey (s.ring 0 7) s.iblk.pool (ns s 0x81).toNat = none) := by decide +kernel
theorem test_witness_RingWords_publish : (⟨0, 0x010000⟩ : Ext).p.getLsbD 16 = true ∧ (⟨0, 0x01003F⟩ : Ext).p.getLsbD 16 = true ∧
    (0 : BitVec 24).getLsbD 16 = false ∧
    (let s := (Srg 0 [(0, .held)] [0]).setTbar 0 0x3F0 { remain := 1, expect := 1 }; s.spaceHas 0 0 0x3F0 = true ∧
      ((s.release 1).tbar 0 0x3F0).ready = true ∧ slotKey (s.ring 0 7) s.iblk.pool (ns s 0x81).toNat = some 0 ∧
      Tab.find (s.ring 0 7).st 0 = some .held) := by decide +kernel
/-- s0 holds the layout word, the role is `r`. -/
def Scp (r : Role) (p : B64) : State := oneIn [] [p] fun k => { k with waves := k.waves.map fun w => { w with role := r } }
/-- Whether every slot of a core's copy engine is taken. -/
def full (s : State) : State := { s with cores := [(0, { lines := (s.core 0).lines, copies := (List.range 64).map fun i => (i,
  { aCopy with seq := i, st := .queued, ext := 0x100000 }) })] }
theorem test_witness_CopyWords_starts : ∀ x ∈ copyStarts.map (·.2),
    (let s := Scp .vec 0; s.issue.actor = some 0 ∧ s.issue.cur.role ∉ x.2.1) ∧
    (let s := Scp .any (if x.1 = 3 then 0x200000 else 0); s.issue.cur.role ∈ x.2.1 ∧
      State.plwCheck x.1 (startPlws x.1 (scalarsAt s 0x80 x.2.2.1) (scalarsAt s 0x84 x.2.2.2)) = none ∧
      (⟨0, 0x100000⟩ : Ext).p.getLsbD 20 = true ∧ (⟨0, 0x3F⟩ : Ext).p.getLsbD 20 = false ∧
      s.spaceHas s.issue.blk 0 (16 * ((⟨0, 0x40⟩ : Ext).p.extractLsb' 0 16).toNat) = false ∧
      s.spaceHas s.issue.blk 0 (16 * ((⟨0, 0x3F⟩ : Ext).p.extractLsb' 0 16).toNat) = true ∧
      (s.release 1).startsBefore s.issue.core s.nextOrder = 0 ∧ (s.release 1).freeSlot s.issue.core = some 0 ∧
      ((full s).release 1).freeSlot s.issue.core = none) ∧
    (x.1 = 6 ∨ (let s := Scp .any 0xE0000000; (State.plwCheck x.1 (startPlws x.1 (scalarsAt s 0x80 x.2.2.1) (scalarsAt s 0x84 x.2.2.2))).isSome = true)) := by
  decide +kernel
/-- A copy in slot 0: its member number, scalars and what `f` changes. -/
def cp (fn : Nat) (a b : List B64) (f : Copy → Copy) : State :=
  { S with cores := [(0, { lines := (S.core 0).lines, copies := [(0, f { aCopy with fn := fn, a := a, b := b, ext := 0x100000 })] })] }
/-- The copy in slot 0. -/
def c0 (s : State) : Copy := (copyAt s 0 0).getD aCopy
/-- A wave with batches of class 0. -/
def Sbatch (b : BatchCls) : State := oneIn [] [] fun k => { k with waves := k.waves.map fun w => { w with batches := b :: List.replicate 3 {} } }
theorem test_witness_CopyWords_queries : S.issue.actor ≠ none ∧
    (let s := cp 0 [0] [] id; (c0 s).seq % 2 ^ 26 = (ns s 0x80).toNat / 64 % 2 ^ 26 ∧ (ns s 0x80).toNat % 64 = 0 ∧ (copyAt s 0 0).isSome = true) ∧
    (copyAt S S.issue.core ((ns S 0x80).toNat % 64)).isSome = false ∧
    (let s := Sbatch { opened := [1], sealed := List.replicate 62 [0] }; (Wave.batch s.issue.cur 0).sealed.length < 63 ∧
      (Wave.batch s.issue.cur 0).opened ≠ [] ∧ (Wave.batch s.issue.cur 0).sealed.head? ≠ some []) ∧
    63 ≤ (Wave.batch (Sbatch { sealed := List.replicate 63 [0] }).issue.cur 0).sealed.length ∧
    (∀ c ∈ (S.core S.iblk.core).copies, ¬(c.2.writesTo 0 = true)) ∧
    (let s := cp 0 [0] [] id; (c0 s).blk = s.issue.blk ∧ (c0 s).inFlight = true ∧ (c0 s).writesTo 0 = true) := by decide +kernel
/-- CPYL of one byte from byte 0 of space 0 to byte 0 of space 1, and the same with its descriptor read. -/
def cpl (f : Copy → Copy) : State := cp 7 [0, 0, 0, 0x0001000100010001] [0x100000, 0, 0] f
def desc1 (c : Copy) : Copy := { c with desc := some { box := [1, 1, 1, 1], ext := [1, 1, 1, 1] }, units := 1 }
/-- A fault that a copy has kept. -/
def flt1 : FaultInfo := { cls := .invalid }
/-- What `count` moves for a copy, and the faults and writes that come of it. -/
def moved (s : State) (k : Nat) : List (Nat × Except (List FaultInfo) UnitOut) :=
  let c := c0 s
  let step := fun x : Copy => match x.todo with
    | _ :: r => { x with todo := r }
    | [] => { x with unit := k + 1 }
  (State.runItems 0 (step c) k (Tab.get (List.range ((step c).unitItems k)) c.left k) (s.onCopy 0 0 step)).1
/-- CPYO of one element at an address in global memory. -/
def cpo (va esz : Nat) : State :=
  let s := cp 1 [0] [0, 0, 0] fun c => { c with desc := some { gbase := va, box := [1, 1, 1, 1], ext := [1, 1, 1, 1], esz := esz }, units := 1 }
  { s with mem := s.mem.write 0x40030 (toBytes 8 1) }
/-- The classes of the faults of what `count` moves. -/
def failed (s : State) : List FClass := (moved s 0).flatMap fun x => match x.2 with
  | .ok _ => []
  | .error fs => fs.map FaultInfo.cls
/-- One byte of a sector of space 1 waits, and no unit is left. -/
theorem test_witness_CopyEngineSteps_flush : (let s := cpl fun c => { desc1 c with unit := 1, carry := { sp := [(1, [(0, 5, false)])], n := 1 } }
      (c0 s).flushDue = true ∧ (c0 s).fn ≠ 0x18 ∧ (c0 s).fn ≠ 2) ∧ (c0 (cpl id)).flushDue = false ∧ (c0 (cpl id)).land = none := by decide +kernel
theorem test_witness_CopyEngineSteps : copyAt S 0 0 = none ∧ (c0 (cpl id)).wantsDesc = true ∧ (c0 (cpl id)).desc = none ∧
    (let s := cpl id; let c := c0 s; let v := s.onCopy 0 0 fun x => { x with st := .running, todo := [] }
      (match ((readDesc 0 c).run v).1 with
       | .ok d => ({ c with desc := some d } : Copy).layoutOk
       | .error _ => false) = true) ∧
    (c0 (cpl desc1)).wantsDesc = false ∧ (c0 (cpl desc1)).land = none ∧ (c0 (cpl desc1)).nextUnit = some 0 ∧ (c0 (cpl id)).nextUnit = none ∧
    (moved (cpl desc1) 0).any (fun x => match x.2 with
      | .ok w => !w.sp.isEmpty
      | .error _ => false) = true ∧ failed (cpl desc1) = [] ∧ failed (cpo 0x60000 0) = [.notPresent] ∧ failed (cpo 0x50001 2) = [.alignment] ∧
    (let l : Landing := { sp := [[(1, 0, 5, false)], [(1, 16, 5, false)]], n := 2 }; (c0 (cpl fun c => { desc1 c with land := some l })).dropped = false ∧
      l.sp.drop 1 ≠ []) ∧
    (let l : Landing := { sp := [[(1, 0, 5, false)]], n := 1 }; l.sp.length + l.gl.length ≤ 1 ∧ l.gl = []) ∧
    (c0 (cpl desc1)).over = false ∧
    (let s := cpl fun c => { desc1 c with unit := 1 }; (c0 s).over = true ∧ (∀ x ∈ (s.core 0).copies, x.1 < 64) ∧ (c0 s).flags = 0 ∧
      (s.wave? (c0 s).blk (c0 s).wave).isSome = true) ∧
    (c0 (cpl id)).fault = none ∧ (let s := cpl fun c => { desc1 c with fault := some flt1 }; (c0 s).inFlight = true ∧ (c0 s).fault ≠ none ∧ s.colls = []) ∧
    (c0 (cpl id)).isOwed = false ∧ (c0 (cpl fun c => { desc1 c with unit := 1, owed := [(0, 0, flt1)] })).isOwed = true ∧
    (c0 (cpl id)).wantsRecord = false := by decide +kernel
/-- A CPYCH whose record at 0x50000 is not owned, or is owned; and one whose record is under way. -/
def cpc (own : Nat) (f : Copy → Copy) : State := let s := cp 6 [0x50000] [] fun c => f { c with chain := some 0x50000 }
  { s with mem := s.mem.write 0x50000 (toBytes 8 own) }
theorem test_witness_CopyEngineSteps_chain : (c0 (cpc 0 id)).wantsRecord = true ∧ (c0 (cpc 0 id)).xrec = none ∧
    (let s := cpc 0 id; match ((State.readRecord 0 (c0 s) 0x50000).run (s.onCopy 0 0 fun x => { x with st := .running })).1 with
      | .ok x => x.isNone
      | .error _ => false) = true ∧
    (let s := cpc 0 fun c => { c with xrec := some ⟨0x50000, 0, 0, 0, 16, 0, 0⟩ }; (c0 s).wantsRecord = true ∧ (c0 s).xrec ≠ none) := by decide +kernel
/-- A sequencer in a state. -/
def Ssq (f : Seqr → Seqr) : State := oneIn [] [] fun k => { k with seqr := f k.seqr, nb := [{}, ⟨1, 1, false⟩, ⟨1, 1, true⟩] }
/-- An array operation under way on tile 1. -/
def busy : ArrOp := ⟨0x0142000000000000, 0, 0, 0, 0⟩
/-- MMA of one row, eight columns and one K block; EPI of one row and eight columns; MCLR. -/
def mm1 : MmFields := ⟨0, 0, 0, 1, 1, 1, 0, 0, 0, 0, 0⟩
def ep1 : EpiFields := { tile := 0, oreg := 0, preg := 0, act := 0, ofmt := 0, clr := 0, mul := 0, bias := 0, m := 1, n8 := 1, sigen := 0, nb := 0 }
def mc1 : MclrFields := { tile := 0, q := 0, sigen := 0, nb := 0 }
theorem test_witness_MatrixWords : S.issue.actor = some 0 ∧ (Ssq fun q => { q with use := false }).iblk.seqr.use = false ∧
    (Ssq id).iblk.seqr.use = true ∧ (Ssq id).iblk.seqr.st = .idle ∧ (Ssq fun q => { q with st := .running }).iblk.seqr.st ≠ .idle ∧
    (Ssq id).blk? (Ssq id).sq = some (Ssq id).iblk ∧ (1 : Bit) ≠ 0 ∧
    ((Ssq id).iblk.nb.getD (0 : BitVec 4).toNat {}).expect = 0 ∧ ((Ssq id).iblk.seqr.mma = none ∧ (Ssq id).iblk.seqr.epi = none) ∧
    (∀ k ∈ [1, 2], ((Ssq id).iblk.nb.getD k {}).expect ≠ 0) ∧ ((Ssq id).iblk.nb.getD 2 {}).phase ≠ (Ssq id).iblk.seqr.sp.getLsbD 2 ∧
    ((Ssq id).iblk.nb.getD 1 {}).phase = (Ssq id).iblk.seqr.sp.getLsbD 1 ∧ (Ssq id).allEnded (Ssq id).sq = false ∧
    ¬((Ssq fun q => { q with mma := some busy }).iblk.seqr.mma = none) := by decide +kernel
theorem test_witness_MatrixWords_begin :
    (let s := Ssq id; s.mmFree s.sq mm1.tile.toNat (mm1.aRanges 0 0) = true ∧ s.mmFault s.sq mm1 0 0 ≠ none ∧ s.mmFree s.sq mc1.tile.toNat [] = true ∧
      mc1.sigen = 0 ∧ s.epiFree s.sq ep1.tile.toNat (ep1.outRanges 0) = true ∧ s.epiFault s.sq ep1 0x300000 0 ≠ none ∧ s.epiFault s.sq ep1 0 0 = none) ∧
    (let s := (oneIn [] [] id).pinLines 0 2 1 1; s.mmFault s.sq mm1 0 0x8000000000 = none ∧ mm1.m ≠ 0 ∧ mm1.n8 ≠ 0) ∧
    (let s := Ssq fun q => { q with mma := some busy, epi := some busy }
     s.mmFree s.sq mm1.tile.toNat [] = false ∧ s.mmFree s.sq mc1.tile.toNat [] = false ∧ s.epiFree s.sq ep1.tile.toNat [] = false) := by decide +kernel
/-- An MMA, and an EPI, that have begun. -/
def Smm : State := Ssq fun q => { q with mma := some ⟨(Instr.mma mm1).streamWord, 0, 0x8000000000, 0, 0⟩ }
def Sep : State := Ssq fun q => { q with epi := some ⟨(Instr.epi { ep1 with clr := 1 }).streamWord, 0, 0, 0, 0⟩ }
/-- A state whose pinned lines have a poisoned first sector. -/
def badLines (s : State) : State := { s with cores := s.cores.map fun c => (c.1, { c.2 with lines := c.2.lines.map fun l => (l.1, { l.2 with poison := [0] }) }) }
/-- What is under way on tile 0: an MCLR; an MMA and an EPI that touch nothing; an MMA and an EPI that read poison. -/
theorem test_witness_MatrixProducts_others :
    (let o : ArrOp := ⟨(Instr.mclr mc1).streamWord, 0, 0, 0, 0⟩; (Ssq fun q => { q with mma := some o }).iblk.seqr.mma = some o ∧ o.mm? = none) ∧
    (let o : ArrOp := ⟨(Instr.mma { mm1 with m := 0 }).streamWord, 0, 0, 0, 0⟩; o.mm? = some { mm1 with m := 0 }) ∧
    (let o : ArrOp := ⟨(Instr.epi { ep1 with n8 := 0 }).streamWord, 0, 0, 0, 0⟩; o.epi? = some { ep1 with n8 := 0 } ∧ (Ssq id).iblk.seqr.land = none) ∧
    (let s := badLines Smm; s.iblk.twin = none ∧ State.seqClosed s.iblk = false ∧ (match s.iblk.seqr.mma with
      | some o => (s.poisonIn 0 o.reads).isSome
      | none => false) = true) ∧
    (let f := { ep1 with mul := 1 }; let o : ArrOp := ⟨(Instr.epi f).streamWord, 0, 0, 0, 0⟩; let s := badLines (Ssq fun q => { q with epi := some o })
      o.epi? = some f ∧ s.iblk.seqr.land = none ∧ (s.poisonIn 0 (f.parRanges o.db)).isSome = true) := by decide +kernel
theorem test_witness_MatrixProducts : Tab.wf 0 ([] : Tab B64) = true ∧ 15 < 16 ∧ 383 < 384 ∧ (S.seq 0).mma = none ∧ (S.seq 0).epi = none ∧
    (match Smm.iblk.seqr.mma with
      | some o => decide (o.mm? = some mm1) && (Smm.poisonIn 0 o.reads).isNone && decide (o.tile < Smm.iblk.tiles.length)
      | none => false) = true ∧ mm1.m ≠ 0 ∧ mm1.n8 ≠ 0 ∧
    (match Sep.iblk.seqr.epi with
      | some o => decide (o.epi? = some { ep1 with clr := 1 }) && (Sep.poisonIn 0 (ep1.parRanges o.db)).isNone && decide (o.tile < Sep.iblk.tiles.length) &&
          (ep1.outRanges o.da).all fun r => (List.range r.2.2).all fun i => Sep.spaceHas 0 r.1 (r.2.1 + i)
      | none => false) = true := by decide +kernel

/-- Gate 4095 as given; s0 names it, s1 is `n`. -/
def Sg (g : Gate) (n : B64) : State := { one [] [4095, n] with gates := [(4095, g)] }
theorem test_witness_GateMembers : S.issue.actor = some 0 ∧ S.iblk.primary = true ∧ S.ipart < 64 ∧ (S.issue.on = true ∧ S.iblk.primary = true ∧ S.iblk.twin = none) ∧
    ¬((ns (one [] [4096]) 0x80).toNat < 4096) ∧ ¬((Sg { st := 0, sig := 1, wmask := 1 } 0).gate 4095).st ≠ 0 ∧
    ((Sg { st := 1, sig := 2, wmask := 2 } 0).gate 4095).sig.getLsbD S.ipart = false ∧
    (let s := Sg { st := 2, sig := 1, wmask := 1 } 0; (ns s 0x80).toNat = 4095 ∧ 4095 < 4096 ∧ (s.gate 4095).st = 2 ∧ (s.gate 4095).sig.getLsbD s.ipart = true ∧
      (s.gate 4095).wmask.getLsbD s.ipart = true ∧ ((s.gate 4095).sig ||| (s.gate 4095).wmask).getLsbD s.ipart = true ∧ (s.gate 4095).ts < 2 ^ 64) ∧
    (let y := (Sg { st := 1, sig := 1, wmask := 1, depth := 5 } 0).gate 4095; y.st ≠ 2 ∧ y.depth ≠ 0 ∧ y.tokens = 0) ∧
    (let y := (Sg { st := 1, sig := 1, wmask := 1, depth := 5, tokens := 1 } 0).gate 4095; y.st ≠ 2 ∧ y.tokens ≠ 0) ∧
    (let s := Sg { st := 1, wmask := 1, count := 3 } 3; (ns s 0x81).toNat ≤ (s.gate 4095).count.toNat ∧ (s.gate 4095).st ≠ 2) ∧
    (let s := Sg { st := 1, wmask := 1, count := 3 } 4; (s.gate 4095).count.toNat < (ns s 0x81).toNat) := by decide +kernel
/-- A migration of gate 0 to or from a record at 0x50000. -/
def Smig (op : Nat) (st : Nat) (d : List Byte) : State :=
  { S with
    gmig := some ⟨op, 0, 0x50000⟩, mem := S.mem.write 0x50000 d
    gates := [(0, { st := st, wroteCtl := true, wroteSig := true, wroteWait := true })] }
theorem test_witness_GateTable : S0.hostOpen = true ∧ State.reset.hostOpen = false ∧ 4095 < 4096 ∧ (S.gate 4095).st = 0 ∧ (S.blk? 0).isSome = true ∧
    S.gmig = none ∧ ((Smig 1 1 []).gmig = some ⟨1, 0, 0x50000⟩ ∧ ((Smig 1 1 []).gate 0).st = 1 ∧ ((Smig 1 0 []).gate 0).st ≠ 1) ∧
    ((Smig 2 0 []).gmig = some ⟨2, 0, 0x50000⟩ ∧ ((Smig 2 0 []).gate 0).st = 0 ∧
      ((Smig 2 0 []).gate 0).wroteCtl = true ∧ ((Smig 2 0 []).gate 0).wroteSig = true ∧ ((Smig 2 0 []).gate 0).wroteWait = true ∧ ((Smig 2 1 []).gate 0).st ≠ 0) ∧
    migOk ((Smig 2 0 []).mem.read 0x50000 64) = false ∧ migOk ((Smig 2 0 (migRecord 0 { st := 1, count := 5 } 0)).mem.read 0x50000 64) = true ∧
    (let x : Gate := { ts := 2 ^ 47 - 1, waiters := 2 ^ 16 - 1, tokens := 7 }; x.ts < 2 ^ 47 ∧ x.waiters < 2 ^ 16 ∧ x.tokens.toNat ≤ ({ depth := 7 } : Gate).depth) := by
  decide +kernel
/-- A launch record: one point, for this stepping, its event at `ev`, with priority `pr` and the energy code `en`. -/
def record (ev : B64) (en pr : B64) (stamp : B64) : List B64 :=
  [0, 0, 0, ev, 0x100000001, 1, stamp, 0, en <<< 48 ||| pr <<< 51] ++ List.replicate 7 0
/-- The record in the mapped page, s0 its address; `n` children in the pool. -/
def Sla (n : Nat) (ws : List B64) : State := let s := one [] [0x50000]
  { s with
    mem := s.mem.write 0x50000 (ws.flatMap fun w => toBytes 8 w.toNat)
    parts := [(0, { tableRoot := 0x10001, launches := (List.range n).map fun i => (i + 1, { queue := 0, lr := {}, pooled := true }) })] }
theorem test_witness_LaunchAndEventMembers : S.issue.actor = some 0 ∧ S.issue.cur.verdict = none ∧
    (let s := Sla 0 (record 0 0 0 0x07402000); (match ((s.release 4).tryLaunch s.issue.blk (ns s 0x80).toNat 0 false).1 with
      | .entered id => id
      | _ => 0) = 1) ∧
    (let s := Sla 0 (record 0 0 0 0); ((s.release 4).tryLaunch s.issue.blk (ns s 0x80).toNat 0 false).1 = .refused) ∧
    (let s := Sla 4096 (record 0 0 0 0x07402000); ((s.release 4).tryLaunch s.issue.blk (ns s 0x80).toNat 0 false).1 = .full) ∧
    S.isChild S.ipart 0 = false ∧ (Sla 1 []).isChild 0 1 = true ∧ (Sla 1 []).poolFull 0 = false ∧
    (let s := one [] [0x50010]; isOk (s.reach State.signalAccess 16 0 0x50010 0x50010 0).1 = true ∧
      (let r := s.reach State.eventAccess 16 0 0x50010 0x50010 0; isOk r.1 = true ∧ r.2.mem.readNat 0x50010 8 < 1 ∧ 0 ≤ r.2.mem.readNat 0x50010 8)) ∧
    isOk (S.reach State.signalAccess 16 0 0x60000 0x60000 0).1 = false := by decide +kernel
/-- Window 0 goes to port 11, 64 KiB long. -/
def Swin (off : B64) : State := { one [] [off] with parts := [(0, { rwin := [(1, 0x2D)] })] }
theorem test_witness_CollectiveAndRemoteMembers : S.issue.actor = some 0 ∧ S.issue.cur.hold = none ∧ (0x3F : BitVec 24).getLsbD 16 = false ∧
    S.spaceHas S.issue.blk 0 (16 * 0x40) = false ∧ (0x10000 : BitVec 24).getLsbD 16 = true ∧ (S.release 4).startsBefore 0 S.nextOrder = 0 ∧
    (S.release 4).freeSlot 0 = some 0 ∧ ((full S).release 4).freeSlot 0 = none ∧
    (let s := Swin 0xFFF8; let ctl : B64 := Tab.get 0 (s.part s.ipart).rwin 1; (ctl.getLsbD 0 = true ∧ (ctl.extractLsb' 2 4).toNat ≤ 11) ∧
      (ns s 0x80).toNat < 2 ^ max 16 (ctl.extractLsb' 32 6).toNat ∧ (ns s 0x80).toNat % 2 ^ 3 = 0 ∧ s.iblk.det = false ∧
      (s.issue.on = true ∧ s.iblk.primary = true ∧ s.iblk.twin = none) ∧ (s.release 4).startsBefore 0 s.nextOrder = 0 ∧ (s.release 4).freeSlot 0 = some 0 ∧ s.isDown 11 = false ∧ ({ s with links := [(portLink 11, { st := 2 })] } : State).isDown 11 = true) ∧
    ¬((Tab.get 0 (S.part S.ipart).rwin 1 : B64).getLsbD 0 = true) ∧ 2 ^ 16 ≤ (ns (Swin 0x10000) 0x80).toNat ∧ (ns (Swin 0xFFF9) 0x80).toNat % 2 ^ 3 ≠ 0 ∧
    (oneIn [] [] fun k => { k with det := true }).iblk.det = true ∧ (0x1000 : BitVec 24).getLsbD 12 = true := by decide +kernel
/-- The queue of the record waits for an event. -/
def Sev : State := { S with parts := [(0, { queues := [(0, { wait := some (.event 0x50000 false 0) })] })] }
theorem test_witness_CommandRecords : (Sev.queue 0 0).wait = some (.event 0x50000 false 0) ∧ (0 : B64).toNat ≤ Sev.mem.readNat 0x50000 8 ∧
    ((S.queue 0 0).frames = [] ∧ (S.queue 0 0).loop = none) ∧
    (let f : CmdFrame := { va := 0, len := 24, pos := 0 }; f.pos + 16 < f.len ∧ f.len ≤ f.pos + 24) ∧
    (let y : CmdLoop := { frames := [], head := 0, depth := 0, left := 2, k := 2, passes := 2 }; ({ loop := some y } : Queue).loop = some y ∧
      y.depth ≤ ([] : List CmdFrame).length ∧ 1 < y.left ∧ 1 < y.passes ∧ ([] : List CmdFrame).length < ({ y with depth := 1 } : CmdLoop).depth) := by decide +kernel
theorem test_witness_LaunchCommands : let s := Sla 0 []
    (let d := (((record 0 7 0 0x07402000).take 16).flatMap fun w : B64 => toBytes 8 w.toNat); let r := LaunchRec.of d
      LaunchRec.bytesOk d = true ∧ r.ndep = 0 ∧ r.res = 0 ∧ r.hasFlex = false ∧ r.event = 0 ∧ r.stamp.toNat = Config.devid ∧
      r.prio ≤ (s.queue 0 0).prio ∧ ∃ c ∈ s.coresOf 0, r.weight ≤ bits (s.core c).budget.toNat 0 8) ∧
    LaunchRec.bytesOk (((List.replicate 16 0).take 16).flatMap fun w : B64 => toBytes 8 w.toNat) = false ∧
    ({ stamp := 0 } : LaunchRec).stamp.toNat ≠ Config.devid ∧ (s.queue 0 0).prio < ({ prio := 1, stamp := 0x07402000 } : LaunchRec).prio ∧ s.coresOf 0 ≠ [] ∧
    (let s := { s with cores := [(0, { budget := 15 })] }; s.coresOf 0 ≠ [] ∧ ∀ c ∈ s.coresOf 0, bits (s.core c).budget.toNat 0 8 < ({ energy := 7 } : LaunchRec).weight) := by
  decide +kernel
/-- A frontier record of one point at 0x50000: STATE 0, NCOL 1, no image; and `n` frontier launches that are active. -/
def Sfront (n : Nat) : State :=
  { one [] [] with
    mem := tables.write 0x50000 ([1, 1, 1, 0, 0, 0, 1].flatMap (toBytes 4))
    parts := [(0, { tableRoot := 0x10001, launches := (List.range n).map fun i => (i + 1, { queue := 0, lr := {}, frontier := some { va := 0 } }) })] }
theorem test_witness_LaunchCommands_frontier : ∀ n ∈ [15, 16], let s := Sfront n
    let d := ((record 0 0 0 0x07402000).take 16).flatMap fun w : B64 => toBytes 8 w.toNat
    let r := LaunchRec.of d
    (s.queue 0 0).wait = none ∧ LaunchRec.bytesOk d = true ∧ r.frontierOk = true ∧ r.res = 0 ∧ r.hasFlex = false ∧ r.event = 0 ∧
    r.stamp.toNat = Config.devid ∧ r.prio ≤ (s.queue 0 0).prio ∧ (∃ c ∈ s.coresOf 0, r.weight ≤ bits (s.core c).budget.toNat 0 8) ∧
    ((record 0 0 0 0x07402000 ++ [0x50000]).getD 16 0).toNat = 0x50000 ∧
    (match (s.hubSync 0).hubRead 0 0x50000 64 with
      | (.ok h, u) => State.headOk r (fieldAt d 72 6) h && fieldAt h 13 1 == 0 && fieldAt h 28 4 == 0 && (match u.hubRead 0 0x50040 (4 * r.ncol) with
        | (.ok m, _) => ((List.range r.ncol).map fun c => fieldAt m (4 * c) 4).all fun w => bits w 24 8 == 0 && bits w 0 24 ≤ r.sweepExt
        | _ => false)
      | _ => false) = true ∧
    (decide (16 ≤ ((s.part 0).launches.filter fun l => l.2.frontier.isSome).length)) = (n == 16) := by decide +kernel
/-- The queue's FLAUNCH waits for room. -/
theorem test_witness_LaunchCommands_room : let w := QWait.frontierRoom {} none 0x50000 ⟨[], [], []⟩
    (ownQueue { S with parts := [(0, { queues := [(0, { wait := some w })] })] }).wait = some w := by decide +kernel
/-- No issue is under way. -/
def Sidle (f : Block → Block) : State := booted (arch1 [[]] []) f
/-- Wave 0 sleeps on batch 65535. -/
def Sasleep : State := { Sidle fun k => { k with waves := k.waves.map fun w => { w with mode := .asleep 65535 } } with
  parts := [(0, { batches := [(65535, ⟨[], [.wave 0 0]⟩)] })] }
theorem test_witness_RegisterWrites : S.hostOpen = true ∧ State.reset.hostOpen = false ∧ Tab.find (S.part 0).batches 65535 = none ∧
    (let s := Sasleep; s.hostOpen = true ∧ s.issue.on = false ∧ Tab.find (s.part 0).batches ((0x1FFFF : B64).toNat % 2 ^ 16) = some ⟨[], [.wave 0 0]⟩ ∧
      (s.blk? 0).isSome = true ∧ (match s.wave? 0 0 with
        | some w => decide (w.mode = .asleep ((0x1FFFF : B64).toNat % 2 ^ 16)) && decide (w.gear = .fast)
        | none => false) = true) ∧
    (S.part 0).mbox.getLsbD 0 = false ∧ ({ mbox := 1 } : Part).mbox.getLsbD 0 = true ∧ 36 ≤ 36 ∧ 35 < 36 ∧ S.blocksOn 35 = [] ∧ (0 : B64).getLsbD 0 = false ∧
    (let s := Sidle id; (1 : B64).getLsbD 0 = true ∧ s.blocks = [(0, s.blk 0)] ∧ (s.blk 0).part = 0 ∧ (s.blk 0).handler = false ∧
      (s.blk 0).launch.toNat = (1 : B64).toNat / 2 ^ 32 ∧ (s.blk 0).primary = true ∧ (s.blk 0).killed = false ∧ (s.blk 0).pre = none ∧ (s.blk 0).ask = none ∧ s.hostOpen = true) ∧
    ((2 ≠ 4 ∧ 2 ≠ 8) ∨ 0 % 2 ≠ 0 ∨ 64 ≤ 0) ∧ (0 < 63 ∧ 63 < 64) := by decide +kernel
theorem test_witness_RegisterWrites_full : ∀ n, 0 < n → (Sidle id).freeChunks 0 n = none := by
  intro n hn
  have h : 0 + 1 - n = 0 := by omega
  show List.find? _ (List.range (0 + 1 - n)) = none
  rw [h]
  rfl
theorem test_witness_RegisterWrites_requests : Claims.isHostRequest (.doorbell 0) ∧ Claims.isHostRequest (.cxlMemRead 0 0) :=
  ⟨.inr (.inr (.inr (.inr (.inr (.inl ⟨0, rfl⟩))))), by unfold Claims.isHostRequest; simp⟩
/-- Launch 1 of one point, which is to be dealt on an empty core. -/
def Sdeal (f : LaunchRec → LaunchRec) : State := { Sidle id with
  blocks := [], cores := []
  parts := [(0, { tableRoot := 0x10001, launches := [(1, { queue := 0, lr := f {} })] })] }
/-- Waves of a block of a lower priority that stand released from a BAR, and a launch that needs some of their registers. -/
def Sroom : State := { Sidle fun k => { k with
    w := 128, eff := 0, launch := 2, waves := (List.range 24).map fun i => { slot := i, slice := i % 4, atPhase := true, arch := arch1 [[]] [] } } with
  parts := [(0, { tableRoot := 0x10001, savePool := 0x600020, launches := [(1, { queue := 0, lr := { w := 128, waves := 16 }, prio := 3, eff := 3 })] })] }
theorem test_witness_GangsAreDealt : S.dealNext 0 ≠ some 1 ∧ (∀ f ∈ [id, fun r => { r with lines := (896, 0, 0), waves := 16, w := 128 }],
      let s := Sdeal f; s.dealNext 0 = some 1 ∧
      (match Tab.find (s.part 0).launches 1 with
       | some l => decide (s.nextGang 0 1 l = some (0, 0, 1)) && decide (l.lr.plevel ≠ 2) && decide (l.lr.w ≠ 0) && decide (l.frontier = none) &&
          decide (l.nextGang < l.lr.gangs) && decide (s.placeFor 0 1 (State.need l.lr) false (s.tryOrder l.lastCluster) = some (0, [0], [])) && s.admits 0 (State.need l.lr)
       | none => false) = true) ∧
    (let s := Sdeal fun r => { r with lines := (897, 0, 0) }; s.dealNext 0 = some 1 ∧
      (match Tab.find (s.part 0).launches 1 with
       | some l => decide (s.nextGang 0 1 l = some (0, 0, 1)) && (s.placeFor 0 1 (State.need l.lr) (l.lr.plevel == 2) (s.tryOrder l.lastCluster)).isNone &&
          (s.roomFor 0 1 l.eff (State.need l.lr) (l.lr.plevel == 2) (s.tryOrder l.lastCluster)).isNone
       | none => false) = true) ∧
    (let s := Sroom; s.dealNext 0 = some 1 ∧
      (match Tab.find (s.part 0).launches 1 with
       | some l => decide (s.nextGang 0 1 l = some (0, 0, 1)) && (s.placeFor 0 1 (State.need l.lr) false (s.tryOrder l.lastCluster)).isNone &&
          decide (s.roomFor 0 1 l.eff (State.need l.lr) false (s.tryOrder l.lastCluster) = some (0, [0], []))
       | none => false) = true) := by decide +kernel
/-- The block of launch 1 whose wave has ended; the launch has placed its gang. -/
def Send : State := { Sidle fun k => { k with launch := 1, waves := k.waves.map fun w => { w with mode := .ended } } with
  parts := [(0, { launches := [(1, { queue := 0, lr := {}, nextGang := 1, placed := true })] })] }
/-- Two FLEX waves, the second with role LOAD; both counts have reached their windows. -/
def Sflex : State := Sidle fun k => { k with
  watch := some (0, 1, 2, 5), low := 5, high := 5
  waves := k.waves.flatMap fun w => [{ w with flex := true, role := .vec }, { w with flex := true, role := .load }] }
/-- Cluster 0 is shared, its slice is over, and partition 0 has work. -/
def Sslice : State := { Sdeal id with clusters := [(0, { cla := 0x580, clm := 1 })] }
theorem test_witness_EndsAndTurns : S.blockOver 0 S.iblk = false ∧
    (let s := Send; s.blockOver 0 (s.blk 0) = true ∧ (s.blk? 0).isSome = true ∧ (s.blk 0).frontier = false ∧ (∀ x ∈ s.blocks, x.2.ask = none) ∧
      (Tab.find (s.part 0).launches 1).isSome = true) ∧
    (let s := { Send with blocks := [] }; match Tab.find (s.part 0).launches 1 with
      | some l => s.launchOver 0 1 l && l.frontier.isNone && !(Send.launchOver 0 1 l)
      | none => false) = true ∧
    State.flexDue S.iblk true = false ∧ Sflex.issue.on = false ∧ State.flexDue (Sflex.blk 0) true = true ∧ State.flexDue (Sflex.blk 0) false = true ∧
    S.starved 0 = false ∧ (let s := { S with nclk := 1398102, parts := [(0, { fullSince := some 0 })] }; s.starved 0 = true ∧ s.poolQueue 0 = []) ∧
    S.poolFull 0 = false ∧ S.poolQueue 0 = [] ∧
    (let q := [(7, Waiter.away 0 1 true), (3, Waiter.away 0 2 true)]; State.oldest q = some (.away 0 2 true)) ∧
    S.sliceOver 0 = false ∧ (let s := Sslice; s.sliceOver 0 = true ∧ s.nextSlice 0 (s.cluster 0).cur = some 0 ∧ s.strangers 0 0 = []) := by decide +kernel

/-- A wave of block 0 that waits: what for, in which order, and whether it has been woken. -/
def Sw (x : WaitKind) (v : Option Bool) (f : Block → Block) : State := Sidle fun k => f { k with waves := k.waves.map fun w => { w with waits := [⟨x, [0], 0, v⟩] } }
/-- The wait of that wave. -/
def wx (x : WaitKind) (v : Option Bool) : Waiting := ⟨x, [0], 0, v⟩
theorem test_witness_WaitsReturn : ((Sidle id).openWaits 0 0).find? bwaitOver = none ∧
    (∀ v ∈ [true, false], let s := Sw (.bwait 0x40 true 1) (some v) id; (s.openWaits 0 0).find? bwaitOver = some (wx (.bwait 0x40 true 1) (some v))) ∧
    (let s := Sw (.nbwait 15) none fun k => { k with nb := List.replicate 15 {} ++ [⟨1, 1, true⟩] };
      (s.openWaits 0 0).find? (nbwaitOver s 0 0) = some (wx (.nbwait 15) none) ∧ (s.wave? 0 0).isSome = true) ∧
    (let s := Sw (.rtake 7 63) none fun k => { k with rings := List.replicate 7 {} ++ [{ slots := 2, size := 1, st := [(0, .full true)], queue := [0] }] };
      (s.openWaits 0 0).find? (rtakeOver s 0) = some (wx (.rtake 7 63) none) ∧ s.headFull 0 7 = some (0, true) ∧ 7 < (s.blk 0).rings.length ∧ (s.blk? 0).isSome = true) ∧
    (let s := Sw (.racq 7 63) none fun k => { k with rings := List.replicate 7 {} ++ [{ slots := 2, size := 1 }] };
      (s.openWaits 0 0).find? (racqOver s 0) = some (wx (.racq 7 63) none) ∧ s.acqSlot 0 7 = some 0) ∧
    (let s := Sw (.waitb 0 1) none id; s.waitbOver 0 0 = some (wx (.waitb 0 1) none)) ∧ (Sidle id).waitbOver 0 0 = none ∧ NoTwin (Sidle id) 0 ∧
    (∀ v ∈ [true, false], let s := Sw (.gwait 9 5 1) (some v) id; (s.openWaits 0 0).find? (gwaitOver s) = some (wx (.gwait 9 5 1) (some v))) ∧
    (let s := Sw (.gqueued 9 1) (some false) id; (s.openWaits 0 0).find? (gwaitOver s) = some (wx (.gqueued 9 1) (some false))) ∧
    (let s := Sw (.evwait 0x50000 0x50000 false 0 1) none id; (s.openWaits 0 0).find? (evwaitOver s) = some (wx (.evwait 0x50000 0x50000 false 0 1) none)) ∧
    (let s := Sw (.waitch 1 2) (some true) id; (s.openWaits 0 0).find? waitchOver = some (wx (.waitch 1 2) (some true))) := by
  unfold NoTwin; decide +kernel
/-- The block is to be saved: its waves' mode, and what is pending. -/
def Sp (m : WaveMode) (p : Preempt) : State := Sidle fun k => { k with w := 8, launch := 1, pre := some p, waves := k.waves.map fun w => { w with mode := m } }
/-- One image of launch 1 in the save pool, and no block. -/
def Simg : State := { Sidle id with
  blocks := [], nextBlk := 5, parts := [(0, { savePool := 0x600010, launches := [(1, { queue := 0, lr := {} })], saved := [{ blk := 0, launch := 1, gang := 0, rank := 0, lin := 0, addr := 0x600000, why := .launch }] })] }
theorem test_witness_SavesAndRestores : (Sidle id).iblk.pre = none ∧
    (let s := Sp .run { why := .launch }; s.nclk = 0 ∧ (match (s.blk 0).pre with
      | some p => decide (p.deadline ≤ s.nclk)
      | none => false) = true ∧ (s.part 0).stopped = false ∧ (∀ w ∈ (s.blk 0).waves, w.mode ≠ .stopped .handler) ∧ 0 < (s.blk 0).waves.length ∧
      (match s.wave? 0 0 with
      | some w => w.isLoose && decide (w.mode = .run) && !s.stopHeld 0
      | none => false) = true ∧ s.allStopped 0 = false) ∧
    (let s := Sp (.stopped (.preempt 0)) { why := .launch }; s.allStopped 0 = true ∧ (s.blk 0).twin = none ∧ (s.blk 0).pre = some { why := .launch } ∧
      s.copiesRun 0 = false ∧ AskWhy.launch ≠ .savec ∧ AskWhy.launch ≠ .rebase ∧ (s.part 0).launches = []) ∧
    (let s := { Sp (.stopped (.preempt 0)) { why := .launch, closed := true } with cores := (cp 0 [] [] id).cores }; s.allStopped 0 = true ∧ s.copiesRun 0 = true) ∧
    (S.part 0).saved[0]? = none ∧
    (let s := Simg; match (s.part 0).saved[0]?, Tab.find (s.part 0).launches 1 with
      | some x, some l => (match s.seating 0 x l with
        | some t => decide (t.one = [(x, [], 0)]) && decide (t.two = []) && decide (fieldAt [] 22 2 = 0)
        | none => false) && (({ s with cores := [(0, { budget := 0 })] }).seating 0 x l).isNone
      | _, _ => false) = true ∧ (∀ x ∈ Simg.blocks, x.2.ask = none) ∧
    (let w : Wave := { mode := .stopped (.preempt 3) }; w.isEnded = false ∧ stopKind w < 4 ∧ (w.arch.fibre 31).pc.sl < 4 ∧ (w.arch.fibre 31).wb < 2 ^ 16) ∧
    (S.nextDesched 0).isNone = true ∧
    (let s := Sp (.stopped .handler) { why := .launch }; s.stopHeld 0 = true) ∧
    (∀ y ∈ [none, some .halt], let s := Sidle fun k => { k with waves := k.waves.map fun w => { w with mode := .desched 3, stopAs := y } }
      (match s.nextDesched (s.blk 0).core with
      | some (b, i, n, _, _) => decide (b = 0 ∧ i = 0 ∧ n = 3) && (s.wave? 0 0).isSome && s.blocks.all fun x => x.2.ask.isNone
      | none => false) = true) := by decide +kernel
/-- A wave as `f` makes it, of a block as `g` makes it. -/
def Sv (f : Wave → Wave) (g : Block → Block) : State := Sidle fun k => g { k with waves := k.waves.map f }
/-- A wave that has the code at 0x50000 where it stands: four NOPs. -/
def Sgo (f : Wave → Wave) : State := Sv f fun k => { k with codeBase := 0x50000 }
/-- Whether a wave stands alone as `LoneWave` asks, and has a property. -/
def lone (s : State) (f : Wave → Bool) : Bool := !s.issue.on && (s.blk 0).twin.isNone && (s.blk? 0).isSome && ((s.wave? 0 0).map f).getD false
theorem test_witness_CutsAndGears : lone (Sv (fun w => { w with pkts := 4096, bound := true }) id) (fun w => decide (w.gear = .fast) && decide (w.mode = .run) &&
      decide (4096 ≤ w.pkts) && w.bound && !inScout w) ∧ lone (Sidle id) (fun w => !w.bound && decide (w.pkts < 4096)) ∧
    ((Sidle id).blk 0).plevel ≠ 2 ∧ ((Sv (fun w => { w with bound := true, held := [{ va := 0, pa := 0x50000, cls := .dev, data := List.replicate 12288 0 }] }) fun k => { k with plevel := 2 }).blk 0).plevel = 2 ∧
    lone (Sv (fun w => { w with bound := true, held := [{ va := 0, pa := 0x50000, cls := .dev, data := List.replicate 12288 0 }] }) fun k => { k with plevel := 2 }) (fun v =>
      decide (12288 ≤ v.held.foldl (fun n h => n + h.data.length) 0) && v.bound) ∧
    (∀ f ∈ [none, some flt1, some { flt1 with cls := .notPresent }], lone (Sv (fun w => { w with gear := .scout {}, first := f }) id) fun v => inScout v && decide (v.first = f)) ∧
    lone (Sv (fun w => { w with gear := .slow 0 (some [31]) [], first := some flt1 }) id) (fun v => decide (v.gear = .slow 0 (some [31]) []) && decide (v.mode = .run) &&
      decide ((v.arch.fibre 31).st ≠ .live)) ∧
    lone (Sv (fun w => { w with gear := .slow (2 ^ 20) none [] }) id) (fun v => decide (v.gear = .slow (2 ^ 20) none []) && decide (2 ^ 20 ≤ 2 ^ 20)) := by decide +kernel
/-- A slow-gear wave at a BAR, which is a cut point. -/
theorem test_witness_CutsAndGears_cut : let s := Sgo fun w => { w with gear := .slow 0 (some [0]) [] }
    let s := { s with mem := s.mem.write 0x50000 (toBytes 4 (Instr.bar ⟨0, 0, 0⟩).word.toNat) }
    lone s (fun v => Wave.isSlow v && !inScout v && isCutGroup false (State.bundleOf (s.blk 0) 0 0 v ⟨0, 0⟩ [0] (s.peekGroup 0 ⟨0, 0⟩)) (s.peekGroup 0 ⟨0, 0⟩)) = true ∧
      isOk (s.fetchPacket 0 true 0).1 = true := by decide +kernel
/-- The operand log of the wave's slice is full of another block's operands. -/
def Sfull : State := let s := Sgo id; { s with cores := [(0, { oplog := [(0, List.replicate 64 ⟨0, 1, {}, 0, none, [], []⟩)] })] }
theorem test_witness_CutsAndGears_steps :
    (let s := Sgo fun w => { w with gear := .slow 0 none [] }; lone s fun v => decide (v.gear = .slow 0 none []) && decide (v.mode = .run) &&
      decide (starved v.arch (s.readySlots 0 v) = none) && decide (lowestPc v.arch (s.readySlots 0 v) = some ⟨0, 0⟩) &&
      decide ((s.readySlots 0 v).find? (fun l => (v.arch.fibre l).pc == ⟨0, 0⟩) = some 0) && (s.peekGroup 0 ⟨0, 0⟩).all (fun g => !(g.raw.map Instr.oneStep).getD false)) ∧
    (let s := Sgo fun w => { w with gear := .slow 0 (some [0]) [] }; lone s fun v => decide ([0].filter (fun l => (v.arch.fibre l).st == .live) = [0])) ∧
    (let s := Sgo id; lone s (fun v => !inScout v && !isCutGroup false (State.bundleOf (s.blk 0) 0 0 v ⟨0, 0⟩ [0] (s.peekGroup 0 ⟨0, 0⟩)) (s.peekGroup 0 ⟨0, 0⟩)) ∧
      isOk (s.fetchPacket 0 true 0).1 = true ∧ (s.fetchPacket 0 true 0).2.oplogRoom 0 0 ((s.wave? 0 0).getD {}) = true) ∧
    ((Sfull.wave? 0 0).map fun v => Sfull.oplogRoom 0 0 v) = some false ∧ GWord.isMem 128 { slot := 0, word := 0xF0000440, extw := some 0xFF000000 } = true ∧
    S.shadowHolders 0 = [] ∧
    (let s := Sv (fun w => { w with shadows := [⟨0, 0, 0, [], false, []⟩], hold := some (.shadows 512) }) id;
      (s.shadowHolders 0).length = 1 ∧ (∀ x ∈ s.shadowHolders 0, Wave.shadowWait x.2.2.2 = some 512 ∧ s.shadowRoom 0 512 x.2.2.2 = false) ∧ (match youngest (s.shadowHolders 0) with
        | some (b, _, i, _) => decide (b = 0 ∧ i = 0)
        | none => false) = true ∧ lone s fun _ => true) ∧
    (let s := Sv (fun w => { w with shadows := [⟨0, 0, 0, [], false, []⟩] }) id; ∃ x ∈ s.shadowHolders 0, ∀ n, Wave.shadowWait x.2.2.2 = some n → s.shadowRoom 0 n x.2.2.2 = true) := by decide +kernel
/-- A record of class 1 waits in partition 0. -/
def Srec (h : Option (Nat × HPend)) (k : Option Nat) : State := { Sidle id with
  parts := [(0, { fqEn := true, fqBase := 0x70000, recWait := [⟨List.replicate 64 1, h, k⟩] })] }
theorem test_witness_FaultQueueAndHandler_sectors : ∀ k, (State.sector (Srec none none) k).bad = false := by
  intro k
  unfold State.sector
  split <;> rfl
theorem test_witness_FaultQueueAndHandler : (S.part 0).recWait = [] ∧
    (let s := Srec none none; (s.part 0).recWait = [⟨List.replicate 64 1, none, none⟩] ∧ (s.part 0).fqEn = true ∧ (s.part 0).fqFull = false ∧
      64 % 64 = 0 ∧ 64 / 64 ≤ (s.part 0).fqSize ∧ (0x70000 + 64 * (s.part 0).fqSize ≤ 0x71000)) ∧
    (let s := Srec none (some 0); (s.blk? 0).isSome = true ∧ s.issue.on = false ∧ (s.blk 0).killed = false) ∧
    ((Srec (some (0, ⟨0, 0, 0, [], 0⟩)) none).part 0).recWait.map RecWait.handler = [some (0, ⟨0, 0, 0, [], 0⟩)] ∧
    ({ fqTail := 59 } : Part).fqFull = true ∧ ({ fqTail := 58 } : Part).fqFull = false ∧
    S.nextHandler 0 = none ∧ ((hrun 0).core 0).hrun ≠ none ∧
    ({ S with cores := [(0, { hpend := [⟨0, 0, 0, [], 0⟩] })] }).nextHandler 0 = some ⟨0, 0, 0, [], 0⟩ := by decide +kernel
/-- Wave 0 is stopped in wave slot 0. -/
def Sst : State := Sv (fun w => { w with mode := .stopped .mailbox }) id
theorem test_witness_MailboxCommands : (let s := Sidle id; s.issue.on = false ∧ (s.blk? 0).isSome = true ∧ s.blocks.length = 1 ∧ ((s.blk 0).waves[0]?).isSome = true ∧
      s.mboxWave 0 0 0 = none) ∧
    Sst.mboxWave 0 0 0 = some (0, 0) ∧ (Sst.wave? 0 0).isSome = true ∧ 127 < 128 ∧ 31 < 32 ∧ 0x23 < 0x24 ∧ 0x20 ≤ 0x20 := by decide +kernel
/-- A message with an address, a function code, a tag and data. -/
def msg (a : B64) (f : BitVec 5) (tag : B16) : Msg := ⟨3, f, 2, tag, 0, 0, 0, 0, false, a, toBytes 16 5⟩
/-- A committed store on its way. -/
def Sout : State := { Sidle id with cores := [(0, { outbox := [⟨0, 0x50000, 0x50000, .dev, [1], 0, 0, false, []⟩] })] }
/-- A RATOM of wave 0 in slot 0 that waits for the answer with tag 7 of port 11. -/
def Srat : State := { Sw (.ratom 0 63 1) none id with
  tags := [(State.tagKey 0 (portSlice 11), { unacked := [(7, 0, msg 0 2 7)] })],
  cores := [(0, { copies := [(0, { seq := 0, blk := 0, wave := 0, part := 0, det := false, st := .running, pc := {}, wslot := 0, word := 0, fn := 0x19, cls := 2, bseq := 0, a := [], b := [], ext := 0x1000, key := 11 * 65536 + 7 })] })] }
/-- Collective 0, and a unit's cells. -/
def Scoll (f : Coll → Coll) (c : Tab AbCell) : State := { S with colls := [f { group := 0, num := 0 }], abacus := [(5, { cells := c })] }
/-- A wave whose pts is due for a rebase, on a block as `f` makes it. -/
def Sage (f : Block → Block) : State := { Sidle f with cores := [(0, { pts := [(0, 2 ^ 47)] })] }
theorem test_witness_HomesAndTime : ((Sidle id).core 0).outbox = [] ∧
    (let s := Sout; (s.core 0).outbox ≠ [] ∧ (s.core 0).outbox[0]? = some ⟨0, 0x50000, 0x50000, .dev, [1], 0, 0, false, []⟩ ∧ (s.wave? 0 0).isSome = true ∧ Cls.dev ≠ .loc) ∧
    S.lcoreCount ≤ 1 ∧ 0 < S.lcoreCount ∧
    (match S.walkAccess 0 (State.rmwAccess 2) 0x5FFFC with
      | (.ok x, _) => decide (x.pa < 2 ^ 64)
      | (.error _, _) => false) = true ∧ isOk (S.walkAccess 0 (State.rmwAccess 2) 0x60000).1 = false ∧
    (∀ p < 12, ∀ x ∈ (Tab.get ({} : TagWin) S.tags (State.tagKey (msg 0 2 7).src.toNat (portSlice p))).unacked, x.1 ≠ (msg 0 2 7).tag.toNat) ∧
    (let s := Srat; let m := msg 0 2 7; (∀ q < 11, ∀ x ∈ (Tab.get ({} : TagWin) s.tags (State.tagKey m.src.toNat (portSlice q))).unacked, x.1 ≠ m.tag.toNat) ∧
      (∃ x ∈ (Tab.get ({} : TagWin) s.tags (State.tagKey m.src.toNat (portSlice 11))).unacked, x.1 = m.tag.toNat) ∧
      (match s.remoteCopy m.src.toNat 11 m.tag.toNat with
       | some (slot, c) => decide (slot = 0) && decide (c.flags = 0) && (s.blk c.blk).twin.isNone && decide (Tab.find (s.core m.src.toNat).copies slot = some c) &&
          decide (s.remoteWait c.blk c.wave slot = some (wx (.ratom 0 63 1) none)) && (s.wave? c.blk c.wave).isSome && decide (rspClass m = 0) &&
          !(m.poison && bitAt c.ext.toNat 12)
       | none => false) = true ∧ ({ s with cores := [] }).remoteCopy m.src.toNat 11 m.tag.toNat = none) := by decide +kernel
theorem test_witness_HomesAndTime_more :
    (let s := { Srat with nclk := 2 ^ 16 }; let k := portSlice 11
      (Tab.get ({} : TagWin) s.tags (State.tagKey 0 k)).unacked.find? (fun x => x.1 == (7 : B16).toNat) = some ((7 : B16).toNat, 0, msg 0 2 7) ∧ 0 + 2 ^ 16 ≤ s.nclk ∧
      (∀ x ∈ (Tab.get ({} : TagWin) Srat.tags (State.tagKey 0 k)).unacked, x.1 = (7 : B16).toNat → Srat.nclk < x.2.1 + 2 ^ 16)) ∧
    (∀ u ∈ [5, 171], let m := recMsg false 0 5 1 1 false (List.replicate 16 0)
      (Tab.get ({} : TagWin) S.tags (State.tagKey m.src.toNat u)).window.any (fun w => w.tag == m.tag.toNat) = false ∧ recIsElem m = false ∧
      (Scoll id []).coll? (recNum m) = some { group := 0, num := 0 } ∧ (Scoll (fun x => { x with known := true }) []).coll? (recNum m) = some { group := 0, num := 0, known := true }) ∧
    recIsElem (recMsg true 0 5 1 1 false (List.replicate 16 0)) = true ∧
    (let s := { S with tags := [(State.tagKey 0 5, { window := [⟨0, [], 0, 0⟩] })] }; (Tab.get ({} : TagWin) s.tags (State.tagKey 0 5)).window.any (fun w => w.tag == 0) = true) ∧
    (Tab.find ((Scoll id [(5, { got := 1 })]).unit 5).cells 5).isSome = true ∧ ((Scoll id []).unit 5).cells.length < 512 ∧ ((Scoll id []).unit (portSlice 11)).out = [] ∧
    (Sage id).cores.any (fun c => 2 ^ 47 ≤ Tab.get 0 c.2.pts 0) = true ∧ (Sage id).toQuiesce 0 = [0] ∧
    (let s := Sage fun k => { k with pre := some { why := .rebase } }; s.toQuiesce 0 = [] ∧ s.isQuiet 0 = false) ∧
    (let s := Sage fun k => { k with pre := some { why := .rebase, closed := true }, waves := k.waves.map fun w => { w with mode := .stopped (.preempt 0) } };
      s.toQuiesce 0 = [] ∧ s.isQuiet 0 = true) := by decide +kernel
theorem test_witness_LinkFlits : (let s := { S with links := [(32, { st := 2 }), (0, { st := 1, attempts := 2 })] };
      (s.link (linkOf 64)).st ≠ 0 ∧ 26 ≤ 64 ∧ (s.link (linkOf 0)).st = 1 ∧ (s.link 33).st = 0 ∧ (s.link 0).st = 1 ∧ (true && false) = false) ∧
    S.viral = false ∧ isPort (linkOf 64) = true ∧ isPort (linkOf 25) = false ∧
    (let ms := [{ msg 0 0 0 with kind := 1 }]; (ms.flatMap Msg.bytes).length ≤ 248 ∧ ∀ m ∈ ms, m.kind ≠ 0 ∧ m.data.length % 16 = 0) ∧
    15 < 16 ∧ 4095 < 4096 ∧ 95 < 96 ∧ flitOk (flitBytes 2 4095 4095 []) = true ∧ flitOk [] = false ∧ 3 ≤ ({ fails := [0, 1, 2] } : LinkSt).fails.length := by
  decide +kernel
theorem test_witness_HostMemory : S.hostOpen = true ∧ 2 ^ 40 - 1 < 2 ^ 40 ∧ 2 ^ 52 ≤ 2 ^ 52 ∧ 2 ^ 40 ≤ 2 ^ 40 ∧ 2 ^ 52 - 1 < 2 ^ 52 := by decide +kernel
theorem test_witness_BootPowerAndFatal : State.reset.cxlUp = false ∧ 64 ≤ 64 ∧ S.cxlUp = true ∧ S.hostOpen = true ∧ 0 < 63 ∧ 63 < 64 ∧
    (∀ d < 4, [114, 114, 114, 114].getD d 0 < 115) ∧ (115 ≤ [0, 0, 0, 115].getD 3 0 ∧ ∀ e < 3, [0, 0, 0, 115].getD e 0 < 115) ∧
    5 < (6 : Byte).toNat ∧ (5 : Byte).toNat ∈ [1, 2, 3, 4, 5] ∧
    State.reset.bootStat.toNat % 16 < 5 ∧ (5 ≤ S.bootStat.toNat % 16 ∧ S.bootStat.toNat / 256 % 256 = 0) := by decide +kernel
theorem test_witness_DecodeOfEncode : (let i := Instr.fadd ⟨1, 0, 1, 2, 3, none⟩; i.isWord = true ∧ i.wf = true ∧ i.ext = none ∧ extAfter i.word [0] = none) ∧
    (let i := Instr.fadd ⟨1, 0, 1, 2, 3, some ⟨0, 4⟩⟩; i.isWord = true ∧ i.wf = true ∧ i.ext ≠ none) ∧
    isStream (.mset 15 1 0xFFFF) = true ∧ (Instr.mset 15 1 0xFFFF).wf = true ∧ isCommand (.nopc 65535) = true ∧ (Instr.nopc 65535).wf = true := by decide +kernel
theorem test_witness_OnlyEncodingsDecode : bits (0x7F000000 : B32).toNat 24 7 = 0x7F ∧ bits (0xFF000000 : B32).toNat 24 7 = 0x7F ∧
    (bits (0x790C0000 : B32).toNat 24 7 = 0x79 ∧ 0x0C ≤ bits (0x790C0000 : B32).toNat 16 7) ∧ 9 ≤ bits (0x7A090000 : B32).toNat 16 7 ∧
    bits (0x7B0F0000 : B32).toNat 16 7 = 0x0F ∧ 0x10 ≤ bits (0x7D100000 : B32).toNat 16 7 ∧ 0x0C ≤ bits (0x0C00000000000000 : B64).toNat 56 8 ∧
    isOk (decode [0]) = true ∧ (decodeStream 0).isSome = true := by decide +kernel
/-- An outcome is a next state with a property. -/
def goes (o : Out) (f : State → Bool) : Bool := match o with
  | .next t => f t
  | _ => false
/-- Code at 0x50000: IADD v1, v0, v0 and two NOPs, and one wave at it. -/
def Srun : State := let s := Sgo id; { s with mem := s.mem.write 0x50000 (toBytes 4 0x04010000) }
theorem test_witness_StepRunsTheDecodedInstruction :
    goes (exec (.sidebandRead 0) S) (fun u => goes (runGroup { u with issue := {} }) fun v => !v.noWay) = true ∧
    ({ Sidle id with agenda := [.sidebandRead 0] }).agenda = [.sidebandRead 0] ∧ goes (exec (.sidebandRead 0) (Sidle id)) (fun u => goes (runGroup u) fun v => !v.noWay) = true ∧
    Srun.agenda = [] ∧ Srun.nextMoves.1 = [.issue 0 0] ∧ goes (runMove (.issue 0 0) Srun.nextMoves.2) (fun v => !v.noWay) = true ∧
    (let s := Srun.openGroup 0 0; s.issue.on = true ∧ s.issue.bad = false ∧ s.issue.held = none ∧ s.issue.faults = [] ∧
      (s.peekGroup 0 s.issue.pc).map GWord.word = [0x04010000] ∧ isOk (decode [0x04010000]) = true ∧ s.peekPacket 0 0 = some [0x04010000, 0, 0] ∧ s.issue.pc = ⟨0, 0⟩ ∧
      goes (exec (.iadd ⟨0, 0, 1, 0, 0⟩) s) (fun _ => true) = true) := by decide +kernel
/-- Every module retrains; a store of core 0 is on its way to die 1, one of core 1 to where it needs none. -/
def Sfar : State := let s := Sidle fun k => { k with waves := k.waves.map fun w => { w with mode := .asleep 0 } }
  { s with
    links := (List.range 13).map fun k => (k, { st := 1 }), lcoreCount := 2, round := [.homeWrite 0, .homeWrite 1], roundAge := State.roundLimit
    cores := [(0, { outbox := [⟨0, 0x50000, 2 ^ 38, .dev, [1], 0, 0, false, []⟩] }), (1, { outbox := [⟨0, 0x50000, 0x50000, .dev, [1], 0, 0, false, []⟩] })] }
theorem test_witness_StepRunsTheDecodedInstruction_ways :
    (match Sfar.nextMoves with
    | ([.homeWrite 0, .homeWrite 1], u) => goes (runMove (.homeWrite 0) u) (fun v => v.noWay) && goes (runMove (.homeWrite 1) u) fun v => !v.noWay
    | _ => false) = true ∧ Sfar.upsets = [] ∧ Sfar.agenda = [] ∧
    (let s := { Sfar with agenda := [.homeWrite 0, .sidebandRead 0] };
      goes (exec (.homeWrite 0) { s with agenda := [.sidebandRead 0] }) (fun u => goes (runGroup u) fun v => v.noWay) = true ∧
      goes (exec (.sidebandRead 0) { s with agenda := [.homeWrite 0] }) (fun u => goes (runGroup u) fun v => !v.noWay) = true) ∧
    State.reset.nextMoves.1 = [] ∧ ({ S with upsets := [.ecc 0] } : State).upsets ≠ [] := by decide +kernel
theorem test_witness_StepRunsTheDecodedInstruction_engines :
    (let s := { Sidle fun k => { k with seqr := { k.seqr with st := .running, sa := 0x50000 } } with mem := tables.write 0x50000 (toBytes 8 0x0B00000000000000) };
      (s.openStream 0).1 = some .mhalt) ∧
    (let s := { Sidle id with mem := tables.write 0x50000 (toBytes 8 0x0000000000010000), parts := [(0, { tableRoot := 0x10001, queues := [(0, { base := 0x50000, run := true, tail := 8 })] })] };
      (s.openCommand 0 0).1 = some (.nopc 1)) := by decide +kernel
theorem test_witness_EveryStepKeepsMemoryAndFuses : Memory.wf Srun.mem = true ∧ goes (step Srun) (fun _ => true) = true := by decide +kernel
/-- The check values of the two CRC codes for the nine digits "123456789" (R272, R348: the named codes). -/
theorem test_crc : crc32c [0x31, 0x32, 0x33, 0x34, 0x35, 0x36, 0x37, 0x38, 0x39] = 0xE3069283 ∧
    crc64 [0x31, 0x32, 0x33, 0x34, 0x35, 0x36, 0x37, 0x38, 0x39] = 0x6C40DF5F0B497347 := by decide +kernel

end Sys2Proof.Tests
end

section
/-!
PROOFS. The F32 words that choose, copy or classify a pattern (R126 to R128): the opcode field of a format A word, the result
of a V-pipe word that sets no flag, and what the F32 encoding of R99 says of a pattern's value, class and order.
-/

namespace Sys2Proof

/-! ### Words of format A -/

/-- The opcode stands in [30:24] of a word of two sources (R58). -/
theorem FmtA.opcode_word (op : Nat) (f : FmtA) : (f.word op).extractLsb' 24 7 = BitVec.ofNat 7 op := by
  have hb := f.b.isLt
  have ha := f.a.isLt
  have hd := f.d.isLt
  have hn := f.n.isLt
  apply BitVec.eq_of_toNat_eq
  simp only [FmtA.word, pack, BitVec.extractLsb'_toNat, BitVec.toNat_ofNat, Nat.shiftRight_eq_div_pow]
  omega

/-- The opcode stands in [30:24] of a word of one source (R58). -/
theorem FmtA1.opcode_word (op : Nat) (f : FmtA1) : (f.word op).extractLsb' 24 7 = BitVec.ofNat 7 op :=
  FmtA.opcode_word op ⟨f.c, f.n, f.d, f.a, 0⟩

end Sys2Proof

namespace Sys2Proof.Machine

/-! ### The result of a V-pipe or X-pipe word -/

/-- Latch entries of different fibres and pipes are different. -/
theorem latchIndex_eq_iff {l m j k : Nat} (hj : j < 4) (hk : k < 4) : 4 * l + j = 4 * m + k ↔ j = k ∧ l = m := by
  omega

/-- A latch entry after a V-pipe or X-pipe word, by fibre and pipe (R64). -/
theorem Issue.lat_mapV_entry (e : Issue) (n : Bit) (d : BitVec 7) (k : Nat) {lt j : Nat} (hlt : lt < 4) (hj : j < 4)
    (g : Nat → Res) (l : Nat) :
    Tab.find (e.mapV n d k lt g).cur.arch.lat (4 * l + j) =
      if j = lt ∧ l ∈ e.eff then some ⟨BitVec.ofNat 64 (g l).v, 0⟩
      else if j = lt ∧ l ∈ e.lanes then none else Tab.find e.cur.arch.lat (4 * l + j) := by
  rw [Issue.lat_mapV]
  simp only [latchIndex_eq_iff hj hlt]
  cases hw : (e.eff.filter fun m => decide (j = lt ∧ l = m)).getLast? with
  | some m =>
    have hm := List.mem_filter.1 (List.mem_of_getLast? hw)
    obtain ⟨hjl, rfl⟩ := of_decide_eq_true hm.2
    rw [if_pos (And.intro hjl hm.1)]
  | none =>
    have hl : ¬(j = lt ∧ l ∈ e.eff) := fun h =>
      List.filter_eq_nil_iff.1 (List.getLast?_eq_none_iff.1 hw) l h.2 (decide_eq_true ⟨h.1, rfl⟩)
    have hex : (∃ m ∈ e.lanes, j = lt ∧ l = m) ↔ j = lt ∧ l ∈ e.lanes :=
      ⟨fun ⟨_, hm, hjl, hlm⟩ => ⟨hjl, hlm ▸ hm⟩, fun ⟨hjl, hm⟩ => ⟨l, hm, hjl, rfl⟩⟩
    rw [if_neg hl]
    exact ite_congr (propext hex) (fun _ => rfl) fun _ => rfl

/-- The bits of word `i` of a result of at most two words. -/
theorem extractLsb'_word_ofNat (x : Nat) {i : Nat} (hi : i < 2) :
    (BitVec.ofNat 64 x).extractLsb' (32 * i) 32 = BitVec.ofNat 32 (x >>> (32 * i)) := by
  apply BitVec.eq_of_toNat_eq
  simp only [BitVec.extractLsb'_toNat, BitVec.toNat_ofNat, Nat.shiftRight_eq_div_pow]
  obtain rfl | rfl : i = 0 ∨ i = 1 := by omega
  · omega
  · omega

/-- A fibre that writes a physical register has it among its `k` registers from v(d). -/
theorem Issue.writer_bounds {e : Issue} {d k p l : Nat} {L : List Nat} (h : Issue.writer e d k p L = some l) :
    (e.cur.arch.fibre l).wb + d ≤ p ∧ p < (e.cur.arch.fibre l).wb + d + k := by
  have hm := List.mem_of_getLast? h
  simpa using (List.mem_filter.1 hm).2

/-- A V-pipe or X-pipe word of one or two registers leaves a vector result (R59, R64, R75, R76, R111). -/
theorem vResult_mapV (s : State) (n : Bit) (d : BitVec 7) {k lt : Nat} (hk : k ≤ 2) (hlt : lt < 4) (g : Nat → Res) :
    Claims.VResult s { s with issue := s.issue.mapV n d k lt g } n d k lt (fun l => BitVec.ofNat 64 (g l).v)
      fun l => (g l).fl := by
  refine ⟨fun p => ?_, fun l j hj => Issue.lat_mapV_entry _ _ _ _ hlt hj _ _, Issue.fl_mapV .., ?_⟩
  · rw [Issue.v_mapV]
    change _ = if n = 1 then _ else match Issue.writer s.issue d.toNat k p s.issue.eff with
      | some l => _
      | none => _
    cases hw : Issue.writer s.issue d.toNat k p s.issue.eff with
    | none => rfl
    | some l =>
      have hp := Issue.writer_bounds hw
      simp only
      rw [extractLsb'_word_ofNat _ (by omega)]
  · exact congrArg (fun e => { s with issue := e }) (Issue.sameButVL_mapV ..)

/-- A V-pipe word of one register that sets no flag leaves the result `r` where its value is `r`. -/
theorem vResult_mapV_noFlags (s : State) (n : Bit) (d : BitVec 7) {g : Nat → Nat} {r : Nat → B64}
    (h : ∀ l, BitVec.ofNat 64 (g l) = r l) :
    Claims.VResult s { s with issue := s.issue.mapV n d 1 0 fun l => ⟨g l, 0⟩ } n d 1 0 r fun _ => 0 := by
  obtain rfl : (fun l => BitVec.ofNat 64 (g l)) = r := funext h
  exact vResult_mapV s n d (by decide) (by decide) fun l => ⟨g l, 0⟩

/-! ### F32 sources -/

/-- Every inline constant read as F32 fits 32 bits (R63). -/
theorem constFlt_f32_lt (i : Nat) : constFlt f32 i < 2 ^ 32 := by
  have hall : ∀ p ∈ constF32, p < 2 ^ 32 := by decide
  have htable : constFlt f32 i = constF32.getD i 0 := by
    unfold constFlt
    exact if_pos rfl
  rw [htable, List.getD_eq_getElem?_getD]
  cases h : constF32[i]? with
  | none => decide
  | some p => exact hall p (List.mem_of_getElem? h)

/-- An F32 source fits 32 bits: only its inline constants differ from those of an integer source (R63, R77). -/
theorem src32_f32_lt (a : Arch) (l : Nat) (b : Byte) : src32 (.flt f32) a l b < 2 ^ 32 := by
  by_cases h : b.toNat < 0xE0
  · have hint : src32 (.flt f32) a l b = src32 .int a l b := by simp only [src32, if_pos h]
    rw [hint]
    exact src32_lt a l b
  · have hconst : src32 (.flt f32) a l b = constFlt f32 (b.toNat - 0xE0) := by
      simp only [src32, if_neg h, if_neg (show ¬b.toNat < 0x80 by omega), if_neg (show ¬b.toNat < 0xC0 by omega),
        if_neg (show ¬b.toNat < 0xC4 by omega)]
      rfl
    rw [hconst]
    exact constFlt_f32_lt _

/-- An F32 source is the number of its 32-bit pattern. -/
theorem fs_eq_toNat (s : State) (b : Byte) (l : Nat) : Claims.fs s b l = (BitVec.ofNat 32 (Claims.fs s b l)).toNat := by
  rw [BitVec.toNat_ofNat, Nat.mod_eq_of_lt (show Claims.fs s b l < 2 ^ 32 from src32_f32_lt ..)]

/-- A word of one F32 source leaves what its operation `op` makes of the source's pattern. -/
theorem vResult_oneF32 (s : State) (n : Bit) (d : BitVec 7) (a : Byte) {op : Nat → Nat} {r : B32 → B64}
    (h : ∀ x : B32, BitVec.ofNat 64 (op x.toNat) = r x) :
    Claims.VResult s { s with issue := s.issue.mapV n d 1 0 fun l => ⟨op (Claims.fs s a l), 0⟩ } n d 1 0
      (fun l => r (BitVec.ofNat 32 (Claims.fs s a l))) fun _ => 0 :=
  vResult_mapV_noFlags s n d fun l => by rw [← h, ← fs_eq_toNat]

/-- A word of two F32 sources leaves what its operation `op` makes of the sources' patterns. -/
theorem vResult_twoF32 (s : State) (n : Bit) (d : BitVec 7) (a b : Byte) {op : Nat → Nat → Nat} {r : B32 → B32 → B64}
    (h : ∀ x y : B32, BitVec.ofNat 64 (op x.toNat y.toNat) = r x y) :
    Claims.VResult s { s with issue := s.issue.mapV n d 1 0 fun l => ⟨op (Claims.fs s a l) (Claims.fs s b l), 0⟩ } n d 1 0
      (fun l => r (BitVec.ofNat 32 (Claims.fs s a l)) (BitVec.ofNat 32 (Claims.fs s b l))) fun _ => 0 :=
  vResult_mapV_noFlags s n d fun l => by rw [← h, ← fs_eq_toNat, ← fs_eq_toNat]

/-! ### The F32 encoding (R99) -/

/-- The magnitude field of an F32 pattern: bits [30:0]. -/
def f32Mag (a : B32) : Nat := (a &&& 0x7FFFFFFF#32).toNat

theorem f32Mag_eq_mod (a : B32) : f32Mag a = a.toNat % 2 ^ 31 := by
  rw [f32Mag, BitVec.toNat_and]
  exact Nat.and_two_pow_sub_one_eq_mod a.toNat 31

/-- A pattern is its sign bit above its magnitude. -/
theorem toNat_eq_sign_add_f32Mag (a : B32) : a.toNat = (if a.getLsbD 31 then 2 ^ 31 else 0) + f32Mag a := by
  have h := a.isLt
  have hs : a.getLsbD 31 = decide (2 ^ 31 ≤ a.toNat) := BitVec.msb_eq_decide a
  rw [hs, f32Mag_eq_mod]
  split <;> simp_all <;> omega

/-- The exponent field E of an F32 pattern. -/
theorem toNat_exponent (a : B32) : (a.extractLsb' 23 8).toNat = f32Mag a / 2 ^ 23 := by
  rw [f32Mag_eq_mod, BitVec.extractLsb'_toNat, Nat.shiftRight_eq_div_pow]
  omega

/-- The fraction field F of an F32 pattern. -/
theorem toNat_fraction (a : B32) : (a.extractLsb' 0 23).toNat = f32Mag a % 2 ^ 23 := by
  rw [f32Mag_eq_mod, BitVec.extractLsb'_toNat, Nat.shiftRight_eq_div_pow]
  omega

/-- What an F32 pattern stands for, by its fields S, E and F (R99). -/
theorem read_f32_fields (a : B32) : f32.read a.toNat =
    if f32Mag a / 2 ^ 23 = 255 ∧ f32Mag a % 2 ^ 23 ≠ 0 then .nan
    else if f32Mag a / 2 ^ 23 = 255 then .inf (a.getLsbD 31)
    else if f32Mag a / 2 ^ 23 = 0 then .fin (a.getLsbD 31) (f32Mag a % 2 ^ 23) (-149)
    else .fin (a.getLsbD 31) (f32Mag a % 2 ^ 23 + 2 ^ 23) ((f32Mag a / 2 ^ 23 : Nat) - 150) := by
  have he : bits a.toNat 23 8 = f32Mag a / 2 ^ 23 := by rw [← toNat_exponent, BitVec.extractLsb'_toNat]; rfl
  have hf : bits a.toNat 0 23 = f32Mag a % 2 ^ 23 := by rw [← toNat_fraction, BitVec.extractLsb'_toNat]; rfl
  have hs : bitAt a.toNat 31 = a.getLsbD 31 := rfl
  have hmin : FFmt.emin ⟨8, 23, true⟩ - (23 : Nat) = -149 := by decide
  have hbias (E : Nat) : (E : Int) - (FFmt.bias ⟨8, 23, true⟩ : Nat) - (23 : Nat) = E - 150 := by
    rw [show FFmt.bias ⟨8, 23, true⟩ = 127 by decide]
    omega
  simp only [FFmt.read, f32, hs, he, hf, hmin, hbias]
  generalize f32Mag a / 2 ^ 23 = E, f32Mag a % 2 ^ 23 = F
  simp

/-- What an F32 pattern stands for, by its sign bit and its magnitude field: NaN above the infinity, normal values from 2^23
and subnormal values below (R99). -/
theorem read_f32 (a : B32) : f32.read a.toNat =
    if 0x7F800000 < f32Mag a then .nan
    else if f32Mag a = 0x7F800000 then .inf (a.getLsbD 31)
    else if f32Mag a < 2 ^ 23 then .fin (a.getLsbD 31) (f32Mag a) (-149)
    else .fin (a.getLsbD 31) (f32Mag a % 2 ^ 23 + 2 ^ 23) ((f32Mag a / 2 ^ 23 : Nat) - 150) := by
  have hx : f32Mag a < 2 ^ 31 := by rw [f32Mag_eq_mod]; exact Nat.mod_lt _ (by decide)
  rw [read_f32_fields]
  by_cases hnan : 0x7F800000 < f32Mag a
  · rw [if_pos hnan, if_pos (by omega)]
  rw [if_neg hnan, if_neg (by omega)]
  by_cases hinf : f32Mag a = 0x7F800000
  · rw [if_pos hinf, if_pos (by omega)]
  rw [if_neg hinf, if_neg (by omega)]
  by_cases hsub : f32Mag a < 2 ^ 23
  · rw [if_pos hsub, if_pos (by omega), Nat.mod_eq_of_lt hsub]
  · rw [if_neg hsub, if_neg (by omega)]

/-- A pattern is NaN when its magnitude field exceeds that of the infinity (R99). -/
theorem isNan_read_f32 (a : B32) : (f32.read a.toNat).isNan = decide (0x7F800000#32 < a &&& 0x7FFFFFFF#32) := by
  by_cases hnan : 0x7F800000#32 < a &&& 0x7FFFFFFF#32
  · rw [decide_eq_true hnan, read_f32, if_pos (show 0x7F800000 < f32Mag a from hnan)]
    rfl
  · rw [decide_eq_false hnan, read_f32, if_neg (show ¬0x7F800000 < f32Mag a from hnan)]
    split
    · rfl
    · split <;> rfl

/-- The sign of a pattern that is not NaN is its bit 31 (R99). -/
theorem sign_read_f32 {a : B32} (h : f32Mag a ≤ 0x7F800000) : (f32.read a.toNat).sign = a.getLsbD 31 := by
  rw [read_f32, if_neg (by omega)]
  split
  · rfl
  · split <;> rfl

/-! ### FABS and FNEG (R127) -/

/-- A word of one F32 source whose operation gives the canonical NaN for a NaN, and else the pattern `g` gives. -/
theorem vResult_oneF32_quiet (s : State) (n : Bit) (d : BitVec 7) (a : Byte) {op : Nat → Nat} {g : B32 → B32}
    (h : ∀ x : B32, op x.toNat = if 0x7F800000#32 < x &&& 0x7FFFFFFF#32 then 0x7FC00000 else (g x).toNat) :
    Claims.VResult s { s with issue := s.issue.mapV n d 1 0 fun l => ⟨op (Claims.fs s a l), 0⟩ } n d 1 0
      (fun l =>
        let x : B32 := BitVec.ofNat 32 (Claims.fs s a l)
        if 0x7F800000#32 < x &&& 0x7FFFFFFF#32 then 0x7FC00000 else (g x).setWidth 64) fun _ => 0 := by
  refine vResult_oneF32 s n d a
    (r := fun x => if 0x7F800000#32 < x &&& 0x7FFFFFFF#32 then 0x7FC00000 else (g x).setWidth 64) fun x => ?_
  rw [h]
  split
  · rfl
  · exact BitVec.ofNat_toNat 64 (g x)

/-- FABS of an F32 pattern clears bit 31 unless it is NaN (R127). -/
theorem abs_f32 (a : B32) : f32.abs a.toNat =
    if 0x7F800000#32 < a &&& 0x7FFFFFFF#32 then 0x7FC00000 else (a &&& 0x7FFFFFFF#32).toNat := by
  simp only [FFmt.abs, isNan_read_f32, decide_eq_true_eq]
  exact ite_congr rfl (fun _ => rfl) fun _ => (f32Mag_eq_mod a).symm

/-- Adding 2^31 to a 32-bit pattern inverts bit 31. -/
theorem toNat_xor_bit31 (a : B32) : (a ^^^ 0x80000000#32).toNat = (a.toNat + 2 ^ 31) % 2 ^ 32 := by
  have h := a.isLt
  have hlow : (a.toNat ^^^ 2 ^ 31) % 2 ^ 31 = a.toNat % 2 ^ 31 := Nat.xor_mod_two_pow.trans (Nat.xor_zero _)
  have hhigh : (a.toNat ^^^ 2 ^ 31) / 2 ^ 31 = a.toNat / 2 ^ 31 ^^^ 1 := Nat.xor_div_two_pow
  change a.toNat ^^^ 2 ^ 31 = _
  obtain htop | htop : a.toNat / 2 ^ 31 = 0 ∨ a.toNat / 2 ^ 31 = 1 := by omega
  · rw [htop, show 0 ^^^ 1 = 1 from rfl] at hhigh
    omega
  · rw [htop, show 1 ^^^ 1 = 0 from rfl] at hhigh
    omega

/-- FNEG of an F32 pattern inverts bit 31 unless it is NaN (R127). -/
theorem neg_f32 (a : B32) : f32.neg a.toNat =
    if 0x7F800000#32 < a &&& 0x7FFFFFFF#32 then 0x7FC00000 else (a ^^^ 0x80000000#32).toNat := by
  simp only [FFmt.neg, isNan_read_f32, decide_eq_true_eq]
  exact ite_congr rfl (fun _ => rfl) fun _ => (toNat_xor_bit31 a).symm

/-- FABS is a V-pipe word of one F32 source (R127). -/
theorem exec_fabs (f : FmtA1) (s : State) : exec (.fabs f) s =
    .next { s with issue := s.issue.mapV f.n f.d 1 0 fun l => ⟨f32.abs (Claims.fs s f.a l), 0⟩ } := rfl

/-- FNEG is a V-pipe word of one F32 source (R127). -/
theorem exec_fneg (f : FmtA1) (s : State) : exec (.fneg f) s =
    .next { s with issue := s.issue.mapV f.n f.d 1 0 fun l => ⟨f32.neg (Claims.fs s f.a l), 0⟩ } := rfl

/-- Settles O5: each word is a word of one F32 source, whose operation `abs_f32` and `neg_f32` describe. -/
theorem absoluteAndNegate : Obligations.AbsoluteAndNegate := by
  refine ⟨fun f => ⟨f.opcode_word 0x42, f.opcode_word 0x43⟩, ?_⟩
  simp only [List.forall_mem_cons, List.not_mem_nil, false_imp_iff, implies_true, and_true]
  exact ⟨fun f s => ⟨_, exec_fabs f s, vResult_oneF32_quiet s f.n f.d f.a (g := fun x => x &&& 0x7FFFFFFF#32) abs_f32⟩,
    fun f s => ⟨_, exec_fneg f s, vResult_oneF32_quiet s f.n f.d f.a (g := fun x => x ^^^ 0x80000000#32) neg_f32⟩⟩

/-! ### FCLASS (R128) -/

/-- The number of an F32 pattern's class bit, by its sign and its fields E and F (R128). -/
def f32ClassBit (a : B32) : Nat :=
  if a.extractLsb' 23 8 = 255 then (if a.extractLsb' 0 23 ≠ 0 then 8 else if a.getLsbD 31 then 0 else 7)
  else if a.extractLsb' 23 8 = 0 then
    (if a.extractLsb' 0 23 = 0 then (if a.getLsbD 31 then 3 else 4) else if a.getLsbD 31 then 2 else 5)
  else if a.getLsbD 31 then 1 else 6

/-- FCLASS of an F32 pattern sets the bit of its class and no other (R128). -/
theorem fclass_f32 (a : B32) : f32.fclass a.toNat = 2 ^ f32ClassBit a := by
  have hE (n : BitVec 8) : a.extractLsb' 23 8 = n ↔ f32Mag a / 2 ^ 23 = n.toNat := by
    rw [← toNat_exponent, BitVec.toNat_inj]
  have hF : a.extractLsb' 0 23 = 0 ↔ f32Mag a % 2 ^ 23 = 0 := by
    rw [← toNat_fraction]; exact BitVec.toNat_inj.symm
  have hlt : f32Mag a % 2 ^ 23 < 8388608 := Nat.mod_lt _ (by decide)
  simp only [f32ClassBit, FFmt.fclass, read_f32_fields, hE, hF, ne_eq]
  generalize f32Mag a / 2 ^ 23 = E at *
  generalize f32Mag a % 2 ^ 23 = F at *
  by_cases hmax : E = 255
  · by_cases hF0 : F = 0 <;> cases a.getLsbD 31 <;> simp [hmax, hF0]
  by_cases hzero : E = 0
  · by_cases hF0 : F = 0 <;> cases a.getLsbD 31 <;> simp [hzero, hF0, f32, hlt]
  · cases a.getLsbD 31 <;> simp [hmax, hzero, f32]

/-- A power of two, narrowed to 64 bits, is one bit shifted into place. -/
theorem ofNat_two_pow (k : Nat) : BitVec.ofNat 64 (2 ^ k) = 1#64 <<< k := by
  apply BitVec.eq_of_toNat_eq
  simp [Nat.shiftLeft_eq]

/-- FCLASS is a V-pipe word of one F32 source (R128). -/
theorem exec_fclass (f : FmtA1) (s : State) : exec (.fclass f) s =
    .next { s with issue := s.issue.mapV f.n f.d 1 0 fun l => ⟨f32.fclass (Claims.fs s f.a l), 0⟩ } := rfl

/-- Settles O7: FCLASS is a word of one F32 source, whose operation `fclass_f32` describes. -/
theorem classify : Obligations.Classify := by
  refine ⟨fun f => f.opcode_word 0x45, fun f s => ⟨_, exec_fclass f s, ?_⟩⟩
  refine vResult_oneF32 s f.n f.d f.a (op := f32.fclass) (r := fun a => 1#64 <<< f32ClassBit a) fun a => ?_
  rw [fclass_f32, ofNat_two_pow]

/-! ### FMIN and FMAX (R126) -/

/-- A comparison of integers depends on their order only. -/
theorem compare_congr {i j i' j' : Int} (hlt : i < j ↔ i' < j') (hgt : j < i ↔ j' < i') : compare i j = compare i' j' := by
  rcases Int.lt_trichotomy i' j' with h | h | h
  · exact (Int.compare_eq_lt.2 (hlt.2 h)).trans (Int.compare_eq_lt.2 h).symm
  · exact (Int.compare_eq_eq.2 (by omega)).trans (Int.compare_eq_eq.2 h).symm
  · exact (Int.compare_eq_gt.2 (hgt.2 h)).trans (Int.compare_eq_gt.2 h).symm

/-- A map of magnitudes is strictly monotone. -/
def Increasing (g : Nat → Nat) : Prop := ∀ {x y : Nat}, x < y → g x < g y

theorem Increasing.lt_iff {g : Nat → Nat} (hg : Increasing g) (x y : Nat) : g x < g y ↔ x < y := by
  refine ⟨fun h => Nat.lt_of_not_le fun hle => ?_, fun h => hg h⟩
  obtain hlt | rfl := Nat.lt_or_eq_of_le hle
  · exact Nat.lt_asymm h (hg hlt)
  · exact Nat.lt_irrefl _ h

/-- A map of magnitudes is strictly monotone when each step of 1 increases it. -/
theorem increasing_of_lt_succ {g : Nat → Nat} (h : ∀ x, g x < g (x + 1)) : Increasing g := by
  intro x y hxy
  induction y with
  | zero => exact absurd hxy (Nat.not_lt_zero x)
  | succ y ih =>
    obtain hlt | rfl := Nat.lt_or_eq_of_le (Nat.le_of_lt_succ hxy)
    · exact Nat.lt_trans (ih hlt) (h y)
    · exact h x

/-- A strictly monotone map of magnitudes that keeps 0 keeps the order of signed values. -/
theorem compare_signed_map {g : Nat → Nat} (hg : Increasing g) (h0 : g 0 = 0) (s t : Bool) (x y : Nat) :
    compare (signed s (g x)) (signed t (g y)) = compare (signed s x) (signed t y) := by
  have hxy := hg.lt_iff x y
  have hyx := hg.lt_iff y x
  have hx := hg.lt_iff 0 x
  have hy := hg.lt_iff 0 y
  rw [h0] at hx hy
  apply compare_congr
  · cases s <;> cases t <;> simp only [signed, if_true, Bool.false_eq_true, if_false] <;> omega
  · cases s <;> cases t <;> simp only [signed, if_true, Bool.false_eq_true, if_false] <;> omega

/-- A magnitude in units of 2^c, taken through an exponent q between. -/
theorem shiftLeft_mul_two_pow {c q e : Int} (hc : c ≤ q) (hq : q ≤ e) (m : Nat) :
    m <<< (e - q).toNat * 2 ^ (q - c).toNat = m * 2 ^ (e - c).toNat := by
  rw [Nat.shiftLeft_eq, Nat.mul_assoc, ← Nat.pow_add]
  congr 2
  omega

/-- Finite values compare as their magnitudes in units of 2^c, for any c that neither exponent is below. -/
theorem cmp_fin {e d c : Int} (he : c ≤ e) (hd : c ≤ d) (s t : Bool) (m n : Nat) :
    (FVal.fin s m e).cmp (.fin t n d) =
      compare (signed s (m * 2 ^ (e - c).toNat)) (signed t (n * 2 ^ (d - c).toNat)) := by
  have hscale : Increasing fun x : Nat => x * 2 ^ (min e d - c).toNat :=
    fun h => Nat.mul_lt_mul_of_pos_right h (Nat.two_pow_pos _)
  rw [← shiftLeft_mul_two_pow (q := min e d) (by omega) (by omega) m,
    ← shiftLeft_mul_two_pow (q := min e d) (by omega) (by omega) n]
  exact (compare_signed_map hscale (Nat.zero_mul _) ..).symm

/-- The magnitude of a finite F32 pattern in units of 2^−149, by its magnitude field (R99). -/
def f32Scaled (x : Nat) : Nat := if x < 2 ^ 23 then x else (x % 2 ^ 23 + 2 ^ 23) * 2 ^ (x / 2 ^ 23 - 1)

/-- Magnitudes grow with their fields. -/
theorem increasing_f32Scaled : Increasing f32Scaled := by
  refine increasing_of_lt_succ fun x => ?_
  unfold f32Scaled
  by_cases hsub : x + 1 < 2 ^ 23
  · rw [if_pos hsub, if_pos (by omega)]
    omega
  by_cases hlast : x < 2 ^ 23
  · rw [if_pos hlast, if_neg hsub, show x = 2 ^ 23 - 1 by omega]
    decide
  rw [if_neg hlast, if_neg hsub]
  have hpos : 0 < 2 ^ (x / 2 ^ 23 - 1) := Nat.two_pow_pos _
  by_cases hcarry : x % 2 ^ 23 = 2 ^ 23 - 1
  · rw [show (x + 1) / 2 ^ 23 - 1 = x / 2 ^ 23 - 1 + 1 by omega, show (x + 1) % 2 ^ 23 = 0 by omega, hcarry,
      Nat.pow_succ 2 (x / 2 ^ 23 - 1)]
    omega
  · rw [show (x + 1) / 2 ^ 23 = x / 2 ^ 23 by omega, show (x + 1) % 2 ^ 23 = x % 2 ^ 23 + 1 by omega]
    exact Nat.mul_lt_mul_of_pos_right (by omega) hpos

/-- A finite F32 pattern stands for its sign and its scaled magnitude (R99). -/
theorem read_f32_finite {a : B32} (h : f32Mag a < 0x7F800000) : ∃ m e, -149 ≤ e ∧
    f32.read a.toNat = .fin (a.getLsbD 31) m e ∧ m * 2 ^ (e - -149).toNat = f32Scaled (f32Mag a) := by
  rw [read_f32, if_neg (by omega), if_neg (by omega)]
  by_cases hsub : f32Mag a < 2 ^ 23
  · refine ⟨_, _, Int.le_refl _, if_pos hsub, ?_⟩
    rw [f32Scaled, if_pos hsub]
    exact Nat.mul_one _
  · refine ⟨_, _, by omega, if_neg hsub, ?_⟩
    rw [f32Scaled, if_neg hsub]
    congr 2
    omega

/-- The integer whose order is that of the values of the patterns that are not NaN (R99). -/
def f32Order (a : B32) : Int := if a.getLsbD 31 then -(f32Mag a : Int) else (a.toNat : Int)

theorem f32Order_eq_signed (a : B32) : f32Order a = signed (a.getLsbD 31) (f32Mag a) := by
  have h := toNat_eq_sign_add_f32Mag a
  unfold f32Order signed
  cases hs : a.getLsbD 31 with
  | true => rfl
  | false =>
    rw [hs, if_neg Bool.false_ne_true, Nat.zero_add] at h
    exact congrArg Int.ofNat h

/-- A signed value compares with every value of lesser magnitude by its own sign. -/
theorem compare_signed_of_lt {x y : Nat} (h : x < y) (s t : Bool) :
    compare (signed s y) (signed t x) = if s then .lt else .gt := by
  cases s with
  | true => exact Int.compare_eq_lt.2 (by cases t <;> simp [signed] <;> omega)
  | false => exact Int.compare_eq_gt.2 (by cases t <;> simp [signed] <;> omega)

/-- Patterns that are not NaN compare as their integers do (R99). -/
theorem cmp_read_f32 {a b : B32} (ha : f32Mag a ≤ 0x7F800000) (hb : f32Mag b ≤ 0x7F800000) :
    (f32.read a.toNat).cmp (f32.read b.toNat) = compare (f32Order a) (f32Order b) := by
  have hinf {x : B32} (h : f32Mag x = 0x7F800000) : f32.read x.toNat = .inf (x.getLsbD 31) := by
    rw [read_f32, if_neg (by omega), if_pos h]
  rw [f32Order_eq_signed, f32Order_eq_signed]
  obtain ha' | ha' := Nat.lt_or_eq_of_le ha <;> obtain hb' | hb' := Nat.lt_or_eq_of_le hb
  · obtain ⟨m, e, he, hra, hm⟩ := read_f32_finite ha'
    obtain ⟨n, d, hd, hrb, hn⟩ := read_f32_finite hb'
    rw [hra, hrb, cmp_fin he hd, hm, hn]
    exact compare_signed_map increasing_f32Scaled rfl ..
  · obtain ⟨m, e, -, hra, -⟩ := read_f32_finite ha'
    rw [hra, hinf hb', hb', Std.OrientedCmp.eq_swap (cmp := compare), compare_signed_of_lt ha']
    cases b.getLsbD 31 <;> rfl
  · obtain ⟨n, d, -, hrb, -⟩ := read_f32_finite hb'
    rw [hrb, hinf ha', ha', compare_signed_of_lt hb']
    rfl
  · rw [hinf ha', hinf hb', ha', hb']
    cases a.getLsbD 31 <;> cases b.getLsbD 31 <;> decide

/-- The patterns of value zero are +0 and −0 (R99). -/
theorem f32Order_eq_zero_iff (a : B32) : f32Order a = 0 ↔ a = 0 ∨ a = 0x80000000 := by
  have hsplit := toNat_eq_sign_add_f32Mag a
  have hzero : a = 0 ↔ a.toNat = 0 := BitVec.toNat_inj.symm
  have hminus : a = 0x80000000 ↔ a.toNat = 2 ^ 31 := BitVec.toNat_inj.symm
  have hmag : f32Mag a < 2 ^ 31 := by rw [f32Mag_eq_mod]; exact Nat.mod_lt _ (by decide)
  rw [f32Order_eq_signed, hzero, hminus]
  generalize a.getLsbD 31 = s at *
  cases s <;> simp only [signed, if_true, Bool.false_eq_true, if_false] at * <;> omega

/-- Two patterns of one value are the same or both zeros. -/
theorem f32Order_eq_zero_of_ne {a b : B32} (h : f32Order a = f32Order b) (hne : a ≠ b) : f32Order a = 0 := by
  have ha := toNat_eq_sign_add_f32Mag a
  have hb := toNat_eq_sign_add_f32Mag b
  have hne' : a.toNat ≠ b.toNat := fun h => hne (BitVec.eq_of_toNat_eq h)
  simp only [f32Order_eq_signed] at *
  generalize a.getLsbD 31 = s at *
  generalize b.getLsbD 31 = t at *
  cases s <;> cases t <;> simp only [signed, if_true, Bool.false_eq_true, if_false] at * <;> omega

section Minmax

variable {f : FFmt} {mx : Bool} {a b : Nat} (ha : (f.read a).isNan = false) (hb : (f.read b).isNan = false)
include ha hb

/-- FMIN or FMAX of values in ascending order (R126). -/
theorem FFmt.minmax_of_lt (h : (f.read a).cmp (f.read b) = .lt) : f.minmax mx a b = if mx then b else a := by
  simp [FFmt.minmax, ha, hb, h]

/-- FMIN or FMAX of values in descending order (R126). -/
theorem FFmt.minmax_of_gt (h : (f.read a).cmp (f.read b) = .gt) : f.minmax mx a b = if mx then a else b := by
  simp [FFmt.minmax, ha, hb, h]

/-- FMIN or FMAX of equal values, which may be zeros of either sign (R126). -/
theorem FFmt.minmax_of_eq (h : (f.read a).cmp (f.read b) = .eq) :
    f.minmax mx a b = if (f.read a).sign == mx then b else a := by
  simp [FFmt.minmax, ha, hb, h]

end Minmax

/-- The operand that FMIN, or FMAX when `mx`, returns (R126). -/
def f32Select (mx : Bool) (a b : B32) : B32 :=
  let nan : B32 → Bool := fun v => decide (0x7F800000#32 < v &&& 0x7FFFFFFF#32)
  if nan a ∧ nan b then 0x7FC00000
  else if nan a then b
  else if nan b then a
  else if f32Order a = 0 ∧ f32Order b = 0 ∧ a ≠ b then (if mx then 0 else 0x80000000)
  else if f32Order a ≤ f32Order b then (if mx then b else a)
  else if mx then a else b

/-- Of zeros of either sign FMIN selects −0 and FMAX +0 (R126). -/
theorem select_of_zeros (mx : Bool) {a b : B32} (ha : f32Order a = 0) (hb : f32Order b = 0) (hne : a ≠ b) :
    (if a.getLsbD 31 == mx then b else a) = if mx then 0 else 0x80000000 := by
  obtain rfl | rfl := (f32Order_eq_zero_iff a).1 ha <;> obtain rfl | rfl := (f32Order_eq_zero_iff b).1 hb
  · exact absurd rfl hne
  · cases mx <;> rfl
  · cases mx <;> rfl
  · exact absurd rfl hne

/-- FMIN and FMAX of F32 patterns that are not NaN return the operand that R126 selects. -/
theorem minmax_f32_of_not_nan (mx : Bool) {a b : B32} (ha : ¬0x7F800000#32 < a &&& 0x7FFFFFFF#32)
    (hb : ¬0x7F800000#32 < b &&& 0x7FFFFFFF#32) : f32.minmax mx a.toNat b.toNat = (f32Select mx a b).toNat := by
  have hna : (f32.read a.toNat).isNan = false := by rw [isNan_read_f32]; exact decide_eq_false ha
  have hnb : (f32.read b.toNat).isNan = false := by rw [isNan_read_f32]; exact decide_eq_false hb
  have hma : f32Mag a ≤ 0x7F800000 := Nat.le_of_not_lt ha
  have hcmp := cmp_read_f32 hma (Nat.le_of_not_lt hb)
  simp only [f32Select, ha, hb, decide_false, Bool.false_eq_true, if_false, false_and]
  rcases Int.lt_trichotomy (f32Order a) (f32Order b) with h | h | h
  · rw [Int.compare_eq_lt.2 h] at hcmp
    rw [if_neg (by omega), if_pos (by omega), FFmt.minmax_of_lt hna hnb hcmp]
    exact (apply_ite BitVec.toNat ..).symm
  · rw [Int.compare_eq_eq.2 h] at hcmp
    rw [FFmt.minmax_of_eq hna hnb hcmp, sign_read_f32 hma, ← apply_ite BitVec.toNat]
    by_cases hab : a = b
    · simp [hab]
    · have hzero := f32Order_eq_zero_of_ne h hab
      have hzero' : f32Order b = 0 := h ▸ hzero
      rw [select_of_zeros mx hzero hzero' hab, if_pos (And.intro hzero ⟨hzero', hab⟩)]
  · rw [Int.compare_eq_gt.2 h] at hcmp
    rw [if_neg (by omega), if_neg (by omega), FFmt.minmax_of_gt hna hnb hcmp]
    exact (apply_ite BitVec.toNat ..).symm

/-- FMIN and FMAX of F32 patterns return the operand that R126 selects. -/
theorem minmax_f32 (mx : Bool) (a b : B32) : f32.minmax mx a.toNat b.toNat = (f32Select mx a b).toNat := by
  by_cases ha : 0x7F800000#32 < a &&& 0x7FFFFFFF#32 <;> by_cases hb : 0x7F800000#32 < b &&& 0x7FFFFFFF#32
  · simp only [FFmt.minmax, isNan_read_f32, f32Select, ha, hb, decide_true, if_true, and_self]
    rfl
  · simp [FFmt.minmax, isNan_read_f32, f32Select, ha, hb]
  · simp [FFmt.minmax, isNan_read_f32, f32Select, ha, hb]
  · exact minmax_f32_of_not_nan mx ha hb

/-- FMIN is a V-pipe word of two F32 sources (R126). -/
theorem exec_fmin (f : FmtA) (s : State) : exec (.fmin f) s =
    .next { s with issue := s.issue.mapV f.n f.d 1 0 fun l =>
      ⟨f32.minmax false (Claims.fs s f.a l) (Claims.fs s f.b l), 0⟩ } := rfl

/-- FMAX is a V-pipe word of two F32 sources (R126). -/
theorem exec_fmax (f : FmtA) (s : State) : exec (.fmax f) s =
    .next { s with issue := s.issue.mapV f.n f.d 1 0 fun l =>
      ⟨f32.minmax true (Claims.fs s f.a l) (Claims.fs s f.b l), 0⟩ } := rfl

/-- A word of FMIN or FMAX leaves the selected operands. -/
theorem vResult_minmax (mx : Bool) (f : FmtA) (s : State) :
    Claims.VResult s { s with issue := s.issue.mapV f.n f.d 1 0 fun l =>
        ⟨f32.minmax mx (Claims.fs s f.a l) (Claims.fs s f.b l), 0⟩ } f.n f.d 1 0
      (fun l => (f32Select mx (BitVec.ofNat 32 (Claims.fs s f.a l)) (BitVec.ofNat 32 (Claims.fs s f.b l))).setWidth 64)
      fun _ => 0 := by
  refine vResult_twoF32 s f.n f.d f.a f.b (op := f32.minmax mx) (r := fun a b => (f32Select mx a b).setWidth 64)
    fun a b => ?_
  rw [minmax_f32]
  exact BitVec.ofNat_toNat 64 (f32Select mx a b)

/-- Settles O6: each word is a word of two F32 sources, whose operation `minmax_f32` describes. -/
theorem minimumAndMaximum : Obligations.MinimumAndMaximum := by
  refine ⟨fun f => ⟨f.opcode_word 0x40, f.opcode_word 0x41, rfl, rfl⟩, ?_⟩
  simp only [List.forall_mem_cons, List.not_mem_nil, false_imp_iff, implies_true, and_true]
  exact ⟨fun f s => ⟨_, exec_fmin f s, vResult_minmax false f s⟩, fun f s => ⟨_, exec_fmax f s, vResult_minmax true f s⟩⟩

end Sys2Proof.Machine
end
